-- ==== Sys2Proof/Word.lean ====
section
/-! DEFINITION. The word types of the machine and the numbers of its register files (R51, R163, R165). -/

namespace Sys2Proof

/-- A 64-bit scalar register value, control register value or virtual address. -/
abbrev Word := BitVec 64

/-- One byte of memory or scratchpad. -/
abbrev Byte := BitVec 8

/-- Scalar register number s0 to s31. -/
abbrev SReg := Fin 32

/-- Address register number a0 to a15. -/
abbrev AReg := Fin 16

/-- Vector register number v0 to v31. -/
abbrev VReg := Fin 32

/-- The reference register of STRIP, v0 to v15 (R205). -/
abbrev VRef := Fin 16

/-- Mask register number m0 to m15. -/
abbrev MReg := Fin 16

/-- Residency register number k0 to k15. -/
abbrev KIdx := Fin 16

/-- Loop counter number c0 to c7. -/
abbrev CIdx := Fin 8

/-- Tile name t0 to t3. -/
abbrev TReg := Fin 4

/-- Burl handle number h0 to h3. -/
abbrev HReg := Fin 4

/-- Stream number 0 to 7. -/
abbrev Stream := Fin 8

/-- log2 of a scalar access size in bytes (R166). -/
abbrev Size := Fin 4

end Sys2Proof
end

