-- ==== Sys2Proof/Syntax.lean ====
section
/-! DEFINITION. The instructions: one constructor for each row of the table of operations. The rows with an encoding come
first, with the operand fields of their encoding (R164 to R166); the device steps, which have no encoding, come after,
with what a party outside the model decides as their operands. -/

namespace Sys2Proof

/-- The base of an SM access: bit 20 of the word selects an a- or an s-register (R165). -/
inductive Base where
  | a (r : AReg)
  | s (r : Fin 16)
deriving DecidableEq, Repr

/-- A hart context of the device (R12, R13). -/
structure Slot where
  core : Nat
  ctx : Nat
deriving DecidableEq, Repr

/-- A grant: a lane count and a length cap (R24). -/
structure Grant where
  lanes : Nat
  q : Nat
deriving DecidableEq, Repr

/-- Who accesses the management address space (R330, R430). -/
inductive Master where
  /-- A hart of the device, by its identity. -/
  | hart (id : Nat)
  /-- A management core. -/
  | mgmt (m : Fin 8)
  /-- A PCIe function. -/
  | pcie (fn : Nat)
deriving DecidableEq, Repr

/-- What a lessee asks of a lessor's memory (R371). The specification gives the accesses that leases serve and no messages: these
operations are the model's (assumption 21). -/
inductive PeerOp where
  /-- The sector that holds the bytes. -/
  | read
  /-- The sector, and the link of its line (R148). -/
  | linked
  /-- A store of the enabled bytes of a sector. -/
  | write (w : BitVec 512) (enable : BitVec 64)
  /-- The bits of a mask replaced: a byte that a store writes only in part (R247). -/
  | merge (w mask : Word)
  /-- A number added and bits set, as one update (R344). -/
  | add (w mark : Word)
  /-- A store of the enabled bytes of a sector that is performed when the link of its line stands (R148). -/
  | conditional (w : BitVec 512) (enable : BitVec 64)
deriving DecidableEq, Repr

/-- What a lessor answers (R372, R394, R418). -/
inductive PeerAnswer where
  /-- A sector and the class that the lessor reports. -/
  | data (cls : Fin 5) (w : BitVec 512)
  /-- A store or an update is performed. -/
  | done
  /-- The outcome of a conditional store. -/
  | conditional (performed : Bool)
  /-- The lessor refuses, or no path is left. -/
  | refused
deriving DecidableEq, Repr

/-- A lessor's answer for the sector at a physical address. -/
structure PeerReply where
  pa : Nat
  answer : PeerAnswer
deriving DecidableEq, Repr

/-- The instructions and device steps. -/
inductive Instr where
  /-- ADD (R186). -/
  | add (sd : SReg) (sa : SReg) (sb : SReg)
  /-- SUB (R186). -/
  | sub (sd : SReg) (sa : SReg) (sb : SReg)
  /-- AND (R186). -/
  | and (sd : SReg) (sa : SReg) (sb : SReg)
  /-- OR (R186). -/
  | or (sd : SReg) (sa : SReg) (sb : SReg)
  /-- XOR (R186). -/
  | xor (sd : SReg) (sa : SReg) (sb : SReg)
  /-- SLL (R186). -/
  | sll (sd : SReg) (sa : SReg) (sb : SReg)
  /-- SRL (R186). -/
  | srl (sd : SReg) (sa : SReg) (sb : SReg)
  /-- SRA (R186). -/
  | sra (sd : SReg) (sa : SReg) (sb : SReg)
  /-- SLT (R186). -/
  | slt (sd : SReg) (sa : SReg) (sb : SReg)
  /-- SLTU (R186). -/
  | sltu (sd : SReg) (sa : SReg) (sb : SReg)
  /-- MUL (R186). -/
  | mul (sd : SReg) (sa : SReg) (sb : SReg)
  /-- MULH (R186). -/
  | mulh (sd : SReg) (sa : SReg) (sb : SReg)
  /-- MULHU (R186). -/
  | mulhu (sd : SReg) (sa : SReg) (sb : SReg)
  /-- DIV (R187). -/
  | div (sd : SReg) (sa : SReg) (sb : SReg)
  /-- DIVU (R187). -/
  | divu (sd : SReg) (sa : SReg) (sb : SReg)
  /-- REM (R187). -/
  | rem (sd : SReg) (sa : SReg) (sb : SReg)
  /-- REMU (R187). -/
  | remu (sd : SReg) (sa : SReg) (sb : SReg)
  /-- MIN (R186). -/
  | min (sd : SReg) (sa : SReg) (sb : SReg)
  /-- MAX (R186). -/
  | max (sd : SReg) (sa : SReg) (sb : SReg)
  /-- MINU (R186). -/
  | minu (sd : SReg) (sa : SReg) (sb : SReg)
  /-- MAXU (R186). -/
  | maxu (sd : SReg) (sa : SReg) (sb : SReg)
  /-- CLZ (R186). -/
  | clz (sd : SReg) (sa : SReg)
  /-- CTZ (R186). -/
  | ctz (sd : SReg) (sa : SReg)
  /-- POPC (R186). -/
  | popc (sd : SReg) (sa : SReg)
  /-- SLLI (R186). -/
  | slli (sd : SReg) (sa : SReg) (sh : BitVec 6)
  /-- SRLI (R186). -/
  | srli (sd : SReg) (sa : SReg) (sh : BitVec 6)
  /-- SRAI (R186). -/
  | srai (sd : SReg) (sa : SReg) (sh : BitVec 6)
  /-- ADDI (R189). -/
  | addi (sd : SReg) (sa : SReg) (imm : BitVec 16)
  /-- ANDI (R189). -/
  | andi (sd : SReg) (sa : SReg) (imm : BitVec 16)
  /-- ORI (R189). -/
  | ori (sd : SReg) (sa : SReg) (imm : BitVec 16)
  /-- XORI (R189). -/
  | xori (sd : SReg) (sa : SReg) (imm : BitVec 16)
  /-- SLTI (R189). -/
  | slti (sd : SReg) (sa : SReg) (imm : BitVec 16)
  /-- LIH (R189). -/
  | lih (sd : SReg) (sa : SReg) (imm : BitVec 16)
  /-- LPC (R190). -/
  | lpc (sd : SReg) (imm : BitVec 16)
  /-- LDS (R191). -/
  | lds (sd : SReg) (base : Base) (size : Size) (uns : Bool) (off : BitVec 13)
  /-- STS (R191). -/
  | sts (sd : SReg) (base : Base) (size : Size) (off : BitVec 13)
  /-- BEQ (R193). -/
  | beq (sa : SReg) (sb : SReg) (off : BitVec 13)
  /-- BNE (R193). -/
  | bne (sa : SReg) (sb : SReg) (off : BitVec 13)
  /-- BLT (R193). -/
  | blt (sa : SReg) (sb : SReg) (off : BitVec 13)
  /-- BGE (R193). -/
  | bge (sa : SReg) (sb : SReg) (off : BitVec 13)
  /-- BLTU (R193). -/
  | bltu (sa : SReg) (sb : SReg) (off : BitVec 13)
  /-- BGEU (R193). -/
  | bgeu (sa : SReg) (sb : SReg) (off : BitVec 13)
  /-- JMP (R193). -/
  | jmp (off : BitVec 26)
  /-- CALL (R193). -/
  | call (off : BitVec 26)
  /-- CRGET (R195). -/
  | crget (sd : SReg) (num : BitVec 12)
  /-- CRPUT (R196). -/
  | crput (sa : SReg) (num : BitVec 12)
  /-- CRSETB (R195). -/
  | crsetb (sd : SReg) (sa : SReg) (num : BitVec 12)
  /-- CRCLRB (R195). -/
  | crclrb (sd : SReg) (sa : SReg) (num : BitVec 12)
  /-- CRSWAP (R195). -/
  | crswap (sd : SReg) (sa : SReg) (num : BitVec 12)
  /-- TRAP (R199). -/
  | trap (code : BitVec 8)
  /-- BRK (R199). -/
  | brk
  /-- JR (R200). -/
  | jr (sa : SReg)
  /-- CALLR (R200). -/
  | callr (sd : SReg) (sa : SReg)
  /-- SYNCI (R201). -/
  | synci
  /-- DONE (R202). -/
  | done
  /-- TRET (R381). -/
  | tret
  /-- IDLE (R203). -/
  | idle
  /-- TRAPM (R325). -/
  | trapm (code : BitVec 8)
  /-- PFX (R173). -/
  | pfx (pm : MReg) (inv : Bool) (cls : BitVec 2) (idx : BitVec 5)
  /-- STRIP (R28). -/
  | strip (sa : SReg) (vref : VRef) (w3 : BitVec 3) (w2 : BitVec 3) (w1 : BitVec 3) (w0 : BitVec 3)
  /-- CLAIM (R46). -/
  | claim (sd : SReg) (sa : SReg) (base : AReg) (vref : VReg) (st : Stream)
  /-- GBAR (R33). -/
  | gbar
  /-- PHEND (R35). -/
  | phend
  /-- LFORK (R43). -/
  | lfork (sd : SReg) (off : BitVec 14)
  /-- LJOIN (R44). -/
  | ljoin
  /-- VFETCH (R39). -/
  | vfetch (vd : VReg) (va : VReg) (m : MReg)
  /-- LBEND (R214). -/
  | lbend
  /-- QPOST (R216). -/
  | qpost (sd : SReg) (base : AReg) (va : VReg)
  /-- VADD (R224). -/
  | vadd (vd : VReg) (va : VReg) (vb : VReg) (ca : Bool) (cb : Bool) (m : MReg)
  /-- VADD_VX (R224). -/
  | vaddVx (vd : VReg) (va : VReg) (sb : SReg) (m : MReg)
  /-- VSUB (R224). -/
  | vsub (vd : VReg) (va : VReg) (vb : VReg) (ca : Bool) (cb : Bool) (m : MReg)
  /-- VSUB_VX (R224). -/
  | vsubVx (vd : VReg) (va : VReg) (sb : SReg) (m : MReg)
  /-- VRSUB (R224). -/
  | vrsub (vd : VReg) (va : VReg) (vb : VReg) (ca : Bool) (cb : Bool) (m : MReg)
  /-- VRSUB_VX (R224). -/
  | vrsubVx (vd : VReg) (va : VReg) (sb : SReg) (m : MReg)
  /-- VMUL (R224). -/
  | vmul (vd : VReg) (va : VReg) (vb : VReg) (ca : Bool) (cb : Bool) (m : MReg)
  /-- VMUL_VX (R224). -/
  | vmulVx (vd : VReg) (va : VReg) (sb : SReg) (m : MReg)
  /-- VMULH (R224). -/
  | vmulh (vd : VReg) (va : VReg) (vb : VReg) (ca : Bool) (cb : Bool) (m : MReg)
  /-- VMULH_VX (R224). -/
  | vmulhVx (vd : VReg) (va : VReg) (sb : SReg) (m : MReg)
  /-- VDIV (R224). -/
  | vdiv (vd : VReg) (va : VReg) (vb : VReg) (ca : Bool) (cb : Bool) (m : MReg)
  /-- VDIV_VX (R224). -/
  | vdivVx (vd : VReg) (va : VReg) (sb : SReg) (m : MReg)
  /-- VREM (R224). -/
  | vrem (vd : VReg) (va : VReg) (vb : VReg) (ca : Bool) (cb : Bool) (m : MReg)
  /-- VREM_VX (R224). -/
  | vremVx (vd : VReg) (va : VReg) (sb : SReg) (m : MReg)
  /-- VMIN (R224). -/
  | vmin (vd : VReg) (va : VReg) (vb : VReg) (ca : Bool) (cb : Bool) (m : MReg)
  /-- VMIN_VX (R224). -/
  | vminVx (vd : VReg) (va : VReg) (sb : SReg) (m : MReg)
  /-- VMAX (R224). -/
  | vmax (vd : VReg) (va : VReg) (vb : VReg) (ca : Bool) (cb : Bool) (m : MReg)
  /-- VMAX_VX (R224). -/
  | vmaxVx (vd : VReg) (va : VReg) (sb : SReg) (m : MReg)
  /-- VAND (R224). -/
  | vand (vd : VReg) (va : VReg) (vb : VReg) (ca : Bool) (cb : Bool) (m : MReg)
  /-- VAND_VX (R224). -/
  | vandVx (vd : VReg) (va : VReg) (sb : SReg) (m : MReg)
  /-- VOR (R224). -/
  | vor (vd : VReg) (va : VReg) (vb : VReg) (ca : Bool) (cb : Bool) (m : MReg)
  /-- VOR_VX (R224). -/
  | vorVx (vd : VReg) (va : VReg) (sb : SReg) (m : MReg)
  /-- VXOR (R224). -/
  | vxor (vd : VReg) (va : VReg) (vb : VReg) (ca : Bool) (cb : Bool) (m : MReg)
  /-- VXOR_VX (R224). -/
  | vxorVx (vd : VReg) (va : VReg) (sb : SReg) (m : MReg)
  /-- VSLL (R224). -/
  | vsll (vd : VReg) (va : VReg) (vb : VReg) (ca : Bool) (cb : Bool) (m : MReg)
  /-- VSLL_VX (R224). -/
  | vsllVx (vd : VReg) (va : VReg) (sb : SReg) (m : MReg)
  /-- VSRL (R224). -/
  | vsrl (vd : VReg) (va : VReg) (vb : VReg) (ca : Bool) (cb : Bool) (m : MReg)
  /-- VSRL_VX (R224). -/
  | vsrlVx (vd : VReg) (va : VReg) (sb : SReg) (m : MReg)
  /-- VSRA (R224). -/
  | vsra (vd : VReg) (va : VReg) (vb : VReg) (ca : Bool) (cb : Bool) (m : MReg)
  /-- VSRA_VX (R224). -/
  | vsraVx (vd : VReg) (va : VReg) (sb : SReg) (m : MReg)
  /-- VADDS (R224). -/
  | vadds (vd : VReg) (va : VReg) (vb : VReg) (ca : Bool) (cb : Bool) (m : MReg)
  /-- VADDS_VX (R224). -/
  | vaddsVx (vd : VReg) (va : VReg) (sb : SReg) (m : MReg)
  /-- VSUBS (R224). -/
  | vsubs (vd : VReg) (va : VReg) (vb : VReg) (ca : Bool) (cb : Bool) (m : MReg)
  /-- VSUBS_VX (R224). -/
  | vsubsVx (vd : VReg) (va : VReg) (sb : SReg) (m : MReg)
  /-- VMULS (R224). -/
  | vmuls (vd : VReg) (va : VReg) (vb : VReg) (ca : Bool) (cb : Bool) (m : MReg)
  /-- VMULS_VX (R224). -/
  | vmulsVx (vd : VReg) (va : VReg) (sb : SReg) (m : MReg)
  /-- VAVG (R224). -/
  | vavg (vd : VReg) (va : VReg) (vb : VReg) (ca : Bool) (cb : Bool) (m : MReg)
  /-- VAVG_VX (R224). -/
  | vavgVx (vd : VReg) (va : VReg) (sb : SReg) (m : MReg)
  /-- VABSD (R224). -/
  | vabsd (vd : VReg) (va : VReg) (vb : VReg) (ca : Bool) (cb : Bool) (m : MReg)
  /-- VABSD_VX (R224). -/
  | vabsdVx (vd : VReg) (va : VReg) (sb : SReg) (m : MReg)
  /-- VABS (R224). -/
  | vabs (vd : VReg) (va : VReg) (ca : Bool) (m : MReg)
  /-- VPOPC (R224). -/
  | vpopc (vd : VReg) (va : VReg) (ca : Bool) (m : MReg)
  /-- VCLZ (R224). -/
  | vclz (vd : VReg) (va : VReg) (ca : Bool) (m : MReg)
  /-- VFADD (R225). -/
  | vfadd (vd : VReg) (va : VReg) (vb : VReg) (ca : Bool) (cb : Bool) (m : MReg)
  /-- VFADD_VX (R225). -/
  | vfaddVx (vd : VReg) (va : VReg) (sb : SReg) (m : MReg)
  /-- VFSUB (R225). -/
  | vfsub (vd : VReg) (va : VReg) (vb : VReg) (ca : Bool) (cb : Bool) (m : MReg)
  /-- VFSUB_VX (R225). -/
  | vfsubVx (vd : VReg) (va : VReg) (sb : SReg) (m : MReg)
  /-- VFRSUB (R225). -/
  | vfrsub (vd : VReg) (va : VReg) (vb : VReg) (ca : Bool) (cb : Bool) (m : MReg)
  /-- VFRSUB_VX (R225). -/
  | vfrsubVx (vd : VReg) (va : VReg) (sb : SReg) (m : MReg)
  /-- VFMUL (R225). -/
  | vfmul (vd : VReg) (va : VReg) (vb : VReg) (ca : Bool) (cb : Bool) (m : MReg)
  /-- VFMUL_VX (R225). -/
  | vfmulVx (vd : VReg) (va : VReg) (sb : SReg) (m : MReg)
  /-- VFDIV (R225). -/
  | vfdiv (vd : VReg) (va : VReg) (vb : VReg) (ca : Bool) (cb : Bool) (m : MReg)
  /-- VFDIV_VX (R225). -/
  | vfdivVx (vd : VReg) (va : VReg) (sb : SReg) (m : MReg)
  /-- VFMIN (R225). -/
  | vfmin (vd : VReg) (va : VReg) (vb : VReg) (ca : Bool) (cb : Bool) (m : MReg)
  /-- VFMIN_VX (R225). -/
  | vfminVx (vd : VReg) (va : VReg) (sb : SReg) (m : MReg)
  /-- VFMAX (R225). -/
  | vfmax (vd : VReg) (va : VReg) (vb : VReg) (ca : Bool) (cb : Bool) (m : MReg)
  /-- VFMAX_VX (R225). -/
  | vfmaxVx (vd : VReg) (va : VReg) (sb : SReg) (m : MReg)
  /-- VFSQRT (R225). -/
  | vfsqrt (vd : VReg) (va : VReg) (ca : Bool) (m : MReg)
  /-- VFABS (R225). -/
  | vfabs (vd : VReg) (va : VReg) (ca : Bool) (m : MReg)
  /-- VFNEG (R225). -/
  | vfneg (vd : VReg) (va : VReg) (ca : Bool) (m : MReg)
  /-- VFSGNJ (R225). -/
  | vfsgnj (vd : VReg) (va : VReg) (vb : VReg) (ca : Bool) (cb : Bool) (m : MReg)
  /-- VFSGNJ_VX (R225). -/
  | vfsgnjVx (vd : VReg) (va : VReg) (sb : SReg) (m : MReg)
  /-- VFMA (R226). -/
  | vfma (vd : VReg) (va : VReg) (vb : VReg) (ca : Bool) (cb : Bool) (m : MReg)
  /-- VFMS (R226). -/
  | vfms (vd : VReg) (va : VReg) (vb : VReg) (ca : Bool) (cb : Bool) (m : MReg)
  /-- VFNMA (R226). -/
  | vfnma (vd : VReg) (va : VReg) (vb : VReg) (ca : Bool) (cb : Bool) (m : MReg)
  /-- VFNMS (R226). -/
  | vfnms (vd : VReg) (va : VReg) (vb : VReg) (ca : Bool) (cb : Bool) (m : MReg)
  /-- VMADD (R226). -/
  | vmadd (vd : VReg) (va : VReg) (vb : VReg) (ca : Bool) (cb : Bool) (m : MReg)
  /-- VMADDS (R226). -/
  | vmadds (vd : VReg) (va : VReg) (vb : VReg) (ca : Bool) (cb : Bool) (m : MReg)
  /-- VNMSUB (R226). -/
  | vnmsub (vd : VReg) (va : VReg) (vb : VReg) (ca : Bool) (cb : Bool) (m : MReg)
  /-- VCMP_EQ (R227). -/
  | vcmpEq (md : MReg) (va : VReg) (vb : VReg) (ca : Bool) (cb : Bool) (m : MReg)
  /-- VCMP_NE (R227). -/
  | vcmpNe (md : MReg) (va : VReg) (vb : VReg) (ca : Bool) (cb : Bool) (m : MReg)
  /-- VCMP_LT (R227). -/
  | vcmpLt (md : MReg) (va : VReg) (vb : VReg) (ca : Bool) (cb : Bool) (m : MReg)
  /-- VCMP_LE (R227). -/
  | vcmpLe (md : MReg) (va : VReg) (vb : VReg) (ca : Bool) (cb : Bool) (m : MReg)
  /-- VCMP_GT (R227). -/
  | vcmpGt (md : MReg) (va : VReg) (vb : VReg) (ca : Bool) (cb : Bool) (m : MReg)
  /-- VCMP_GE (R227). -/
  | vcmpGe (md : MReg) (va : VReg) (vb : VReg) (ca : Bool) (cb : Bool) (m : MReg)
  /-- VCMP_UN (R227). -/
  | vcmpUn (md : MReg) (va : VReg) (vb : VReg) (ca : Bool) (cb : Bool) (m : MReg)
  /-- VCMP_EQ_VX (R227). -/
  | vcmpEqVx (md : MReg) (va : VReg) (sb : SReg) (m : MReg)
  /-- VCMP_NE_VX (R227). -/
  | vcmpNeVx (md : MReg) (va : VReg) (sb : SReg) (m : MReg)
  /-- VCMP_LT_VX (R227). -/
  | vcmpLtVx (md : MReg) (va : VReg) (sb : SReg) (m : MReg)
  /-- VCMP_LE_VX (R227). -/
  | vcmpLeVx (md : MReg) (va : VReg) (sb : SReg) (m : MReg)
  /-- VCMP_GT_VX (R227). -/
  | vcmpGtVx (md : MReg) (va : VReg) (sb : SReg) (m : MReg)
  /-- VCMP_GE_VX (R227). -/
  | vcmpGeVx (md : MReg) (va : VReg) (sb : SReg) (m : MReg)
  /-- VCMP_UN_VX (R227). -/
  | vcmpUnVx (md : MReg) (va : VReg) (sb : SReg) (m : MReg)
  /-- VNZ (R228). -/
  | vnz (md : MReg) (va : VReg) (m : MReg)
  /-- MAND (R229). -/
  | mand (md : MReg) (ma : MReg) (mb : MReg)
  /-- MOR (R229). -/
  | mor (md : MReg) (ma : MReg) (mb : MReg)
  /-- MXOR (R229). -/
  | mxor (md : MReg) (ma : MReg) (mb : MReg)
  /-- MANDN (R229). -/
  | mandn (md : MReg) (ma : MReg) (mb : MReg)
  /-- MNOT (R229). -/
  | mnot (md : MReg) (ma : MReg)
  /-- MPOPC (R229). -/
  | mpopc (sd : SReg) (ma : MReg)
  /-- MFIRST (R229). -/
  | mfirst (sd : SReg) (ma : MReg)
  /-- VEXIT (R230). -/
  | vexit (ma : MReg)
  /-- VEXIT_INCL (R230). -/
  | vexitIncl (ma : MReg)
  /-- VREDSUM (R231). -/
  | vredsum (vd : VReg) (va : VReg) (vb : VReg) (m : MReg)
  /-- VREDSUMS (R231). -/
  | vredsums (vd : VReg) (va : VReg) (vb : VReg) (m : MReg)
  /-- VREDMIN (R231). -/
  | vredmin (vd : VReg) (va : VReg) (vb : VReg) (m : MReg)
  /-- VREDMAX (R231). -/
  | vredmax (vd : VReg) (va : VReg) (vb : VReg) (m : MReg)
  /-- VREDAND (R231). -/
  | vredand (vd : VReg) (va : VReg) (vb : VReg) (m : MReg)
  /-- VREDOR (R231). -/
  | vredor (vd : VReg) (va : VReg) (vb : VReg) (m : MReg)
  /-- VREDXOR (R231). -/
  | vredxor (vd : VReg) (va : VReg) (vb : VReg) (m : MReg)
  /-- VGMAX (R232). -/
  | vgmax (vd : VReg) (va : VReg) (sb : SReg) (m : MReg)
  /-- VGMIN (R232). -/
  | vgmin (vd : VReg) (va : VReg) (sb : SReg) (m : MReg)
  /-- VGOR (R232). -/
  | vgor (vd : VReg) (va : VReg) (sb : SReg) (m : MReg)
  /-- VMOV (R234). -/
  | vmov (vd : VReg) (va : VReg) (ca : Bool) (m : MReg)
  /-- VMERGE (R235). -/
  | vmerge (vd : VReg) (va : VReg) (vb : VReg) (ca : Bool) (cb : Bool) (m : MReg)
  /-- VBCAST (R234). -/
  | vbcast (vd : VReg) (sb : SReg) (m : MReg)
  /-- VIDX (R234). -/
  | vidx (vd : VReg) (m : MReg)
  /-- VEXTR (R236). -/
  | vextr (sd : SReg) (va : VReg) (sb : SReg)
  /-- VPERM (R237). -/
  | vperm (vd : VReg) (va : VReg) (vb : VReg) (m : MReg)
  /-- VSLUP (R238). -/
  | vslup (vd : VReg) (va : VReg) (sb : SReg) (m : MReg)
  /-- VSLDN (R238). -/
  | vsldn (vd : VReg) (va : VReg) (sb : SReg) (m : MReg)
  /-- VSL1UP (R238). -/
  | vsl1up (vd : VReg) (va : VReg) (sb : SReg) (m : MReg)
  /-- VSL1DN (R238). -/
  | vsl1dn (vd : VReg) (va : VReg) (sb : SReg) (m : MReg)
  /-- VCOMPRESS (R239). -/
  | vcompress (vd : VReg) (va : VReg) (m : MReg)
  /-- VEXPAND (R239). -/
  | vexpand (vd : VReg) (va : VReg) (m : MReg)
  /-- VCONFM (R240). -/
  | vconfm (md : MReg) (va : VReg) (m : MReg)
  /-- VCONFC (R240). -/
  | vconfc (vd : VReg) (va : VReg) (m : MReg)
  /-- VFSR (R241). -/
  | vfsr (vd : VReg) (va : VReg) (sb : SReg) (m : MReg)
  /-- VFSL (R241). -/
  | vfsl (vd : VReg) (va : VReg) (sb : SReg) (m : MReg)
  /-- VFSRV (R241). -/
  | vfsrv (vd : VReg) (va : VReg) (vb : VReg) (m : MReg)
  /-- VFSLV (R241). -/
  | vfslv (vd : VReg) (va : VReg) (vb : VReg) (m : MReg)
  /-- VCFG (R243). -/
  | vcfg (vd : VReg) (sb : SReg)
  /-- VCVT (R244). -/
  | vcvt (vd : VReg) (va : VReg) (ca : Bool) (m : MReg)
  /-- VCVT_RNE (R244). -/
  | vcvtRne (vd : VReg) (va : VReg) (ca : Bool) (m : MReg)
  /-- VCVT_RTZ (R244). -/
  | vcvtRtz (vd : VReg) (va : VReg) (ca : Bool) (m : MReg)
  /-- VCVT_RDN (R244). -/
  | vcvtRdn (vd : VReg) (va : VReg) (ca : Bool) (m : MReg)
  /-- VCVT_RUP (R244). -/
  | vcvtRup (vd : VReg) (va : VReg) (ca : Bool) (m : MReg)
  /-- VCVT_RNA (R244). -/
  | vcvtRna (vd : VReg) (va : VReg) (ca : Bool) (m : MReg)
  /-- VCVT_SR (R244). -/
  | vcvtSr (vd : VReg) (va : VReg) (ca : Bool) (m : MReg)
  /-- VQNT (R245). -/
  | vqnt (vd : VReg) (va : VReg) (m : MReg)
  /-- VLD_IMM (R253). -/
  | vldImm (vd : VReg) (base : AReg) (imm : BitVec 5) (st : Stream) (m : MReg)
  /-- VLD_REG (R253). -/
  | vldReg (vd : VReg) (base : AReg) (sx : SReg) (st : Stream) (m : MReg)
  /-- VLDK (R102). -/
  | vldk (vd : VReg) (k : KIdx) (sx : SReg) (st : Stream) (m : MReg)
  /-- VLD_STR (R253). -/
  | vldStr (vd : VReg) (base : AReg) (sx : SReg) (st : Stream) (m : MReg)
  /-- VST_IMM (R253). -/
  | vstImm (vd : VReg) (base : AReg) (imm : BitVec 5) (ca : Bool) (st : Stream) (m : MReg)
  /-- VST_REG (R253). -/
  | vstReg (vd : VReg) (base : AReg) (sx : SReg) (ca : Bool) (st : Stream) (m : MReg)
  /-- VSTK (R102). -/
  | vstk (vd : VReg) (k : KIdx) (sx : SReg) (ca : Bool) (st : Stream) (m : MReg)
  /-- VST_STR (R253). -/
  | vstStr (vd : VReg) (base : AReg) (sx : SReg) (ca : Bool) (st : Stream) (m : MReg)
  /-- VSTU (R254). -/
  | vstu (vd : VReg) (base : AReg) (sx : SReg) (ca : Bool) (st : Stream) (m : MReg)
  /-- VLDF_IMM (R255). -/
  | vldfImm (vd : VReg) (base : AReg) (imm : BitVec 5) (st : Stream) (m : MReg)
  /-- VLDF_REG (R255). -/
  | vldfReg (vd : VReg) (base : AReg) (sx : SReg) (st : Stream) (m : MReg)
  /-- VLDKF (R255). -/
  | vldkf (vd : VReg) (k : KIdx) (sx : SReg) (st : Stream) (m : MReg)
  /-- VLDF_STR (R255). -/
  | vldfStr (vd : VReg) (base : AReg) (sx : SReg) (st : Stream) (m : MReg)
  /-- VGATH (R257). -/
  | vgath (vd : VReg) (base : AReg) (vi : VReg) (ca : Bool) (st : Stream) (m : MReg)
  /-- VGATHK (R257). -/
  | vgathk (vd : VReg) (k : KIdx) (vi : VReg) (ca : Bool) (st : Stream) (m : MReg)
  /-- VGATH_B (R257). -/
  | vgathB (vd : VReg) (base : AReg) (vi : VReg) (ca : Bool) (st : Stream) (m : MReg)
  /-- VSCAT_O (R257). -/
  | vscatO (vd : VReg) (base : AReg) (vi : VReg) (ca : Bool) (st : Stream) (m : MReg)
  /-- VSCATK_O (R257). -/
  | vscatkO (vd : VReg) (k : KIdx) (vi : VReg) (ca : Bool) (st : Stream) (m : MReg)
  /-- VSCAT (R257). -/
  | vscat (vd : VReg) (base : AReg) (vi : VReg) (ca : Bool) (st : Stream) (m : MReg)
  /-- VSCATK (R257). -/
  | vscatk (vd : VReg) (k : KIdx) (vi : VReg) (ca : Bool) (st : Stream) (m : MReg)
  /-- VSCAT_O_B (R257). -/
  | vscatOB (vd : VReg) (base : AReg) (vi : VReg) (ca : Bool) (st : Stream) (m : MReg)
  /-- VSCAT_B (R257). -/
  | vscatB (vd : VReg) (base : AReg) (vi : VReg) (ca : Bool) (st : Stream) (m : MReg)
  /-- VGLL (R148). -/
  | vgll (vd : VReg) (base : AReg) (vi : VReg) (ca : Bool) (st : Stream) (m : MReg)
  /-- VSCC (R260). -/
  | vscc (vd : VReg) (base : AReg) (vi : VReg) (ca : Bool) (st : Stream) (m : MReg)
  /-- VAADD (R259). -/
  | vaadd (vd : VReg) (base : AReg) (vi : VReg) (ca : Bool) (st : Stream) (m : MReg)
  /-- VAMIN (R259). -/
  | vamin (vd : VReg) (base : AReg) (vi : VReg) (ca : Bool) (st : Stream) (m : MReg)
  /-- VAMAX (R259). -/
  | vamax (vd : VReg) (base : AReg) (vi : VReg) (ca : Bool) (st : Stream) (m : MReg)
  /-- VAAND (R259). -/
  | vaand (vd : VReg) (base : AReg) (vi : VReg) (ca : Bool) (st : Stream) (m : MReg)
  /-- VAOR (R259). -/
  | vaor (vd : VReg) (base : AReg) (vi : VReg) (ca : Bool) (st : Stream) (m : MReg)
  /-- VAXCHG (R259). -/
  | vaxchg (vd : VReg) (base : AReg) (vi : VReg) (ca : Bool) (st : Stream) (m : MReg)
  /-- FENCE (R143). -/
  | fence (scope : BitVec 3) (mask : BitVec 8)
  /-- SBAR (R144). -/
  | sbar (mask : BitVec 8)
  /-- LDACQ (R141). -/
  | ldacq (sd : SReg) (scope : BitVec 3) (size : Size) (base : AReg) (st : Stream)
  /-- STREL (R141). -/
  | strel (sa : SReg) (scope : BitVec 3) (size : Size) (base : AReg) (st : Stream)
  /-- KSET (R265). -/
  | kset (k : KIdx) (sa : SReg)
  /-- KDIM (R266). -/
  | kdim (k : KIdx) (sa : SReg) (dim : BitVec 2)
  /-- KADV (R267). -/
  | kadv (c : CIdx) (imm : BitVec 11)
  /-- KADVZ (R267). -/
  | kadvz (c : CIdx) (cz : CIdx) (imm : BitVec 8)
  /-- KSETC (R267). -/
  | ksetc (c : CIdx) (sa : SReg)
  /-- KREL (R268). -/
  | krel (k : KIdx)
  /-- KWAIT (R268). -/
  | kwait (k : KIdx)
  /-- KQRY (R268). -/
  | kqry (k : KIdx) (sa : SReg) (word : BitVec 4)
  /-- NMC (R271). -/
  | nmc (vc : VReg) (base : AReg) (sx : SReg) (st : Stream) (m : MReg)
  /-- XLDE (R275). -/
  | xlde (vd : VReg) (base : AReg) (sx : SReg) (st : Stream) (m : MReg)
  /-- XSTC (R275). -/
  | xstc (vd : VReg) (base : AReg) (sx : SReg) (ca : Bool) (st : Stream) (m : MReg)
  /-- XEFST (R277). -/
  | xefst (vd : VReg) (base : AReg) (sx : SReg) (ca : Bool) (st : Stream) (m : MReg)
  /-- COLL (R278). -/
  | coll (vc : VReg) (base : AReg) (sx : SReg) (st : Stream)
  /-- MOP (R285). -/
  | mop (td : TReg) (va : VReg) (vb : VReg) (ca : Bool) (cb : Bool) (m : MReg)
  /-- MOPN (R285). -/
  | mopn (td : TReg) (va : VReg) (vb : VReg) (ca : Bool) (cb : Bool) (m : MReg)
  /-- MOPK (R287). -/
  | mopk (td : TReg) (va : VReg) (vb : VReg) (ca : Bool) (cb : Bool) (m : MReg) (k : KIdx)
  /-- TZERO (R288). -/
  | tzero (td : TReg)
  /-- TMVR (R289). -/
  | tmvr (td : TReg) (va : VReg) (sb : SReg) (m : MReg)
  /-- TMVC (R289). -/
  | tmvc (td : TReg) (va : VReg) (sb : SReg) (m : MReg)
  /-- TMRV (R289). -/
  | tmrv (td : TReg) (va : VReg) (sb : SReg) (m : MReg)
  /-- TMCV (R289). -/
  | tmcv (td : TReg) (va : VReg) (sb : SReg) (m : MReg)
  /-- TCHK (R291). -/
  | tchk (td : TReg) (ma : MReg) (sb : SReg)
  /-- TSEAL (R290). -/
  | tseal (td : TReg)
  /-- SPADD (R294). -/
  | spadd (vd : VReg) (va : VReg) (vb : VReg)
  /-- SPMUL (R294). -/
  | spmul (vd : VReg) (va : VReg) (vb : VReg)
  /-- SPSUB (R294). -/
  | spsub (vd : VReg) (va : VReg) (vb : VReg)
  /-- SPACK (R295). -/
  | spack (vd : VReg) (va : VReg) (m : MReg)
  /-- SUNPK (R295). -/
  | sunpk (vd : VReg) (va : VReg) (m : MReg)
  /-- SPLEN (R295). -/
  | splen (vd : VReg) (sb : SReg)
  /-- PRUNE (R297). -/
  | prune (vd : VReg) (va : VReg) (sb : SReg) (m : MReg)
  /-- PRUNE_U (R297). -/
  | pruneU (vd : VReg) (va : VReg) (sb : SReg) (m : MReg)
  /-- HCLAIM (R307). -/
  | hclaim (sd : SReg) (sb : SReg) (h : HReg)
  /-- HINS (R308). -/
  | hins (md : MReg) (va : VReg) (vb : VReg) (m : MReg) (h : HReg)
  /-- HPROBE (R308). -/
  | hprobe (vd : VReg) (va : VReg) (mb : MReg) (m : MReg) (h : HReg)
  /-- HDEL (R308). -/
  | hdel (md : MReg) (va : VReg) (m : MReg) (h : HReg)
  /-- HACC (R308). -/
  | hacc (md : MReg) (va : VReg) (vb : VReg) (m : MReg) (h : HReg)
  /-- HDRAIN (R309). -/
  | hdrain (vd : VReg) (va : VReg) (sb : SReg) (h : HReg)
  /-- HREL (R310). -/
  | hrel (h : HReg)
  /-- HSTAT (R310). -/
  | hstat (sd : SReg) (h : HReg)
  /-- INTERRUPT_ENTRY (R376). -/
  | interruptEntry (m : Fin 8)
  /-- ADVANCE_COMPLETE (R101). -/
  | advanceComplete (hart : Nat) (k : KIdx)
  /-- STALE_REFETCH (R365). -/
  | staleRefetch (hart : Nat) (k : KIdx)
  /-- MATRIX_ENTRY_COMPLETE (R280). -/
  | matrixEntryComplete (core : Nat)
  /-- MANDREL_AXPBY (R270). -/
  | mandrelAxpby (hart : Nat)
  /-- MANDREL_STEP (R270). -/
  | mandrelStep (hart : Nat)
  /-- MANDREL_FILL (R270). -/
  | mandrelFill (hart : Nat)
  /-- MANDREL_COPY (R270). -/
  | mandrelCopy (hart : Nat)
  /-- MANDREL_IADD (R270). -/
  | mandrelIadd (hart : Nat)
  /-- MANDREL_SCRUB (R272). -/
  | mandrelScrub (hart : Nat)
  /-- ALLRED (R279). -/
  | allred (group : Nat)
  /-- REDSCAT (R279). -/
  | redscat (group : Nat)
  /-- ALLGATH (R279). -/
  | allgath (group : Nat)
  /-- BCAST (R279). -/
  | bcast (group : Nat)
  /-- COLL_INSTANCE_TIMEOUT (R424). -/
  | collInstanceTimeout (group : Nat) (inst : Nat)
  /-- COLL_GROUP_INVALIDATE (R426). -/
  | collGroupInvalidate (group : Nat)
  /-- PHASE_SWEEP (R36). -/
  | phaseSweep (gang : Nat)
  /-- SCATTER_ACKNOWLEDGE (R35). -/
  | scatterAcknowledge (hart : Nat) (lane : Fin 16)
  /-- DOORBELL_ANNOUNCE (R340). -/
  | doorbellAnnounce (queue : BitVec 16) (index : Word)
  /-- EXAMINE_RECORD (R341). -/
  | examineRecord (queue : BitVec 16)
  /-- EPOCH_END (R348). -/
  | epochEnd
  /-- GANG_PLACE (R352). -/
  | gangPlace (queue : BitVec 16) (slots : List Slot) (grant : Grant)
  /-- TIME_SLICE_END (R355). -/
  | timeSliceEnd (gang : Nat)
  /-- GANG_PREEMPT (R384). -/
  | gangPreempt (gang : Nat)
  /-- GANG_RESUME (R388). -/
  | gangResume (gang : Nat) (slots : List Slot) (grant : Grant)
  /-- FRZCMD_UNFREEZE (R336). -/
  | frzcmdUnfreeze (hart : Nat)
  /-- FRZCMD_KILL (R336). -/
  | frzcmdKill (hart : Nat)
  /-- PART_WRITE (R328). -/
  | partWrite (p : Fin 8) (w : Word)
  /-- QD_WRITE (R346). -/
  | qdWrite (queue : BitVec 16) (word : Fin 4) (w : Word)
  /-- QUEUE_UNREGISTER (R347). -/
  | queueUnregister (queue : BitVec 16)
  /-- INVA_WRITE (R364). -/
  | invaWrite (p : Fin 8) (w : Word)
  /-- INVALIDATION_COMPLETE (R364). -/
  | invalidationComplete (p : Fin 8)
  /-- PROBE_REWALK (R369). -/
  | probeRewalk (hart : Nat)
  /-- MCMD_START (R368). -/
  | mcmdStart (p : Fin 8)
  /-- MIGRATION_COMPLETE (R368). -/
  | migrationComplete (p : Fin 8)
  /-- CONTROLLER_READ (R391). -/
  | controllerRead (mid : BitVec 16) (sector : Nat) (layout : BitVec 4)
  /-- CONTROLLER_PARTIAL_STORE (R393). -/
  | controllerPartialStore (mid : BitVec 16) (sector : Nat) (layout : BitVec 4) (data : BitVec 512) (enable : BitVec 64)
  /-- CONTROLLER_FULL_STORE (R395). -/
  | controllerFullStore (mid : BitVec 16) (sector : Nat) (layout : BitVec 4) (data : BitVec 512)
  /-- LINK_RESPONSE_LOST (R404). -/
  | linkResponseLost (tag : BitVec 32)
  /-- RESPONSE_TIMEOUT (R404). -/
  | responseTimeout (tag : BitVec 32)
  /-- SCRATCHPAD_REBUILD (R399). -/
  | scratchpadRebuild (core : Nat) (word : Nat)
  /-- SCRATCHPAD_REBUILD_COMPLETE (R399). -/
  | scratchpadRebuildComplete (core : Nat) (word : Nat)
  /-- LANE_SUSPECT (R401). -/
  | laneSuspect (core : Nat) (lane : Fin 16)
  /-- ERRPOP (R410). -/
  | errpop (p : Fin 8) (w : Word)
  /-- PDAT_REMOVE (R410). -/
  | pdatRemove (p : Fin 8)
  /-- EFRZCMD_UNFREEZE (R411). -/
  | efrzcmdUnfreeze (p : Fin 8) (w : Word)
  /-- ROW_COUNTER_REFRESH (R405). -/
  | rowCounterRefresh (stack : Fin 8) (bank row : Nat)
  /-- PERIODIC_REFRESH (R406). -/
  | periodicRefresh (stack : Fin 8) (bank row : Nat)
  /-- FALLBACK_REFRESH_TAKEOVER (R406). -/
  | fallbackRefreshTakeover (stack : Fin 8)
  /-- PATROL_SCRUB_SECTOR (R407). -/
  | patrolScrubSector (unit : Fin 24)
  /-- PATROL_PASS_END (R407). -/
  | patrolPassEnd (unit : Fin 24) (late : Bool)
  /-- POWER_SAMPLE (R436). -/
  | powerSample (module : Nat) (parts : List Nat) (temp : BitVec 16) (energy : Word)
  /-- POWER_GRANT_ADOPT_TIMEOUT (R436). -/
  | powerGrantAdoptTimeout (gang : Nat)
  /-- BAR0_DOORBELL_ACCESS (R414). -/
  | bar0DoorbellAccess (fn : Nat) (off : Nat) (write : Option Word)
  /-- BAR2_SYSTEM_ACCESS (R430). -/
  | bar2SystemAccess (fn : Nat) (off : Nat) (write : Option Word)
  /-- BAR4_MEMORY_ACCESS (R414). -/
  | bar4MemoryAccess (fn : Nat) (off : Word) (size : Size) (write : Option Word)
  /-- ATS_INVALIDATION_REQUEST (R415). -/
  | atsInvalidationRequest (p : Fin 8) (addr : Word) (sz : BitVec 3)
  /-- PRI_RESPONSE (R416). -/
  | priResponse (p : Fin 8) (ok : Bool)
  /-- PRI_TIMEOUT (R416). -/
  | priTimeout (p : Fin 8)
  /-- FNCTL_UNFREEZE (R417). -/
  | fnctlUnfreeze (fn : Nat)
  /-- FNCTL_KILL (R417). -/
  | fnctlKill (fn : Nat)
  /-- FUNCTION_LEVEL_RESET (R427). -/
  | functionLevelReset (fn : Nat)
  /-- PEER_REQUEST (R371). -/
  | peerRequest (port : Fin 16) (dev : BitVec 10) (pa : Nat) (size : Size) (req : PeerOp)
  /-- PEERST_UNFREEZE (R420). -/
  | peerstUnfreeze (dev : BitVec 10)
  /-- LREVOKE (R421). -/
  | lrevoke (w : Word)
  /-- LEASE_REVOCATION (R372). -/
  | leaseRevocation (window : Nat)
  /-- REVOCATION_ACK (R421). -/
  | revocationAck
  /-- REVOCATION_TIMEOUT (R421). -/
  | revocationTimeout
  /-- PORT_DOWN (R418). -/
  | portDown (port : Fin 16)
  /-- PEER_PATH_TIMEOUT (R418). -/
  | peerPathTimeout (hart : Nat)
  /-- MGMT_SOFT_INTERRUPT_SET (R429). -/
  | mgmtSoftInterruptSet (m : Fin 8) (mset : Bool)
  /-- MGMT_SOFT_INTERRUPT_ACK (R429). -/
  | mgmtSoftInterruptAck (m : Fin 8) (mset : Bool)
  /-- POWER_ON_RESET (R427). -/
  | powerOnReset
  /-- WARM_RESET (R427). -/
  | warmReset
  /-- BOOTCMD_WARM (R433). -/
  | bootcmdWarm (w : Word)
  /-- BOOT_SEQUENCE (R431). -/
  | bootSequence
  /-- MEASUREMENT_EXTEND (R432). -/
  | measurementExtend (mr : Fin 3) (stage : BitVec 8) (version : Word) (digest : BitVec 256)
  /-- SPDM_CHALLENGE (R435). -/
  | spdmChallenge (nonce : BitVec 256)
  /-- SPDM_GET_MEASUREMENTS (R435). -/
  | spdmGetMeasurements (index : BitVec 8) (nonce : BitVec 256)
  /-- SPDM_KEY_EXCHANGE (R435). -/
  | spdmKeyExchange (session : BitVec 32) (stream : Fin 9) (peerKey : BitVec 512)
  /-- REGISTER_WRITE (R8): a write of a word of the management address space, or with none a read of it. -/
  | registerWrite (master : Master) (addr : Nat) (w : Option Word)
  /-- PORT_UP (R418). -/
  | portUp (port : Fin 16)
  /-- PEER_RESPONSE (R372). -/
  | peerResponse (id : Nat) (reply : PeerReply)
  /-- ATS_TRANSLATION_COMPLETION (R415). -/
  | atsTranslationCompletion (p : Fin 8) (page : Nat) (answer : Option Nat)
  /-- REMOTE_RANK_JOIN (R424). -/
  | remoteRankJoin (group : Nat) (inst : Nat) (rank : Nat) (block : BitVec 256) (data : List (BitVec 8))
  /-- BASE_DIE_CORE_RESTART (R406). -/
  | baseDieCoreRestart (stack : Fin 8)
deriving DecidableEq, Repr

end Sys2Proof
end

