-- ==== Sys2Proof/WellFormed.lean ====
section
/-! DEFINITION. Well-formed instructions: the operand combinations that an entry forbids in a word whose fields are otherwise
legal, and the operand ranges of the device steps. A word that decodes to an ill-formed instruction raises the
illegal-instruction trap (R168); an ill-formed device step has no effect. -/

namespace Sys2Proof

/-- A grant the scheduler may give: 4, 8 or 16 lanes and a length cap of 1 to 8 (R24). -/
def Grant.ok (g : Grant) : Bool := (g.lanes == 4 || g.lanes == 8 || g.lanes == 16) && 1 ≤ g.q && g.q ≤ 8

/-- The operand checks: an unsigned 8-byte load (R166), a copy index without a class or beyond a15 (R204), a width code of 7
(R206), a conditional with no result mask (R260), a reserved scope (R262), KADVZ that zeroes its own counter (R267), a word
selector above 10 (R268), and the ranges of the device steps. -/
def Instr.wf : Instr → Bool
  | .lds _ _ size uns _ => !(uns && size == 3)
  | .pfx _ _ cls idx => (cls != 3 || idx.toNat < 16) && (cls != 0 || idx == 0)
  | .strip _ _ w3 w2 w1 w0 => w3 != 7 && w2 != 7 && w1 != 7 && w0 != 7
  | .vscc _ _ _ _ _ m => m != 0
  | .fence scope _ => scope.toNat < 6
  | .ldacq _ scope _ _ _ => scope.toNat < 6
  | .strel _ scope _ _ _ => scope.toNat < 6
  | .kadvz c cz _ => c != cz
  | .kqry _ _ word => word.toNat < 11
  | .matrixEntryComplete core => core < 384
  | .collGroupInvalidate group => group < 1024
  | .gangPlace _ _ grant => grant.ok
  | .gangResume _ _ grant => grant.ok
  | .controllerRead _ sector _ => sector % 64 == 0
  | .controllerPartialStore _ sector _ _ _ => sector % 64 == 0
  | .controllerFullStore _ sector _ _ => sector % 64 == 0
  | .scratchpadRebuild core word => word < 393216 && core < 384
  | .scratchpadRebuildComplete core word => word < 393216 && core < 384
  | .laneSuspect core _ => core < 384
  | .bar0DoorbellAccess fn off _ => fn < 65 && off < 268435456
  | .bar2SystemAccess fn off _ => fn == 0 && off < 16777216
  | .bar4MemoryAccess fn _ _ _ => fn < 65
  | .fnctlUnfreeze fn => fn < 65
  | .fnctlKill fn => fn < 65
  | .functionLevelReset fn => 0 < fn && fn < 65
  | .leaseRevocation window => window < 256
  | .registerWrite _ addr _ => addr % 8 == 0 && addr < 67108864
  | .remoteRankJoin group _ _ _ _ => group < 1024
  | _ => true

end Sys2Proof
end

