-- ==== Sys2Proof/Decode.lean ====
section
/-! DEFINITION. Decoding one 32-bit instruction word (R163 to R168), rejecting by name, and the encoder from the same encoding
tables. A row gives the fixed bit ranges of its word and how its operand fields are read; a word that meets the fixed ranges of
no row of its major is rejected. Must-be-zero bits are fixed ranges of value 0. The compiler builds no object for a constructor
numbered above 244, so what builds every instruction is noncomputable for the compiler; the kernel evaluates it. -/

namespace Sys2Proof

/-- Why a word is no instruction (R168). -/
inductive DecodeError where
  /-- Fewer than four bytes are left. -/
  | tooShort
  /-- The all-zero word. -/
  | allZero
  /-- Major 0x3F. -/
  | permanentlyIllegal
  /-- A reserved major. -/
  | reservedMajor
  /-- A function value the major does not assign, or a nonzero must-be-zero bit. -/
  | unassigned
deriving DecidableEq, Repr

/-- Bits [lo + n - 1 : lo] of a word. -/
def bits (w lo n : Nat) : Nat := w / 2 ^ lo % 2 ^ n

/-- Bit lo of a word. -/
def bitAt (w lo : Nat) : Bool := w / 2 ^ lo % 2 == 1

/-- A five-bit register field. -/
def reg5 (w lo : Nat) : Fin 32 := Fin.ofNat 32 (bits w lo 5)

/-- A four-bit register field. -/
def reg4 (w lo : Nat) : Fin 16 := Fin.ofNat 16 (bits w lo 4)

/-- A three-bit register or stream field. -/
def reg3 (w lo : Nat) : Fin 8 := Fin.ofNat 8 (bits w lo 3)

/-- A two-bit register field. -/
def reg2 (w lo : Nat) : Fin 4 := Fin.ofNat 4 (bits w lo 2)

/-- An immediate field of n bits. -/
def imm (w lo n : Nat) : BitVec n := BitVec.ofNat n (bits w lo n)

/-- The SM base field: bit 4 clear names a0 to a15, set names s0 to s15 (R165). -/
def baseOf (b : Nat) : Base := if b < 16 then .a (Fin.ofNat 16 b) else .s (Fin.ofNat 16 b)

/-- The SM base field of a base. -/
def Base.code : Base → Nat
  | .a r => r.val
  | .s r => 16 + r.val

/-- One row of the encoding tables: its fixed ranges (low bit, width, value) and the instruction its words stand for. -/
structure Row where
  fixed : List (Nat × Nat × Nat)
  build : Nat → Instr

/-- Whether a word has every fixed range of a row. -/
def Row.fits (r : Row) (w : Nat) : Bool := r.fixed.all fun f => bits w f.1 f.2.1 == f.2.2

/-- The rows of major 0x01. -/
def rows01 : List Row := [
  ⟨[(0, 11, 0)], fun w => .add (reg5 w 21) (reg5 w 16) (reg5 w 11)⟩,
  ⟨[(0, 11, 1)], fun w => .sub (reg5 w 21) (reg5 w 16) (reg5 w 11)⟩,
  ⟨[(0, 11, 2)], fun w => .and (reg5 w 21) (reg5 w 16) (reg5 w 11)⟩,
  ⟨[(0, 11, 3)], fun w => .or (reg5 w 21) (reg5 w 16) (reg5 w 11)⟩,
  ⟨[(0, 11, 4)], fun w => .xor (reg5 w 21) (reg5 w 16) (reg5 w 11)⟩,
  ⟨[(0, 11, 5)], fun w => .sll (reg5 w 21) (reg5 w 16) (reg5 w 11)⟩,
  ⟨[(0, 11, 6)], fun w => .srl (reg5 w 21) (reg5 w 16) (reg5 w 11)⟩,
  ⟨[(0, 11, 7)], fun w => .sra (reg5 w 21) (reg5 w 16) (reg5 w 11)⟩,
  ⟨[(0, 11, 8)], fun w => .slt (reg5 w 21) (reg5 w 16) (reg5 w 11)⟩,
  ⟨[(0, 11, 9)], fun w => .sltu (reg5 w 21) (reg5 w 16) (reg5 w 11)⟩,
  ⟨[(0, 11, 10)], fun w => .mul (reg5 w 21) (reg5 w 16) (reg5 w 11)⟩,
  ⟨[(0, 11, 11)], fun w => .mulh (reg5 w 21) (reg5 w 16) (reg5 w 11)⟩,
  ⟨[(0, 11, 12)], fun w => .mulhu (reg5 w 21) (reg5 w 16) (reg5 w 11)⟩,
  ⟨[(0, 11, 13)], fun w => .div (reg5 w 21) (reg5 w 16) (reg5 w 11)⟩,
  ⟨[(0, 11, 14)], fun w => .divu (reg5 w 21) (reg5 w 16) (reg5 w 11)⟩,
  ⟨[(0, 11, 15)], fun w => .rem (reg5 w 21) (reg5 w 16) (reg5 w 11)⟩,
  ⟨[(0, 11, 16)], fun w => .remu (reg5 w 21) (reg5 w 16) (reg5 w 11)⟩,
  ⟨[(0, 11, 17)], fun w => .min (reg5 w 21) (reg5 w 16) (reg5 w 11)⟩,
  ⟨[(0, 11, 18)], fun w => .max (reg5 w 21) (reg5 w 16) (reg5 w 11)⟩,
  ⟨[(0, 11, 19)], fun w => .minu (reg5 w 21) (reg5 w 16) (reg5 w 11)⟩,
  ⟨[(0, 11, 20)], fun w => .maxu (reg5 w 21) (reg5 w 16) (reg5 w 11)⟩,
  ⟨[(0, 16, 21)], fun w => .clz (reg5 w 21) (reg5 w 16)⟩,
  ⟨[(0, 16, 22)], fun w => .ctz (reg5 w 21) (reg5 w 16)⟩,
  ⟨[(0, 16, 23)], fun w => .popc (reg5 w 21) (reg5 w 16)⟩,
  ⟨[(0, 5, 24), (11, 5, 0)], fun w => .slli (reg5 w 21) (reg5 w 16) (imm w 5 6)⟩,
  ⟨[(0, 5, 25), (11, 5, 0)], fun w => .srli (reg5 w 21) (reg5 w 16) (imm w 5 6)⟩,
  ⟨[(0, 5, 26), (11, 5, 0)], fun w => .srai (reg5 w 21) (reg5 w 16) (imm w 5 6)⟩]

/-- The rows of major 0x02. -/
def rows02 : List Row := [
  ⟨[], fun w => .addi (reg5 w 21) (reg5 w 16) (imm w 0 16)⟩]

/-- The rows of major 0x03. -/
def rows03 : List Row := [
  ⟨[], fun w => .andi (reg5 w 21) (reg5 w 16) (imm w 0 16)⟩]

/-- The rows of major 0x04. -/
def rows04 : List Row := [
  ⟨[], fun w => .ori (reg5 w 21) (reg5 w 16) (imm w 0 16)⟩]

/-- The rows of major 0x05. -/
def rows05 : List Row := [
  ⟨[], fun w => .xori (reg5 w 21) (reg5 w 16) (imm w 0 16)⟩]

/-- The rows of major 0x06. -/
def rows06 : List Row := [
  ⟨[], fun w => .slti (reg5 w 21) (reg5 w 16) (imm w 0 16)⟩]

/-- The rows of major 0x07. -/
def rows07 : List Row := [
  ⟨[], fun w => .lih (reg5 w 21) (reg5 w 16) (imm w 0 16)⟩]

/-- The rows of major 0x08. -/
def rows08 : List Row := [
  ⟨[], fun w => .lds (reg5 w 21) (baseOf (bits w 16 5)) (reg2 w 14) (bitAt w 13) (imm w 0 13)⟩]

/-- The rows of major 0x09. -/
def rows09 : List Row := [
  ⟨[(13, 1, 0)], fun w => .sts (reg5 w 21) (baseOf (bits w 16 5)) (reg2 w 14) (imm w 0 13)⟩]

/-- The rows of major 0x0A. -/
def rows0A : List Row := [
  ⟨[(13, 3, 0)], fun w => .beq (reg5 w 21) (reg5 w 16) (imm w 0 13)⟩,
  ⟨[(13, 3, 1)], fun w => .bne (reg5 w 21) (reg5 w 16) (imm w 0 13)⟩,
  ⟨[(13, 3, 2)], fun w => .blt (reg5 w 21) (reg5 w 16) (imm w 0 13)⟩,
  ⟨[(13, 3, 3)], fun w => .bge (reg5 w 21) (reg5 w 16) (imm w 0 13)⟩,
  ⟨[(13, 3, 4)], fun w => .bltu (reg5 w 21) (reg5 w 16) (imm w 0 13)⟩,
  ⟨[(13, 3, 5)], fun w => .bgeu (reg5 w 21) (reg5 w 16) (imm w 0 13)⟩]

/-- The rows of major 0x0B. -/
def rows0B : List Row := [
  ⟨[], fun w => .jmp (imm w 0 26)⟩]

/-- The rows of major 0x0C. -/
def rows0C : List Row := [
  ⟨[], fun w => .call (imm w 0 26)⟩]

/-- The rows of major 0x0D. -/
def rows0D : List Row := [
  ⟨[(16, 5, 0)], fun w => .lpc (reg5 w 21) (imm w 0 16)⟩]

/-- The rows of major 0x0E. -/
def rows0E : List Row := [
  ⟨[(12, 9, 0)], fun w => .crget (reg5 w 21) (imm w 0 12)⟩,
  ⟨[(12, 4, 1), (21, 11, 448)], fun w => .crput (reg5 w 16) (imm w 0 12)⟩,
  ⟨[(12, 4, 2)], fun w => .crsetb (reg5 w 21) (reg5 w 16) (imm w 0 12)⟩,
  ⟨[(12, 4, 3)], fun w => .crclrb (reg5 w 21) (reg5 w 16) (imm w 0 12)⟩,
  ⟨[(12, 4, 4)], fun w => .crswap (reg5 w 21) (reg5 w 16) (imm w 0 12)⟩]

/-- The rows of major 0x0F. -/
def rows0F : List Row := [
  ⟨[(8, 24, 3932161)], fun w => .trap (imm w 0 8)⟩,
  ⟨[(0, 32, 1006633472)], fun _ => .brk⟩,
  ⟨[(0, 16, 768), (21, 11, 480)], fun w => .jr (reg5 w 16)⟩,
  ⟨[(0, 16, 769)], fun w => .callr (reg5 w 21) (reg5 w 16)⟩,
  ⟨[(0, 32, 1006633984)], fun _ => .synci⟩,
  ⟨[(0, 32, 1006634240)], fun _ => .done⟩,
  ⟨[(0, 32, 1006665728)], fun _ => .tret⟩,
  ⟨[(0, 32, 1006665729)], fun _ => .idle⟩,
  ⟨[(8, 24, 3932289)], fun w => .trapm (imm w 0 8)⟩]

/-- The rows of major 0x10. -/
def rows10 : List Row := [
  ⟨[(0, 14, 0)], fun w => .pfx (reg4 w 22) (bitAt w 21) (imm w 19 2) (imm w 14 5)⟩]

/-- The rows of major 0x11. -/
def rows11 : List Row := [
  ⟨[(21, 11, 544)], fun w => .strip (reg5 w 16) (reg4 w 12) (imm w 9 3) (imm w 6 3) (imm w 3 3) (imm w 0 3)⟩]

/-- The rows of major 0x12. -/
def rows12 : List Row := [
  ⟨[(0, 4, 0)], fun w => .claim (reg5 w 21) (reg5 w 16) (reg4 w 12) (reg5 w 7) (reg3 w 4)⟩]

/-- The rows of major 0x13. -/
def rows13 : List Row := [
  ⟨[(0, 32, 1275068416)], fun _ => .gbar⟩,
  ⟨[(0, 32, 1275068417)], fun _ => .phend⟩]

/-- The rows of major 0x14. -/
def rows14 : List Row := [
  ⟨[(14, 7, 0)], fun w => .lfork (reg5 w 21) (imm w 0 14)⟩,
  ⟨[(0, 32, 1342193664)], fun _ => .ljoin⟩,
  ⟨[(14, 18, 81922)], fun w => .vfetch (reg5 w 9) (reg5 w 4) (reg4 w 0)⟩,
  ⟨[(0, 32, 1342226432)], fun _ => .lbend⟩]

/-- The rows of major 0x15. -/
def rows15 : List Row := [
  ⟨[(0, 7, 0), (16, 5, 0)], fun w => .qpost (reg5 w 21) (reg4 w 12) (reg5 w 7)⟩]

/-- The rows of major 0x18. -/
def rows18 : List Row := [
  ⟨[(0, 5, 0)], fun w => .vadd (reg5 w 21) (reg5 w 16) (reg5 w 11) (bitAt w 10) (bitAt w 9) (reg4 w 5)⟩,
  ⟨[(0, 5, 1)], fun w => .vsub (reg5 w 21) (reg5 w 16) (reg5 w 11) (bitAt w 10) (bitAt w 9) (reg4 w 5)⟩,
  ⟨[(0, 5, 2)], fun w => .vrsub (reg5 w 21) (reg5 w 16) (reg5 w 11) (bitAt w 10) (bitAt w 9) (reg4 w 5)⟩,
  ⟨[(0, 5, 3)], fun w => .vmul (reg5 w 21) (reg5 w 16) (reg5 w 11) (bitAt w 10) (bitAt w 9) (reg4 w 5)⟩,
  ⟨[(0, 5, 4)], fun w => .vmulh (reg5 w 21) (reg5 w 16) (reg5 w 11) (bitAt w 10) (bitAt w 9) (reg4 w 5)⟩,
  ⟨[(0, 5, 5)], fun w => .vdiv (reg5 w 21) (reg5 w 16) (reg5 w 11) (bitAt w 10) (bitAt w 9) (reg4 w 5)⟩,
  ⟨[(0, 5, 6)], fun w => .vrem (reg5 w 21) (reg5 w 16) (reg5 w 11) (bitAt w 10) (bitAt w 9) (reg4 w 5)⟩,
  ⟨[(0, 5, 7)], fun w => .vmin (reg5 w 21) (reg5 w 16) (reg5 w 11) (bitAt w 10) (bitAt w 9) (reg4 w 5)⟩,
  ⟨[(0, 5, 8)], fun w => .vmax (reg5 w 21) (reg5 w 16) (reg5 w 11) (bitAt w 10) (bitAt w 9) (reg4 w 5)⟩,
  ⟨[(0, 5, 9)], fun w => .vand (reg5 w 21) (reg5 w 16) (reg5 w 11) (bitAt w 10) (bitAt w 9) (reg4 w 5)⟩,
  ⟨[(0, 5, 10)], fun w => .vor (reg5 w 21) (reg5 w 16) (reg5 w 11) (bitAt w 10) (bitAt w 9) (reg4 w 5)⟩,
  ⟨[(0, 5, 11)], fun w => .vxor (reg5 w 21) (reg5 w 16) (reg5 w 11) (bitAt w 10) (bitAt w 9) (reg4 w 5)⟩,
  ⟨[(0, 5, 12)], fun w => .vsll (reg5 w 21) (reg5 w 16) (reg5 w 11) (bitAt w 10) (bitAt w 9) (reg4 w 5)⟩,
  ⟨[(0, 5, 13)], fun w => .vsrl (reg5 w 21) (reg5 w 16) (reg5 w 11) (bitAt w 10) (bitAt w 9) (reg4 w 5)⟩,
  ⟨[(0, 5, 14)], fun w => .vsra (reg5 w 21) (reg5 w 16) (reg5 w 11) (bitAt w 10) (bitAt w 9) (reg4 w 5)⟩,
  ⟨[(0, 5, 15)], fun w => .vadds (reg5 w 21) (reg5 w 16) (reg5 w 11) (bitAt w 10) (bitAt w 9) (reg4 w 5)⟩,
  ⟨[(0, 5, 16)], fun w => .vsubs (reg5 w 21) (reg5 w 16) (reg5 w 11) (bitAt w 10) (bitAt w 9) (reg4 w 5)⟩,
  ⟨[(0, 5, 17)], fun w => .vmuls (reg5 w 21) (reg5 w 16) (reg5 w 11) (bitAt w 10) (bitAt w 9) (reg4 w 5)⟩,
  ⟨[(0, 5, 18)], fun w => .vavg (reg5 w 21) (reg5 w 16) (reg5 w 11) (bitAt w 10) (bitAt w 9) (reg4 w 5)⟩,
  ⟨[(0, 5, 19)], fun w => .vabsd (reg5 w 21) (reg5 w 16) (reg5 w 11) (bitAt w 10) (bitAt w 9) (reg4 w 5)⟩,
  ⟨[(0, 5, 20), (9, 1, 0), (11, 5, 0)], fun w => .vabs (reg5 w 21) (reg5 w 16) (bitAt w 10) (reg4 w 5)⟩,
  ⟨[(0, 5, 21), (9, 1, 0), (11, 5, 0)], fun w => .vpopc (reg5 w 21) (reg5 w 16) (bitAt w 10) (reg4 w 5)⟩,
  ⟨[(0, 5, 22), (9, 1, 0), (11, 5, 0)], fun w => .vclz (reg5 w 21) (reg5 w 16) (bitAt w 10) (reg4 w 5)⟩]

/-- The rows of major 0x19. -/
def rows19 : List Row := [
  ⟨[(0, 5, 0)], fun w => .vfadd (reg5 w 21) (reg5 w 16) (reg5 w 11) (bitAt w 10) (bitAt w 9) (reg4 w 5)⟩,
  ⟨[(0, 5, 1)], fun w => .vfsub (reg5 w 21) (reg5 w 16) (reg5 w 11) (bitAt w 10) (bitAt w 9) (reg4 w 5)⟩,
  ⟨[(0, 5, 2)], fun w => .vfrsub (reg5 w 21) (reg5 w 16) (reg5 w 11) (bitAt w 10) (bitAt w 9) (reg4 w 5)⟩,
  ⟨[(0, 5, 3)], fun w => .vfmul (reg5 w 21) (reg5 w 16) (reg5 w 11) (bitAt w 10) (bitAt w 9) (reg4 w 5)⟩,
  ⟨[(0, 5, 4)], fun w => .vfdiv (reg5 w 21) (reg5 w 16) (reg5 w 11) (bitAt w 10) (bitAt w 9) (reg4 w 5)⟩,
  ⟨[(0, 5, 5)], fun w => .vfmin (reg5 w 21) (reg5 w 16) (reg5 w 11) (bitAt w 10) (bitAt w 9) (reg4 w 5)⟩,
  ⟨[(0, 5, 6)], fun w => .vfmax (reg5 w 21) (reg5 w 16) (reg5 w 11) (bitAt w 10) (bitAt w 9) (reg4 w 5)⟩,
  ⟨[(0, 5, 7), (9, 1, 0), (11, 5, 0)], fun w => .vfsqrt (reg5 w 21) (reg5 w 16) (bitAt w 10) (reg4 w 5)⟩,
  ⟨[(0, 5, 8), (9, 1, 0), (11, 5, 0)], fun w => .vfabs (reg5 w 21) (reg5 w 16) (bitAt w 10) (reg4 w 5)⟩,
  ⟨[(0, 5, 9), (9, 1, 0), (11, 5, 0)], fun w => .vfneg (reg5 w 21) (reg5 w 16) (bitAt w 10) (reg4 w 5)⟩,
  ⟨[(0, 5, 10)], fun w => .vfsgnj (reg5 w 21) (reg5 w 16) (reg5 w 11) (bitAt w 10) (bitAt w 9) (reg4 w 5)⟩]

/-- The rows of major 0x1A. -/
def rows1A : List Row := [
  ⟨[(0, 5, 0), (9, 2, 0)], fun w => .vaddVx (reg5 w 21) (reg5 w 16) (reg5 w 11) (reg4 w 5)⟩,
  ⟨[(0, 5, 1), (9, 2, 0)], fun w => .vsubVx (reg5 w 21) (reg5 w 16) (reg5 w 11) (reg4 w 5)⟩,
  ⟨[(0, 5, 2), (9, 2, 0)], fun w => .vrsubVx (reg5 w 21) (reg5 w 16) (reg5 w 11) (reg4 w 5)⟩,
  ⟨[(0, 5, 3), (9, 2, 0)], fun w => .vmulVx (reg5 w 21) (reg5 w 16) (reg5 w 11) (reg4 w 5)⟩,
  ⟨[(0, 5, 4), (9, 2, 0)], fun w => .vmulhVx (reg5 w 21) (reg5 w 16) (reg5 w 11) (reg4 w 5)⟩,
  ⟨[(0, 5, 5), (9, 2, 0)], fun w => .vdivVx (reg5 w 21) (reg5 w 16) (reg5 w 11) (reg4 w 5)⟩,
  ⟨[(0, 5, 6), (9, 2, 0)], fun w => .vremVx (reg5 w 21) (reg5 w 16) (reg5 w 11) (reg4 w 5)⟩,
  ⟨[(0, 5, 7), (9, 2, 0)], fun w => .vminVx (reg5 w 21) (reg5 w 16) (reg5 w 11) (reg4 w 5)⟩,
  ⟨[(0, 5, 8), (9, 2, 0)], fun w => .vmaxVx (reg5 w 21) (reg5 w 16) (reg5 w 11) (reg4 w 5)⟩,
  ⟨[(0, 5, 9), (9, 2, 0)], fun w => .vandVx (reg5 w 21) (reg5 w 16) (reg5 w 11) (reg4 w 5)⟩,
  ⟨[(0, 5, 10), (9, 2, 0)], fun w => .vorVx (reg5 w 21) (reg5 w 16) (reg5 w 11) (reg4 w 5)⟩,
  ⟨[(0, 5, 11), (9, 2, 0)], fun w => .vxorVx (reg5 w 21) (reg5 w 16) (reg5 w 11) (reg4 w 5)⟩,
  ⟨[(0, 5, 12), (9, 2, 0)], fun w => .vsllVx (reg5 w 21) (reg5 w 16) (reg5 w 11) (reg4 w 5)⟩,
  ⟨[(0, 5, 13), (9, 2, 0)], fun w => .vsrlVx (reg5 w 21) (reg5 w 16) (reg5 w 11) (reg4 w 5)⟩,
  ⟨[(0, 5, 14), (9, 2, 0)], fun w => .vsraVx (reg5 w 21) (reg5 w 16) (reg5 w 11) (reg4 w 5)⟩,
  ⟨[(0, 5, 15), (9, 2, 0)], fun w => .vaddsVx (reg5 w 21) (reg5 w 16) (reg5 w 11) (reg4 w 5)⟩,
  ⟨[(0, 5, 16), (9, 2, 0)], fun w => .vsubsVx (reg5 w 21) (reg5 w 16) (reg5 w 11) (reg4 w 5)⟩,
  ⟨[(0, 5, 17), (9, 2, 0)], fun w => .vmulsVx (reg5 w 21) (reg5 w 16) (reg5 w 11) (reg4 w 5)⟩,
  ⟨[(0, 5, 18), (9, 2, 0)], fun w => .vavgVx (reg5 w 21) (reg5 w 16) (reg5 w 11) (reg4 w 5)⟩,
  ⟨[(0, 5, 19), (9, 2, 0)], fun w => .vabsdVx (reg5 w 21) (reg5 w 16) (reg5 w 11) (reg4 w 5)⟩]

/-- The rows of major 0x1B. -/
def rows1B : List Row := [
  ⟨[(0, 5, 0), (9, 2, 0)], fun w => .vfaddVx (reg5 w 21) (reg5 w 16) (reg5 w 11) (reg4 w 5)⟩,
  ⟨[(0, 5, 1), (9, 2, 0)], fun w => .vfsubVx (reg5 w 21) (reg5 w 16) (reg5 w 11) (reg4 w 5)⟩,
  ⟨[(0, 5, 2), (9, 2, 0)], fun w => .vfrsubVx (reg5 w 21) (reg5 w 16) (reg5 w 11) (reg4 w 5)⟩,
  ⟨[(0, 5, 3), (9, 2, 0)], fun w => .vfmulVx (reg5 w 21) (reg5 w 16) (reg5 w 11) (reg4 w 5)⟩,
  ⟨[(0, 5, 4), (9, 2, 0)], fun w => .vfdivVx (reg5 w 21) (reg5 w 16) (reg5 w 11) (reg4 w 5)⟩,
  ⟨[(0, 5, 5), (9, 2, 0)], fun w => .vfminVx (reg5 w 21) (reg5 w 16) (reg5 w 11) (reg4 w 5)⟩,
  ⟨[(0, 5, 6), (9, 2, 0)], fun w => .vfmaxVx (reg5 w 21) (reg5 w 16) (reg5 w 11) (reg4 w 5)⟩,
  ⟨[(0, 5, 10), (9, 2, 0)], fun w => .vfsgnjVx (reg5 w 21) (reg5 w 16) (reg5 w 11) (reg4 w 5)⟩]

/-- The rows of major 0x1C. -/
def rows1C : List Row := [
  ⟨[(0, 5, 0)], fun w => .vfma (reg5 w 21) (reg5 w 16) (reg5 w 11) (bitAt w 10) (bitAt w 9) (reg4 w 5)⟩,
  ⟨[(0, 5, 1)], fun w => .vfms (reg5 w 21) (reg5 w 16) (reg5 w 11) (bitAt w 10) (bitAt w 9) (reg4 w 5)⟩,
  ⟨[(0, 5, 2)], fun w => .vfnma (reg5 w 21) (reg5 w 16) (reg5 w 11) (bitAt w 10) (bitAt w 9) (reg4 w 5)⟩,
  ⟨[(0, 5, 3)], fun w => .vfnms (reg5 w 21) (reg5 w 16) (reg5 w 11) (bitAt w 10) (bitAt w 9) (reg4 w 5)⟩,
  ⟨[(0, 5, 4)], fun w => .vmadd (reg5 w 21) (reg5 w 16) (reg5 w 11) (bitAt w 10) (bitAt w 9) (reg4 w 5)⟩,
  ⟨[(0, 5, 5)], fun w => .vmadds (reg5 w 21) (reg5 w 16) (reg5 w 11) (bitAt w 10) (bitAt w 9) (reg4 w 5)⟩,
  ⟨[(0, 5, 6)], fun w => .vnmsub (reg5 w 21) (reg5 w 16) (reg5 w 11) (bitAt w 10) (bitAt w 9) (reg4 w 5)⟩]

/-- The rows of major 0x1D. DESIGN CHOICE (assumption 71): a set ca of VNZ is illegal; R228 makes only vb and cb must-be-zero, and R221 lets the
VV compares of the major chain. -/
def rows1D : List Row := [
  ⟨[(0, 5, 0), (25, 7, 58)], fun w => .vcmpEq (reg4 w 21) (reg5 w 16) (reg5 w 11) (bitAt w 10) (bitAt w 9) (reg4 w 5)⟩,
  ⟨[(0, 5, 1), (25, 7, 58)], fun w => .vcmpNe (reg4 w 21) (reg5 w 16) (reg5 w 11) (bitAt w 10) (bitAt w 9) (reg4 w 5)⟩,
  ⟨[(0, 5, 2), (25, 7, 58)], fun w => .vcmpLt (reg4 w 21) (reg5 w 16) (reg5 w 11) (bitAt w 10) (bitAt w 9) (reg4 w 5)⟩,
  ⟨[(0, 5, 3), (25, 7, 58)], fun w => .vcmpLe (reg4 w 21) (reg5 w 16) (reg5 w 11) (bitAt w 10) (bitAt w 9) (reg4 w 5)⟩,
  ⟨[(0, 5, 4), (25, 7, 58)], fun w => .vcmpGt (reg4 w 21) (reg5 w 16) (reg5 w 11) (bitAt w 10) (bitAt w 9) (reg4 w 5)⟩,
  ⟨[(0, 5, 5), (25, 7, 58)], fun w => .vcmpGe (reg4 w 21) (reg5 w 16) (reg5 w 11) (bitAt w 10) (bitAt w 9) (reg4 w 5)⟩,
  ⟨[(0, 5, 6), (25, 7, 58)], fun w => .vcmpUn (reg4 w 21) (reg5 w 16) (reg5 w 11) (bitAt w 10) (bitAt w 9) (reg4 w 5)⟩,
  ⟨[(0, 5, 8), (9, 2, 0), (25, 7, 58)], fun w => .vcmpEqVx (reg4 w 21) (reg5 w 16) (reg5 w 11) (reg4 w 5)⟩,
  ⟨[(0, 5, 9), (9, 2, 0), (25, 7, 58)], fun w => .vcmpNeVx (reg4 w 21) (reg5 w 16) (reg5 w 11) (reg4 w 5)⟩,
  ⟨[(0, 5, 10), (9, 2, 0), (25, 7, 58)], fun w => .vcmpLtVx (reg4 w 21) (reg5 w 16) (reg5 w 11) (reg4 w 5)⟩,
  ⟨[(0, 5, 11), (9, 2, 0), (25, 7, 58)], fun w => .vcmpLeVx (reg4 w 21) (reg5 w 16) (reg5 w 11) (reg4 w 5)⟩,
  ⟨[(0, 5, 12), (9, 2, 0), (25, 7, 58)], fun w => .vcmpGtVx (reg4 w 21) (reg5 w 16) (reg5 w 11) (reg4 w 5)⟩,
  ⟨[(0, 5, 13), (9, 2, 0), (25, 7, 58)], fun w => .vcmpGeVx (reg4 w 21) (reg5 w 16) (reg5 w 11) (reg4 w 5)⟩,
  ⟨[(0, 5, 14), (9, 2, 0), (25, 7, 58)], fun w => .vcmpUnVx (reg4 w 21) (reg5 w 16) (reg5 w 11) (reg4 w 5)⟩,
  ⟨[(0, 5, 16), (9, 7, 0), (25, 7, 58)], fun w => .vnz (reg4 w 21) (reg5 w 16) (reg4 w 5)⟩]

/-- The rows of major 0x1E. -/
def rows1E : List Row := [
  ⟨[(0, 11, 0), (15, 1, 0), (20, 1, 0), (25, 7, 60)], fun w => .mand (reg4 w 21) (reg4 w 16) (reg4 w 11)⟩,
  ⟨[(0, 11, 1), (15, 1, 0), (20, 1, 0), (25, 7, 60)], fun w => .mor (reg4 w 21) (reg4 w 16) (reg4 w 11)⟩,
  ⟨[(0, 11, 2), (15, 1, 0), (20, 1, 0), (25, 7, 60)], fun w => .mxor (reg4 w 21) (reg4 w 16) (reg4 w 11)⟩,
  ⟨[(0, 11, 3), (15, 1, 0), (20, 1, 0), (25, 7, 60)], fun w => .mandn (reg4 w 21) (reg4 w 16) (reg4 w 11)⟩,
  ⟨[(0, 16, 4), (20, 1, 0), (25, 7, 60)], fun w => .mnot (reg4 w 21) (reg4 w 16)⟩,
  ⟨[(0, 16, 5), (20, 1, 0)], fun w => .mpopc (reg5 w 21) (reg4 w 16)⟩,
  ⟨[(0, 16, 6), (20, 1, 0)], fun w => .mfirst (reg5 w 21) (reg4 w 16)⟩,
  ⟨[(0, 16, 7), (20, 12, 1920)], fun w => .vexit (reg4 w 16)⟩,
  ⟨[(0, 16, 8), (20, 12, 1920)], fun w => .vexitIncl (reg4 w 16)⟩,
  ⟨[(0, 5, 16), (9, 2, 0)], fun w => .vredsum (reg5 w 21) (reg5 w 16) (reg5 w 11) (reg4 w 5)⟩,
  ⟨[(0, 5, 17), (9, 2, 0)], fun w => .vredsums (reg5 w 21) (reg5 w 16) (reg5 w 11) (reg4 w 5)⟩,
  ⟨[(0, 5, 18), (9, 2, 0)], fun w => .vredmin (reg5 w 21) (reg5 w 16) (reg5 w 11) (reg4 w 5)⟩,
  ⟨[(0, 5, 19), (9, 2, 0)], fun w => .vredmax (reg5 w 21) (reg5 w 16) (reg5 w 11) (reg4 w 5)⟩,
  ⟨[(0, 5, 20), (9, 2, 0)], fun w => .vredand (reg5 w 21) (reg5 w 16) (reg5 w 11) (reg4 w 5)⟩,
  ⟨[(0, 5, 21), (9, 2, 0)], fun w => .vredor (reg5 w 21) (reg5 w 16) (reg5 w 11) (reg4 w 5)⟩,
  ⟨[(0, 5, 22), (9, 2, 0)], fun w => .vredxor (reg5 w 21) (reg5 w 16) (reg5 w 11) (reg4 w 5)⟩,
  ⟨[(0, 5, 24), (9, 2, 0)], fun w => .vgmax (reg5 w 21) (reg5 w 16) (reg5 w 11) (reg4 w 5)⟩,
  ⟨[(0, 5, 25), (9, 2, 0)], fun w => .vgmin (reg5 w 21) (reg5 w 16) (reg5 w 11) (reg4 w 5)⟩,
  ⟨[(0, 5, 26), (9, 2, 0)], fun w => .vgor (reg5 w 21) (reg5 w 16) (reg5 w 11) (reg4 w 5)⟩]

/-- The rows of major 0x1F. -/
def rows1F : List Row := [
  ⟨[(0, 5, 0), (9, 1, 0), (11, 5, 0)], fun w => .vmov (reg5 w 21) (reg5 w 16) (bitAt w 10) (reg4 w 5)⟩,
  ⟨[(0, 5, 1)], fun w => .vmerge (reg5 w 21) (reg5 w 16) (reg5 w 11) (bitAt w 10) (bitAt w 9) (reg4 w 5)⟩,
  ⟨[(0, 5, 2), (9, 2, 0), (16, 5, 0)], fun w => .vbcast (reg5 w 21) (reg5 w 11) (reg4 w 5)⟩,
  ⟨[(0, 5, 3), (9, 12, 0)], fun w => .vidx (reg5 w 21) (reg4 w 5)⟩,
  ⟨[(0, 11, 4)], fun w => .vextr (reg5 w 21) (reg5 w 16) (reg5 w 11)⟩,
  ⟨[(0, 5, 5), (9, 2, 0)], fun w => .vperm (reg5 w 21) (reg5 w 16) (reg5 w 11) (reg4 w 5)⟩,
  ⟨[(0, 5, 6), (9, 2, 0)], fun w => .vslup (reg5 w 21) (reg5 w 16) (reg5 w 11) (reg4 w 5)⟩,
  ⟨[(0, 5, 7), (9, 2, 0)], fun w => .vsldn (reg5 w 21) (reg5 w 16) (reg5 w 11) (reg4 w 5)⟩,
  ⟨[(0, 5, 8), (9, 2, 0)], fun w => .vsl1up (reg5 w 21) (reg5 w 16) (reg5 w 11) (reg4 w 5)⟩,
  ⟨[(0, 5, 9), (9, 2, 0)], fun w => .vsl1dn (reg5 w 21) (reg5 w 16) (reg5 w 11) (reg4 w 5)⟩,
  ⟨[(0, 5, 10), (9, 7, 0)], fun w => .vcompress (reg5 w 21) (reg5 w 16) (reg4 w 5)⟩,
  ⟨[(0, 5, 11), (9, 7, 0)], fun w => .vexpand (reg5 w 21) (reg5 w 16) (reg4 w 5)⟩,
  ⟨[(0, 5, 12), (9, 7, 0), (25, 7, 62)], fun w => .vconfm (reg4 w 21) (reg5 w 16) (reg4 w 5)⟩,
  ⟨[(0, 5, 13), (9, 7, 0)], fun w => .vconfc (reg5 w 21) (reg5 w 16) (reg4 w 5)⟩,
  ⟨[(0, 5, 14), (9, 2, 0)], fun w => .vfsr (reg5 w 21) (reg5 w 16) (reg5 w 11) (reg4 w 5)⟩,
  ⟨[(0, 5, 15), (9, 2, 0)], fun w => .vfsl (reg5 w 21) (reg5 w 16) (reg5 w 11) (reg4 w 5)⟩,
  ⟨[(0, 5, 16), (9, 2, 0)], fun w => .vfsrv (reg5 w 21) (reg5 w 16) (reg5 w 11) (reg4 w 5)⟩,
  ⟨[(0, 5, 17), (9, 2, 0)], fun w => .vfslv (reg5 w 21) (reg5 w 16) (reg5 w 11) (reg4 w 5)⟩]

/-- The rows of major 0x20. -/
def rows20 : List Row := [
  ⟨[(0, 11, 0), (16, 5, 0)], fun w => .vcfg (reg5 w 21) (reg5 w 11)⟩,
  ⟨[(0, 5, 1), (9, 1, 0), (11, 5, 0)], fun w => .vcvt (reg5 w 21) (reg5 w 16) (bitAt w 10) (reg4 w 5)⟩,
  ⟨[(0, 5, 2), (9, 1, 0), (11, 5, 0)], fun w => .vcvtRne (reg5 w 21) (reg5 w 16) (bitAt w 10) (reg4 w 5)⟩,
  ⟨[(0, 5, 3), (9, 1, 0), (11, 5, 0)], fun w => .vcvtRtz (reg5 w 21) (reg5 w 16) (bitAt w 10) (reg4 w 5)⟩,
  ⟨[(0, 5, 4), (9, 1, 0), (11, 5, 0)], fun w => .vcvtRdn (reg5 w 21) (reg5 w 16) (bitAt w 10) (reg4 w 5)⟩,
  ⟨[(0, 5, 5), (9, 1, 0), (11, 5, 0)], fun w => .vcvtRup (reg5 w 21) (reg5 w 16) (bitAt w 10) (reg4 w 5)⟩,
  ⟨[(0, 5, 6), (9, 1, 0), (11, 5, 0)], fun w => .vcvtRna (reg5 w 21) (reg5 w 16) (bitAt w 10) (reg4 w 5)⟩,
  ⟨[(0, 5, 7), (9, 1, 0), (11, 5, 0)], fun w => .vcvtSr (reg5 w 21) (reg5 w 16) (bitAt w 10) (reg4 w 5)⟩,
  ⟨[(0, 5, 8), (9, 7, 0)], fun w => .vqnt (reg5 w 21) (reg5 w 16) (reg4 w 5)⟩]

/-- The rows of major 0x22. -/
def rows22 : List Row := [
  ⟨[(0, 3, 0), (10, 1, 0), (20, 1, 0)], fun w => .vldImm (reg5 w 21) (reg4 w 16) (imm w 11 5) (reg3 w 7) (reg4 w 3)⟩,
  ⟨[(0, 3, 1), (10, 1, 0), (20, 1, 0)], fun w => .vldReg (reg5 w 21) (reg4 w 16) (reg5 w 11) (reg3 w 7) (reg4 w 3)⟩,
  ⟨[(0, 3, 1), (10, 1, 0), (20, 1, 1)], fun w => .vldk (reg5 w 21) (reg4 w 16) (reg5 w 11) (reg3 w 7) (reg4 w 3)⟩,
  ⟨[(0, 3, 2), (10, 1, 0), (20, 1, 0)], fun w => .vldStr (reg5 w 21) (reg4 w 16) (reg5 w 11) (reg3 w 7) (reg4 w 3)⟩]

/-- The rows of major 0x23. -/
def rows23 : List Row := [
  ⟨[(0, 3, 0), (20, 1, 0)], fun w => .vstImm (reg5 w 21) (reg4 w 16) (imm w 11 5) (bitAt w 10) (reg3 w 7) (reg4 w 3)⟩,
  ⟨[(0, 3, 1), (20, 1, 0)], fun w => .vstReg (reg5 w 21) (reg4 w 16) (reg5 w 11) (bitAt w 10) (reg3 w 7) (reg4 w 3)⟩,
  ⟨[(0, 3, 1), (20, 1, 1)], fun w => .vstk (reg5 w 21) (reg4 w 16) (reg5 w 11) (bitAt w 10) (reg3 w 7) (reg4 w 3)⟩,
  ⟨[(0, 3, 2), (20, 1, 0)], fun w => .vstStr (reg5 w 21) (reg4 w 16) (reg5 w 11) (bitAt w 10) (reg3 w 7) (reg4 w 3)⟩,
  ⟨[(0, 3, 3), (20, 1, 0)], fun w => .vstu (reg5 w 21) (reg4 w 16) (reg5 w 11) (bitAt w 10) (reg3 w 7) (reg4 w 3)⟩]

/-- The rows of major 0x24. -/
def rows24 : List Row := [
  ⟨[(0, 3, 0), (10, 1, 0), (20, 1, 0)], fun w => .vldfImm (reg5 w 21) (reg4 w 16) (imm w 11 5) (reg3 w 7) (reg4 w 3)⟩,
  ⟨[(0, 3, 1), (10, 1, 0), (20, 1, 0)], fun w => .vldfReg (reg5 w 21) (reg4 w 16) (reg5 w 11) (reg3 w 7) (reg4 w 3)⟩,
  ⟨[(0, 3, 1), (10, 1, 0), (20, 1, 1)], fun w => .vldkf (reg5 w 21) (reg4 w 16) (reg5 w 11) (reg3 w 7) (reg4 w 3)⟩,
  ⟨[(0, 3, 2), (10, 1, 0), (20, 1, 0)], fun w => .vldfStr (reg5 w 21) (reg4 w 16) (reg5 w 11) (reg3 w 7) (reg4 w 3)⟩]

/-- The rows of major 0x25. -/
def rows25 : List Row := [
  ⟨[(0, 3, 0), (20, 1, 0)], fun w => .vgath (reg5 w 21) (reg4 w 16) (reg5 w 11) (bitAt w 10) (reg3 w 7) (reg4 w 3)⟩,
  ⟨[(0, 3, 0), (20, 1, 1)], fun w => .vgathk (reg5 w 21) (reg4 w 16) (reg5 w 11) (bitAt w 10) (reg3 w 7) (reg4 w 3)⟩,
  ⟨[(0, 3, 1), (20, 1, 0)], fun w => .vgathB (reg5 w 21) (reg4 w 16) (reg5 w 11) (bitAt w 10) (reg3 w 7) (reg4 w 3)⟩]

/-- The rows of major 0x26. -/
def rows26 : List Row := [
  ⟨[(0, 3, 0), (20, 1, 0)], fun w => .vscatO (reg5 w 21) (reg4 w 16) (reg5 w 11) (bitAt w 10) (reg3 w 7) (reg4 w 3)⟩,
  ⟨[(0, 3, 0), (20, 1, 1)], fun w => .vscatkO (reg5 w 21) (reg4 w 16) (reg5 w 11) (bitAt w 10) (reg3 w 7) (reg4 w 3)⟩,
  ⟨[(0, 3, 1), (20, 1, 0)], fun w => .vscat (reg5 w 21) (reg4 w 16) (reg5 w 11) (bitAt w 10) (reg3 w 7) (reg4 w 3)⟩,
  ⟨[(0, 3, 1), (20, 1, 1)], fun w => .vscatk (reg5 w 21) (reg4 w 16) (reg5 w 11) (bitAt w 10) (reg3 w 7) (reg4 w 3)⟩,
  ⟨[(0, 3, 2), (20, 1, 0)], fun w => .vscatOB (reg5 w 21) (reg4 w 16) (reg5 w 11) (bitAt w 10) (reg3 w 7) (reg4 w 3)⟩,
  ⟨[(0, 3, 3), (20, 1, 0)], fun w => .vscatB (reg5 w 21) (reg4 w 16) (reg5 w 11) (bitAt w 10) (reg3 w 7) (reg4 w 3)⟩]

/-- The rows of major 0x27. -/
def rows27 : List Row := [
  ⟨[(0, 3, 0), (20, 1, 0)], fun w => .vgll (reg5 w 21) (reg4 w 16) (reg5 w 11) (bitAt w 10) (reg3 w 7) (reg4 w 3)⟩,
  ⟨[(0, 3, 1), (20, 1, 0)], fun w => .vscc (reg5 w 21) (reg4 w 16) (reg5 w 11) (bitAt w 10) (reg3 w 7) (reg4 w 3)⟩,
  ⟨[(0, 3, 2), (20, 1, 0)], fun w => .vaadd (reg5 w 21) (reg4 w 16) (reg5 w 11) (bitAt w 10) (reg3 w 7) (reg4 w 3)⟩,
  ⟨[(0, 3, 3), (20, 1, 0)], fun w => .vamin (reg5 w 21) (reg4 w 16) (reg5 w 11) (bitAt w 10) (reg3 w 7) (reg4 w 3)⟩,
  ⟨[(0, 3, 4), (20, 1, 0)], fun w => .vamax (reg5 w 21) (reg4 w 16) (reg5 w 11) (bitAt w 10) (reg3 w 7) (reg4 w 3)⟩,
  ⟨[(0, 3, 5), (20, 1, 0)], fun w => .vaand (reg5 w 21) (reg4 w 16) (reg5 w 11) (bitAt w 10) (reg3 w 7) (reg4 w 3)⟩,
  ⟨[(0, 3, 6), (20, 1, 0)], fun w => .vaor (reg5 w 21) (reg4 w 16) (reg5 w 11) (bitAt w 10) (reg3 w 7) (reg4 w 3)⟩,
  ⟨[(0, 3, 7), (20, 1, 0)], fun w => .vaxchg (reg5 w 21) (reg4 w 16) (reg5 w 11) (bitAt w 10) (reg3 w 7) (reg4 w 3)⟩]

/-- The rows of major 0x28. -/
def rows28 : List Row := [
  ⟨[(8, 2, 0), (13, 19, 327680)], fun w => .fence (imm w 10 3) (imm w 0 8)⟩,
  ⟨[(8, 24, 10485792)], fun w => .sbar (imm w 0 8)⟩,
  ⟨[(0, 1, 0), (13, 8, 2)], fun w => .ldacq (reg5 w 21) (imm w 10 3) (reg2 w 8) (reg4 w 4) (reg3 w 1)⟩,
  ⟨[(0, 1, 0), (13, 3, 3), (21, 11, 1280)], fun w => .strel (reg5 w 16) (imm w 10 3) (reg2 w 8) (reg4 w 4) (reg3 w 1)⟩]

/-- The rows of major 0x29. -/
def rows29 : List Row := [
  ⟨[(0, 14, 0), (19, 3, 0)], fun w => .kset (reg4 w 22) (reg5 w 14)⟩,
  ⟨[(2, 12, 1024), (19, 3, 0)], fun w => .kdim (reg4 w 22) (reg5 w 14) (imm w 0 2)⟩]

/-- The rows of major 0x2A. -/
def rows2A : List Row := [
  ⟨[(11, 8, 0), (22, 10, 672)], fun w => .kadv (reg3 w 19) (imm w 0 11)⟩,
  ⟨[(11, 8, 1), (22, 10, 672)], fun w => .kadvz (reg3 w 19) (reg3 w 8) (imm w 0 8)⟩,
  ⟨[(0, 14, 4096), (22, 10, 672)], fun w => .ksetc (reg3 w 19) (reg5 w 14)⟩,
  ⟨[(0, 22, 6144)], fun w => .krel (reg4 w 22)⟩,
  ⟨[(0, 22, 8192)], fun w => .kwait (reg4 w 22)⟩,
  ⟨[(4, 10, 640), (19, 3, 0)], fun w => .kqry (reg4 w 22) (reg5 w 14) (imm w 0 4)⟩]

/-- The rows of major 0x2B. -/
def rows2B : List Row := [
  ⟨[(0, 3, 0), (10, 1, 0), (20, 1, 0)], fun w => .nmc (reg5 w 21) (reg4 w 16) (reg5 w 11) (reg3 w 7) (reg4 w 3)⟩]

/-- The rows of major 0x2C. -/
def rows2C : List Row := [
  ⟨[(0, 3, 0), (10, 1, 0), (20, 1, 0)], fun w => .xlde (reg5 w 21) (reg4 w 16) (reg5 w 11) (reg3 w 7) (reg4 w 3)⟩,
  ⟨[(0, 3, 1), (20, 1, 0)], fun w => .xstc (reg5 w 21) (reg4 w 16) (reg5 w 11) (bitAt w 10) (reg3 w 7) (reg4 w 3)⟩,
  ⟨[(0, 3, 2), (20, 1, 0)], fun w => .xefst (reg5 w 21) (reg4 w 16) (reg5 w 11) (bitAt w 10) (reg3 w 7) (reg4 w 3)⟩]

/-- The rows of major 0x2D. -/
noncomputable def rows2D : List Row := [
  ⟨[(0, 7, 0), (10, 1, 0), (20, 1, 0)], fun w => .coll (reg5 w 21) (reg4 w 16) (reg5 w 11) (reg3 w 7)⟩]

/-- The rows of major 0x30. -/
noncomputable def rows30 : List Row := [
  ⟨[(0, 8, 0)], fun w => .mop (reg2 w 24) (reg5 w 19) (reg5 w 14) (bitAt w 13) (bitAt w 12) (reg4 w 8)⟩,
  ⟨[(0, 8, 1)], fun w => .mopn (reg2 w 24) (reg5 w 19) (reg5 w 14) (bitAt w 13) (bitAt w 12) (reg4 w 8)⟩,
  ⟨[(4, 4, 1)], fun w => .mopk (reg2 w 24) (reg5 w 19) (reg5 w 14) (bitAt w 13) (bitAt w 12) (reg4 w 8) (reg4 w 0)⟩]

/-- The rows of major 0x31. -/
noncomputable def rows31 : List Row := [
  ⟨[(0, 24, 0)], fun w => .tzero (reg2 w 24)⟩,
  ⟨[(0, 8, 1), (12, 2, 0)], fun w => .tmvr (reg2 w 24) (reg5 w 19) (reg5 w 14) (reg4 w 8)⟩,
  ⟨[(0, 8, 2), (12, 2, 0)], fun w => .tmvc (reg2 w 24) (reg5 w 19) (reg5 w 14) (reg4 w 8)⟩,
  ⟨[(0, 8, 3), (12, 2, 0)], fun w => .tmrv (reg2 w 24) (reg5 w 19) (reg5 w 14) (reg4 w 8)⟩,
  ⟨[(0, 8, 4), (12, 2, 0)], fun w => .tmcv (reg2 w 24) (reg5 w 19) (reg5 w 14) (reg4 w 8)⟩,
  ⟨[(0, 14, 5), (23, 1, 0)], fun w => .tchk (reg2 w 24) (reg4 w 19) (reg5 w 14)⟩,
  ⟨[(0, 24, 6)], fun w => .tseal (reg2 w 24)⟩]

/-- The rows of major 0x32. -/
noncomputable def rows32 : List Row := [
  ⟨[(0, 11, 0)], fun w => .spadd (reg5 w 21) (reg5 w 16) (reg5 w 11)⟩,
  ⟨[(0, 11, 1)], fun w => .spmul (reg5 w 21) (reg5 w 16) (reg5 w 11)⟩,
  ⟨[(0, 11, 2)], fun w => .spsub (reg5 w 21) (reg5 w 16) (reg5 w 11)⟩,
  ⟨[(0, 5, 3), (9, 7, 0)], fun w => .spack (reg5 w 21) (reg5 w 16) (reg4 w 5)⟩,
  ⟨[(0, 5, 4), (9, 7, 0)], fun w => .sunpk (reg5 w 21) (reg5 w 16) (reg4 w 5)⟩,
  ⟨[(0, 11, 5), (16, 5, 0)], fun w => .splen (reg5 w 21) (reg5 w 11)⟩]

/-- The rows of major 0x33. -/
noncomputable def rows33 : List Row := [
  ⟨[(0, 5, 0), (9, 2, 0)], fun w => .prune (reg5 w 21) (reg5 w 16) (reg5 w 11) (reg4 w 5)⟩,
  ⟨[(0, 5, 1), (9, 2, 0)], fun w => .pruneU (reg5 w 21) (reg5 w 16) (reg5 w 11) (reg4 w 5)⟩]

/-- The rows of major 0x34. -/
noncomputable def rows34 : List Row := [
  ⟨[(2, 9, 0), (16, 5, 0)], fun w => .hclaim (reg5 w 21) (reg5 w 11) (reg2 w 0)⟩,
  ⟨[(2, 3, 1), (9, 2, 0), (25, 7, 104)], fun w => .hins (reg4 w 21) (reg5 w 16) (reg5 w 11) (reg4 w 5) (reg2 w 0)⟩,
  ⟨[(2, 3, 2), (9, 2, 0), (15, 1, 0)], fun w => .hprobe (reg5 w 21) (reg5 w 16) (reg4 w 11) (reg4 w 5) (reg2 w 0)⟩,
  ⟨[(2, 3, 3), (9, 7, 0), (25, 7, 104)], fun w => .hdel (reg4 w 21) (reg5 w 16) (reg4 w 5) (reg2 w 0)⟩,
  ⟨[(2, 3, 4), (9, 2, 0), (25, 7, 104)], fun w => .hacc (reg4 w 21) (reg5 w 16) (reg5 w 11) (reg4 w 5) (reg2 w 0)⟩,
  ⟨[(2, 9, 5)], fun w => .hdrain (reg5 w 21) (reg5 w 16) (reg5 w 11) (reg2 w 0)⟩,
  ⟨[(2, 30, 872415238)], fun w => .hrel (reg2 w 0)⟩,
  ⟨[(2, 19, 7)], fun w => .hstat (reg5 w 21) (reg2 w 0)⟩]

/-- The rows of a major opcode; a major with none is reserved or illegal (R167). -/
noncomputable def rowsOf : Nat → List Row
  | 0x01 => rows01
  | 0x02 => rows02
  | 0x03 => rows03
  | 0x04 => rows04
  | 0x05 => rows05
  | 0x06 => rows06
  | 0x07 => rows07
  | 0x08 => rows08
  | 0x09 => rows09
  | 0x0A => rows0A
  | 0x0B => rows0B
  | 0x0C => rows0C
  | 0x0D => rows0D
  | 0x0E => rows0E
  | 0x0F => rows0F
  | 0x10 => rows10
  | 0x11 => rows11
  | 0x12 => rows12
  | 0x13 => rows13
  | 0x14 => rows14
  | 0x15 => rows15
  | 0x18 => rows18
  | 0x19 => rows19
  | 0x1A => rows1A
  | 0x1B => rows1B
  | 0x1C => rows1C
  | 0x1D => rows1D
  | 0x1E => rows1E
  | 0x1F => rows1F
  | 0x20 => rows20
  | 0x22 => rows22
  | 0x23 => rows23
  | 0x24 => rows24
  | 0x25 => rows25
  | 0x26 => rows26
  | 0x27 => rows27
  | 0x28 => rows28
  | 0x29 => rows29
  | 0x2A => rows2A
  | 0x2B => rows2B
  | 0x2C => rows2C
  | 0x2D => rows2D
  | 0x30 => rows30
  | 0x31 => rows31
  | 0x32 => rows32
  | 0x33 => rows33
  | 0x34 => rows34
  | _ => []

/-- The instruction of a word, or why it is none. -/
noncomputable def decodeWord (w : Nat) : Except DecodeError Instr :=
  if w = 0 then .error .allZero
  else if bits w 26 6 = 0x3F then .error .permanentlyIllegal
  else match rowsOf (bits w 26 6) with
    | [] => .error .reservedMajor
    | rows => match rows.find? (fun r => r.fits w) with
      | some r => .ok (r.build w)
      | none => .error .unassigned

/-- The little-endian value of four bytes (R7, R163). -/
def wordOfBytes (b0 b1 b2 b3 : BitVec 8) : Nat := b0.toNat + b1.toNat * 256 + b2.toNat * 65536 + b3.toNat * 16777216

/-- Decodes the instruction at the head of a list of bytes and gives the bytes that follow it. -/
noncomputable def decode : List (BitVec 8) → Except DecodeError (Instr × List (BitVec 8))
  | b0 :: b1 :: b2 :: b3 :: rest =>
    match decodeWord (wordOfBytes b0 b1 b2 b3) with
    | .ok i => .ok (i, rest)
    | .error e => .error e
  | _ => .error .tooShort

/-- The four bytes of a word as memory holds them (R7). -/
def bytesOfWord (w : Nat) : List (BitVec 8) :=
  [BitVec.ofNat 8 w, BitVec.ofNat 8 (w / 256), BitVec.ofNat 8 (w / 65536), BitVec.ofNat 8 (w / 16777216)]

/-- The word of an instruction; a device step has none. -/
def encode : Instr → Option Nat
  | .add sd sa sb => some (0x04000000 + sd.val * 2097152 + sa.val * 65536 + sb.val * 2048)
  | .sub sd sa sb => some (0x04000001 + sd.val * 2097152 + sa.val * 65536 + sb.val * 2048)
  | .and sd sa sb => some (0x04000002 + sd.val * 2097152 + sa.val * 65536 + sb.val * 2048)
  | .or sd sa sb => some (0x04000003 + sd.val * 2097152 + sa.val * 65536 + sb.val * 2048)
  | .xor sd sa sb => some (0x04000004 + sd.val * 2097152 + sa.val * 65536 + sb.val * 2048)
  | .sll sd sa sb => some (0x04000005 + sd.val * 2097152 + sa.val * 65536 + sb.val * 2048)
  | .srl sd sa sb => some (0x04000006 + sd.val * 2097152 + sa.val * 65536 + sb.val * 2048)
  | .sra sd sa sb => some (0x04000007 + sd.val * 2097152 + sa.val * 65536 + sb.val * 2048)
  | .slt sd sa sb => some (0x04000008 + sd.val * 2097152 + sa.val * 65536 + sb.val * 2048)
  | .sltu sd sa sb => some (0x04000009 + sd.val * 2097152 + sa.val * 65536 + sb.val * 2048)
  | .mul sd sa sb => some (0x0400000A + sd.val * 2097152 + sa.val * 65536 + sb.val * 2048)
  | .mulh sd sa sb => some (0x0400000B + sd.val * 2097152 + sa.val * 65536 + sb.val * 2048)
  | .mulhu sd sa sb => some (0x0400000C + sd.val * 2097152 + sa.val * 65536 + sb.val * 2048)
  | .div sd sa sb => some (0x0400000D + sd.val * 2097152 + sa.val * 65536 + sb.val * 2048)
  | .divu sd sa sb => some (0x0400000E + sd.val * 2097152 + sa.val * 65536 + sb.val * 2048)
  | .rem sd sa sb => some (0x0400000F + sd.val * 2097152 + sa.val * 65536 + sb.val * 2048)
  | .remu sd sa sb => some (0x04000010 + sd.val * 2097152 + sa.val * 65536 + sb.val * 2048)
  | .min sd sa sb => some (0x04000011 + sd.val * 2097152 + sa.val * 65536 + sb.val * 2048)
  | .max sd sa sb => some (0x04000012 + sd.val * 2097152 + sa.val * 65536 + sb.val * 2048)
  | .minu sd sa sb => some (0x04000013 + sd.val * 2097152 + sa.val * 65536 + sb.val * 2048)
  | .maxu sd sa sb => some (0x04000014 + sd.val * 2097152 + sa.val * 65536 + sb.val * 2048)
  | .clz sd sa => some (0x04000015 + sd.val * 2097152 + sa.val * 65536)
  | .ctz sd sa => some (0x04000016 + sd.val * 2097152 + sa.val * 65536)
  | .popc sd sa => some (0x04000017 + sd.val * 2097152 + sa.val * 65536)
  | .slli sd sa sh => some (0x04000018 + sd.val * 2097152 + sa.val * 65536 + sh.toNat * 32)
  | .srli sd sa sh => some (0x04000019 + sd.val * 2097152 + sa.val * 65536 + sh.toNat * 32)
  | .srai sd sa sh => some (0x0400001A + sd.val * 2097152 + sa.val * 65536 + sh.toNat * 32)
  | .addi sd sa imm => some (0x08000000 + sd.val * 2097152 + sa.val * 65536 + imm.toNat * 1)
  | .andi sd sa imm => some (0x0C000000 + sd.val * 2097152 + sa.val * 65536 + imm.toNat * 1)
  | .ori sd sa imm => some (0x10000000 + sd.val * 2097152 + sa.val * 65536 + imm.toNat * 1)
  | .xori sd sa imm => some (0x14000000 + sd.val * 2097152 + sa.val * 65536 + imm.toNat * 1)
  | .slti sd sa imm => some (0x18000000 + sd.val * 2097152 + sa.val * 65536 + imm.toNat * 1)
  | .lih sd sa imm => some (0x1C000000 + sd.val * 2097152 + sa.val * 65536 + imm.toNat * 1)
  | .lpc sd imm => some (0x34000000 + sd.val * 2097152 + imm.toNat * 1)
  | .lds sd base size uns off => some (0x20000000 + sd.val * 2097152 + base.code * 65536 + size.val * 16384 + uns.toNat * 8192 + off.toNat * 1)
  | .sts sd base size off => some (0x24000000 + sd.val * 2097152 + base.code * 65536 + size.val * 16384 + off.toNat * 1)
  | .beq sa sb off => some (0x28000000 + sa.val * 2097152 + sb.val * 65536 + off.toNat * 1)
  | .bne sa sb off => some (0x28002000 + sa.val * 2097152 + sb.val * 65536 + off.toNat * 1)
  | .blt sa sb off => some (0x28004000 + sa.val * 2097152 + sb.val * 65536 + off.toNat * 1)
  | .bge sa sb off => some (0x28006000 + sa.val * 2097152 + sb.val * 65536 + off.toNat * 1)
  | .bltu sa sb off => some (0x28008000 + sa.val * 2097152 + sb.val * 65536 + off.toNat * 1)
  | .bgeu sa sb off => some (0x2800A000 + sa.val * 2097152 + sb.val * 65536 + off.toNat * 1)
  | .jmp off => some (0x2C000000 + off.toNat * 1)
  | .call off => some (0x30000000 + off.toNat * 1)
  | .crget sd num => some (0x38000000 + sd.val * 2097152 + num.toNat * 1)
  | .crput sa num => some (0x38001000 + sa.val * 65536 + num.toNat * 1)
  | .crsetb sd sa num => some (0x38002000 + sd.val * 2097152 + sa.val * 65536 + num.toNat * 1)
  | .crclrb sd sa num => some (0x38003000 + sd.val * 2097152 + sa.val * 65536 + num.toNat * 1)
  | .crswap sd sa num => some (0x38004000 + sd.val * 2097152 + sa.val * 65536 + num.toNat * 1)
  | .trap code => some (0x3C000100 + code.toNat * 1)
  | .brk => some (0x3C000200)
  | .jr sa => some (0x3C000300 + sa.val * 65536)
  | .callr sd sa => some (0x3C000301 + sd.val * 2097152 + sa.val * 65536)
  | .synci => some (0x3C000400)
  | .done => some (0x3C000500)
  | .tret => some (0x3C008000)
  | .idle => some (0x3C008001)
  | .trapm code => some (0x3C008100 + code.toNat * 1)
  | .pfx pm inv cls idx => some (0x40000000 + pm.val * 4194304 + inv.toNat * 2097152 + cls.toNat * 524288 + idx.toNat * 16384)
  | .strip sa vref w3 w2 w1 w0 => some (0x44000000 + sa.val * 65536 + vref.val * 4096 + w3.toNat * 512 + w2.toNat * 64 + w1.toNat * 8 + w0.toNat * 1)
  | .claim sd sa base vref st => some (0x48000000 + sd.val * 2097152 + sa.val * 65536 + base.val * 4096 + vref.val * 128 + st.val * 16)
  | .gbar => some (0x4C000000)
  | .phend => some (0x4C000001)
  | .lfork sd off => some (0x50000000 + sd.val * 2097152 + off.toNat * 1)
  | .ljoin => some (0x50004000)
  | .vfetch vd va m => some (0x50008000 + vd.val * 512 + va.val * 16 + m.val * 1)
  | .lbend => some (0x5000C000)
  | .qpost sd base va => some (0x54000000 + sd.val * 2097152 + base.val * 4096 + va.val * 128)
  | .vadd vd va vb ca cb m => some (0x60000000 + vd.val * 2097152 + va.val * 65536 + vb.val * 2048 + ca.toNat * 1024 + cb.toNat * 512 + m.val * 32)
  | .vaddVx vd va sb m => some (0x68000000 + vd.val * 2097152 + va.val * 65536 + sb.val * 2048 + m.val * 32)
  | .vsub vd va vb ca cb m => some (0x60000001 + vd.val * 2097152 + va.val * 65536 + vb.val * 2048 + ca.toNat * 1024 + cb.toNat * 512 + m.val * 32)
  | .vsubVx vd va sb m => some (0x68000001 + vd.val * 2097152 + va.val * 65536 + sb.val * 2048 + m.val * 32)
  | .vrsub vd va vb ca cb m => some (0x60000002 + vd.val * 2097152 + va.val * 65536 + vb.val * 2048 + ca.toNat * 1024 + cb.toNat * 512 + m.val * 32)
  | .vrsubVx vd va sb m => some (0x68000002 + vd.val * 2097152 + va.val * 65536 + sb.val * 2048 + m.val * 32)
  | .vmul vd va vb ca cb m => some (0x60000003 + vd.val * 2097152 + va.val * 65536 + vb.val * 2048 + ca.toNat * 1024 + cb.toNat * 512 + m.val * 32)
  | .vmulVx vd va sb m => some (0x68000003 + vd.val * 2097152 + va.val * 65536 + sb.val * 2048 + m.val * 32)
  | .vmulh vd va vb ca cb m => some (0x60000004 + vd.val * 2097152 + va.val * 65536 + vb.val * 2048 + ca.toNat * 1024 + cb.toNat * 512 + m.val * 32)
  | .vmulhVx vd va sb m => some (0x68000004 + vd.val * 2097152 + va.val * 65536 + sb.val * 2048 + m.val * 32)
  | .vdiv vd va vb ca cb m => some (0x60000005 + vd.val * 2097152 + va.val * 65536 + vb.val * 2048 + ca.toNat * 1024 + cb.toNat * 512 + m.val * 32)
  | .vdivVx vd va sb m => some (0x68000005 + vd.val * 2097152 + va.val * 65536 + sb.val * 2048 + m.val * 32)
  | .vrem vd va vb ca cb m => some (0x60000006 + vd.val * 2097152 + va.val * 65536 + vb.val * 2048 + ca.toNat * 1024 + cb.toNat * 512 + m.val * 32)
  | .vremVx vd va sb m => some (0x68000006 + vd.val * 2097152 + va.val * 65536 + sb.val * 2048 + m.val * 32)
  | .vmin vd va vb ca cb m => some (0x60000007 + vd.val * 2097152 + va.val * 65536 + vb.val * 2048 + ca.toNat * 1024 + cb.toNat * 512 + m.val * 32)
  | .vminVx vd va sb m => some (0x68000007 + vd.val * 2097152 + va.val * 65536 + sb.val * 2048 + m.val * 32)
  | .vmax vd va vb ca cb m => some (0x60000008 + vd.val * 2097152 + va.val * 65536 + vb.val * 2048 + ca.toNat * 1024 + cb.toNat * 512 + m.val * 32)
  | .vmaxVx vd va sb m => some (0x68000008 + vd.val * 2097152 + va.val * 65536 + sb.val * 2048 + m.val * 32)
  | .vand vd va vb ca cb m => some (0x60000009 + vd.val * 2097152 + va.val * 65536 + vb.val * 2048 + ca.toNat * 1024 + cb.toNat * 512 + m.val * 32)
  | .vandVx vd va sb m => some (0x68000009 + vd.val * 2097152 + va.val * 65536 + sb.val * 2048 + m.val * 32)
  | .vor vd va vb ca cb m => some (0x6000000A + vd.val * 2097152 + va.val * 65536 + vb.val * 2048 + ca.toNat * 1024 + cb.toNat * 512 + m.val * 32)
  | .vorVx vd va sb m => some (0x6800000A + vd.val * 2097152 + va.val * 65536 + sb.val * 2048 + m.val * 32)
  | .vxor vd va vb ca cb m => some (0x6000000B + vd.val * 2097152 + va.val * 65536 + vb.val * 2048 + ca.toNat * 1024 + cb.toNat * 512 + m.val * 32)
  | .vxorVx vd va sb m => some (0x6800000B + vd.val * 2097152 + va.val * 65536 + sb.val * 2048 + m.val * 32)
  | .vsll vd va vb ca cb m => some (0x6000000C + vd.val * 2097152 + va.val * 65536 + vb.val * 2048 + ca.toNat * 1024 + cb.toNat * 512 + m.val * 32)
  | .vsllVx vd va sb m => some (0x6800000C + vd.val * 2097152 + va.val * 65536 + sb.val * 2048 + m.val * 32)
  | .vsrl vd va vb ca cb m => some (0x6000000D + vd.val * 2097152 + va.val * 65536 + vb.val * 2048 + ca.toNat * 1024 + cb.toNat * 512 + m.val * 32)
  | .vsrlVx vd va sb m => some (0x6800000D + vd.val * 2097152 + va.val * 65536 + sb.val * 2048 + m.val * 32)
  | .vsra vd va vb ca cb m => some (0x6000000E + vd.val * 2097152 + va.val * 65536 + vb.val * 2048 + ca.toNat * 1024 + cb.toNat * 512 + m.val * 32)
  | .vsraVx vd va sb m => some (0x6800000E + vd.val * 2097152 + va.val * 65536 + sb.val * 2048 + m.val * 32)
  | .vadds vd va vb ca cb m => some (0x6000000F + vd.val * 2097152 + va.val * 65536 + vb.val * 2048 + ca.toNat * 1024 + cb.toNat * 512 + m.val * 32)
  | .vaddsVx vd va sb m => some (0x6800000F + vd.val * 2097152 + va.val * 65536 + sb.val * 2048 + m.val * 32)
  | .vsubs vd va vb ca cb m => some (0x60000010 + vd.val * 2097152 + va.val * 65536 + vb.val * 2048 + ca.toNat * 1024 + cb.toNat * 512 + m.val * 32)
  | .vsubsVx vd va sb m => some (0x68000010 + vd.val * 2097152 + va.val * 65536 + sb.val * 2048 + m.val * 32)
  | .vmuls vd va vb ca cb m => some (0x60000011 + vd.val * 2097152 + va.val * 65536 + vb.val * 2048 + ca.toNat * 1024 + cb.toNat * 512 + m.val * 32)
  | .vmulsVx vd va sb m => some (0x68000011 + vd.val * 2097152 + va.val * 65536 + sb.val * 2048 + m.val * 32)
  | .vavg vd va vb ca cb m => some (0x60000012 + vd.val * 2097152 + va.val * 65536 + vb.val * 2048 + ca.toNat * 1024 + cb.toNat * 512 + m.val * 32)
  | .vavgVx vd va sb m => some (0x68000012 + vd.val * 2097152 + va.val * 65536 + sb.val * 2048 + m.val * 32)
  | .vabsd vd va vb ca cb m => some (0x60000013 + vd.val * 2097152 + va.val * 65536 + vb.val * 2048 + ca.toNat * 1024 + cb.toNat * 512 + m.val * 32)
  | .vabsdVx vd va sb m => some (0x68000013 + vd.val * 2097152 + va.val * 65536 + sb.val * 2048 + m.val * 32)
  | .vabs vd va ca m => some (0x60000014 + vd.val * 2097152 + va.val * 65536 + ca.toNat * 1024 + m.val * 32)
  | .vpopc vd va ca m => some (0x60000015 + vd.val * 2097152 + va.val * 65536 + ca.toNat * 1024 + m.val * 32)
  | .vclz vd va ca m => some (0x60000016 + vd.val * 2097152 + va.val * 65536 + ca.toNat * 1024 + m.val * 32)
  | .vfadd vd va vb ca cb m => some (0x64000000 + vd.val * 2097152 + va.val * 65536 + vb.val * 2048 + ca.toNat * 1024 + cb.toNat * 512 + m.val * 32)
  | .vfaddVx vd va sb m => some (0x6C000000 + vd.val * 2097152 + va.val * 65536 + sb.val * 2048 + m.val * 32)
  | .vfsub vd va vb ca cb m => some (0x64000001 + vd.val * 2097152 + va.val * 65536 + vb.val * 2048 + ca.toNat * 1024 + cb.toNat * 512 + m.val * 32)
  | .vfsubVx vd va sb m => some (0x6C000001 + vd.val * 2097152 + va.val * 65536 + sb.val * 2048 + m.val * 32)
  | .vfrsub vd va vb ca cb m => some (0x64000002 + vd.val * 2097152 + va.val * 65536 + vb.val * 2048 + ca.toNat * 1024 + cb.toNat * 512 + m.val * 32)
  | .vfrsubVx vd va sb m => some (0x6C000002 + vd.val * 2097152 + va.val * 65536 + sb.val * 2048 + m.val * 32)
  | .vfmul vd va vb ca cb m => some (0x64000003 + vd.val * 2097152 + va.val * 65536 + vb.val * 2048 + ca.toNat * 1024 + cb.toNat * 512 + m.val * 32)
  | .vfmulVx vd va sb m => some (0x6C000003 + vd.val * 2097152 + va.val * 65536 + sb.val * 2048 + m.val * 32)
  | .vfdiv vd va vb ca cb m => some (0x64000004 + vd.val * 2097152 + va.val * 65536 + vb.val * 2048 + ca.toNat * 1024 + cb.toNat * 512 + m.val * 32)
  | .vfdivVx vd va sb m => some (0x6C000004 + vd.val * 2097152 + va.val * 65536 + sb.val * 2048 + m.val * 32)
  | .vfmin vd va vb ca cb m => some (0x64000005 + vd.val * 2097152 + va.val * 65536 + vb.val * 2048 + ca.toNat * 1024 + cb.toNat * 512 + m.val * 32)
  | .vfminVx vd va sb m => some (0x6C000005 + vd.val * 2097152 + va.val * 65536 + sb.val * 2048 + m.val * 32)
  | .vfmax vd va vb ca cb m => some (0x64000006 + vd.val * 2097152 + va.val * 65536 + vb.val * 2048 + ca.toNat * 1024 + cb.toNat * 512 + m.val * 32)
  | .vfmaxVx vd va sb m => some (0x6C000006 + vd.val * 2097152 + va.val * 65536 + sb.val * 2048 + m.val * 32)
  | .vfsqrt vd va ca m => some (0x64000007 + vd.val * 2097152 + va.val * 65536 + ca.toNat * 1024 + m.val * 32)
  | .vfabs vd va ca m => some (0x64000008 + vd.val * 2097152 + va.val * 65536 + ca.toNat * 1024 + m.val * 32)
  | .vfneg vd va ca m => some (0x64000009 + vd.val * 2097152 + va.val * 65536 + ca.toNat * 1024 + m.val * 32)
  | .vfsgnj vd va vb ca cb m => some (0x6400000A + vd.val * 2097152 + va.val * 65536 + vb.val * 2048 + ca.toNat * 1024 + cb.toNat * 512 + m.val * 32)
  | .vfsgnjVx vd va sb m => some (0x6C00000A + vd.val * 2097152 + va.val * 65536 + sb.val * 2048 + m.val * 32)
  | .vfma vd va vb ca cb m => some (0x70000000 + vd.val * 2097152 + va.val * 65536 + vb.val * 2048 + ca.toNat * 1024 + cb.toNat * 512 + m.val * 32)
  | .vfms vd va vb ca cb m => some (0x70000001 + vd.val * 2097152 + va.val * 65536 + vb.val * 2048 + ca.toNat * 1024 + cb.toNat * 512 + m.val * 32)
  | .vfnma vd va vb ca cb m => some (0x70000002 + vd.val * 2097152 + va.val * 65536 + vb.val * 2048 + ca.toNat * 1024 + cb.toNat * 512 + m.val * 32)
  | .vfnms vd va vb ca cb m => some (0x70000003 + vd.val * 2097152 + va.val * 65536 + vb.val * 2048 + ca.toNat * 1024 + cb.toNat * 512 + m.val * 32)
  | .vmadd vd va vb ca cb m => some (0x70000004 + vd.val * 2097152 + va.val * 65536 + vb.val * 2048 + ca.toNat * 1024 + cb.toNat * 512 + m.val * 32)
  | .vmadds vd va vb ca cb m => some (0x70000005 + vd.val * 2097152 + va.val * 65536 + vb.val * 2048 + ca.toNat * 1024 + cb.toNat * 512 + m.val * 32)
  | .vnmsub vd va vb ca cb m => some (0x70000006 + vd.val * 2097152 + va.val * 65536 + vb.val * 2048 + ca.toNat * 1024 + cb.toNat * 512 + m.val * 32)
  | .vcmpEq md va vb ca cb m => some (0x74000000 + md.val * 2097152 + va.val * 65536 + vb.val * 2048 + ca.toNat * 1024 + cb.toNat * 512 + m.val * 32)
  | .vcmpNe md va vb ca cb m => some (0x74000001 + md.val * 2097152 + va.val * 65536 + vb.val * 2048 + ca.toNat * 1024 + cb.toNat * 512 + m.val * 32)
  | .vcmpLt md va vb ca cb m => some (0x74000002 + md.val * 2097152 + va.val * 65536 + vb.val * 2048 + ca.toNat * 1024 + cb.toNat * 512 + m.val * 32)
  | .vcmpLe md va vb ca cb m => some (0x74000003 + md.val * 2097152 + va.val * 65536 + vb.val * 2048 + ca.toNat * 1024 + cb.toNat * 512 + m.val * 32)
  | .vcmpGt md va vb ca cb m => some (0x74000004 + md.val * 2097152 + va.val * 65536 + vb.val * 2048 + ca.toNat * 1024 + cb.toNat * 512 + m.val * 32)
  | .vcmpGe md va vb ca cb m => some (0x74000005 + md.val * 2097152 + va.val * 65536 + vb.val * 2048 + ca.toNat * 1024 + cb.toNat * 512 + m.val * 32)
  | .vcmpUn md va vb ca cb m => some (0x74000006 + md.val * 2097152 + va.val * 65536 + vb.val * 2048 + ca.toNat * 1024 + cb.toNat * 512 + m.val * 32)
  | .vcmpEqVx md va sb m => some (0x74000008 + md.val * 2097152 + va.val * 65536 + sb.val * 2048 + m.val * 32)
  | .vcmpNeVx md va sb m => some (0x74000009 + md.val * 2097152 + va.val * 65536 + sb.val * 2048 + m.val * 32)
  | .vcmpLtVx md va sb m => some (0x7400000A + md.val * 2097152 + va.val * 65536 + sb.val * 2048 + m.val * 32)
  | .vcmpLeVx md va sb m => some (0x7400000B + md.val * 2097152 + va.val * 65536 + sb.val * 2048 + m.val * 32)
  | .vcmpGtVx md va sb m => some (0x7400000C + md.val * 2097152 + va.val * 65536 + sb.val * 2048 + m.val * 32)
  | .vcmpGeVx md va sb m => some (0x7400000D + md.val * 2097152 + va.val * 65536 + sb.val * 2048 + m.val * 32)
  | .vcmpUnVx md va sb m => some (0x7400000E + md.val * 2097152 + va.val * 65536 + sb.val * 2048 + m.val * 32)
  | .vnz md va m => some (0x74000010 + md.val * 2097152 + va.val * 65536 + m.val * 32)
  | .mand md ma mb => some (0x78000000 + md.val * 2097152 + ma.val * 65536 + mb.val * 2048)
  | .mor md ma mb => some (0x78000001 + md.val * 2097152 + ma.val * 65536 + mb.val * 2048)
  | .mxor md ma mb => some (0x78000002 + md.val * 2097152 + ma.val * 65536 + mb.val * 2048)
  | .mandn md ma mb => some (0x78000003 + md.val * 2097152 + ma.val * 65536 + mb.val * 2048)
  | .mnot md ma => some (0x78000004 + md.val * 2097152 + ma.val * 65536)
  | .mpopc sd ma => some (0x78000005 + sd.val * 2097152 + ma.val * 65536)
  | .mfirst sd ma => some (0x78000006 + sd.val * 2097152 + ma.val * 65536)
  | .vexit ma => some (0x78000007 + ma.val * 65536)
  | .vexitIncl ma => some (0x78000008 + ma.val * 65536)
  | .vredsum vd va vb m => some (0x78000010 + vd.val * 2097152 + va.val * 65536 + vb.val * 2048 + m.val * 32)
  | .vredsums vd va vb m => some (0x78000011 + vd.val * 2097152 + va.val * 65536 + vb.val * 2048 + m.val * 32)
  | .vredmin vd va vb m => some (0x78000012 + vd.val * 2097152 + va.val * 65536 + vb.val * 2048 + m.val * 32)
  | .vredmax vd va vb m => some (0x78000013 + vd.val * 2097152 + va.val * 65536 + vb.val * 2048 + m.val * 32)
  | .vredand vd va vb m => some (0x78000014 + vd.val * 2097152 + va.val * 65536 + vb.val * 2048 + m.val * 32)
  | .vredor vd va vb m => some (0x78000015 + vd.val * 2097152 + va.val * 65536 + vb.val * 2048 + m.val * 32)
  | .vredxor vd va vb m => some (0x78000016 + vd.val * 2097152 + va.val * 65536 + vb.val * 2048 + m.val * 32)
  | .vgmax vd va sb m => some (0x78000018 + vd.val * 2097152 + va.val * 65536 + sb.val * 2048 + m.val * 32)
  | .vgmin vd va sb m => some (0x78000019 + vd.val * 2097152 + va.val * 65536 + sb.val * 2048 + m.val * 32)
  | .vgor vd va sb m => some (0x7800001A + vd.val * 2097152 + va.val * 65536 + sb.val * 2048 + m.val * 32)
  | .vmov vd va ca m => some (0x7C000000 + vd.val * 2097152 + va.val * 65536 + ca.toNat * 1024 + m.val * 32)
  | .vmerge vd va vb ca cb m => some (0x7C000001 + vd.val * 2097152 + va.val * 65536 + vb.val * 2048 + ca.toNat * 1024 + cb.toNat * 512 + m.val * 32)
  | .vbcast vd sb m => some (0x7C000002 + vd.val * 2097152 + sb.val * 2048 + m.val * 32)
  | .vidx vd m => some (0x7C000003 + vd.val * 2097152 + m.val * 32)
  | .vextr sd va sb => some (0x7C000004 + sd.val * 2097152 + va.val * 65536 + sb.val * 2048)
  | .vperm vd va vb m => some (0x7C000005 + vd.val * 2097152 + va.val * 65536 + vb.val * 2048 + m.val * 32)
  | .vslup vd va sb m => some (0x7C000006 + vd.val * 2097152 + va.val * 65536 + sb.val * 2048 + m.val * 32)
  | .vsldn vd va sb m => some (0x7C000007 + vd.val * 2097152 + va.val * 65536 + sb.val * 2048 + m.val * 32)
  | .vsl1up vd va sb m => some (0x7C000008 + vd.val * 2097152 + va.val * 65536 + sb.val * 2048 + m.val * 32)
  | .vsl1dn vd va sb m => some (0x7C000009 + vd.val * 2097152 + va.val * 65536 + sb.val * 2048 + m.val * 32)
  | .vcompress vd va m => some (0x7C00000A + vd.val * 2097152 + va.val * 65536 + m.val * 32)
  | .vexpand vd va m => some (0x7C00000B + vd.val * 2097152 + va.val * 65536 + m.val * 32)
  | .vconfm md va m => some (0x7C00000C + md.val * 2097152 + va.val * 65536 + m.val * 32)
  | .vconfc vd va m => some (0x7C00000D + vd.val * 2097152 + va.val * 65536 + m.val * 32)
  | .vfsr vd va sb m => some (0x7C00000E + vd.val * 2097152 + va.val * 65536 + sb.val * 2048 + m.val * 32)
  | .vfsl vd va sb m => some (0x7C00000F + vd.val * 2097152 + va.val * 65536 + sb.val * 2048 + m.val * 32)
  | .vfsrv vd va vb m => some (0x7C000010 + vd.val * 2097152 + va.val * 65536 + vb.val * 2048 + m.val * 32)
  | .vfslv vd va vb m => some (0x7C000011 + vd.val * 2097152 + va.val * 65536 + vb.val * 2048 + m.val * 32)
  | .vcfg vd sb => some (0x80000000 + vd.val * 2097152 + sb.val * 2048)
  | .vcvt vd va ca m => some (0x80000001 + vd.val * 2097152 + va.val * 65536 + ca.toNat * 1024 + m.val * 32)
  | .vcvtRne vd va ca m => some (0x80000002 + vd.val * 2097152 + va.val * 65536 + ca.toNat * 1024 + m.val * 32)
  | .vcvtRtz vd va ca m => some (0x80000003 + vd.val * 2097152 + va.val * 65536 + ca.toNat * 1024 + m.val * 32)
  | .vcvtRdn vd va ca m => some (0x80000004 + vd.val * 2097152 + va.val * 65536 + ca.toNat * 1024 + m.val * 32)
  | .vcvtRup vd va ca m => some (0x80000005 + vd.val * 2097152 + va.val * 65536 + ca.toNat * 1024 + m.val * 32)
  | .vcvtRna vd va ca m => some (0x80000006 + vd.val * 2097152 + va.val * 65536 + ca.toNat * 1024 + m.val * 32)
  | .vcvtSr vd va ca m => some (0x80000007 + vd.val * 2097152 + va.val * 65536 + ca.toNat * 1024 + m.val * 32)
  | .vqnt vd va m => some (0x80000008 + vd.val * 2097152 + va.val * 65536 + m.val * 32)
  | .vldImm vd base imm st m => some (0x88000000 + vd.val * 2097152 + base.val * 65536 + imm.toNat * 2048 + st.val * 128 + m.val * 8)
  | .vldReg vd base sx st m => some (0x88000001 + vd.val * 2097152 + base.val * 65536 + sx.val * 2048 + st.val * 128 + m.val * 8)
  | .vldk vd k sx st m => some (0x88100001 + vd.val * 2097152 + k.val * 65536 + sx.val * 2048 + st.val * 128 + m.val * 8)
  | .vldStr vd base sx st m => some (0x88000002 + vd.val * 2097152 + base.val * 65536 + sx.val * 2048 + st.val * 128 + m.val * 8)
  | .vstImm vd base imm ca st m => some (0x8C000000 + vd.val * 2097152 + base.val * 65536 + imm.toNat * 2048 + ca.toNat * 1024 + st.val * 128 + m.val * 8)
  | .vstReg vd base sx ca st m => some (0x8C000001 + vd.val * 2097152 + base.val * 65536 + sx.val * 2048 + ca.toNat * 1024 + st.val * 128 + m.val * 8)
  | .vstk vd k sx ca st m => some (0x8C100001 + vd.val * 2097152 + k.val * 65536 + sx.val * 2048 + ca.toNat * 1024 + st.val * 128 + m.val * 8)
  | .vstStr vd base sx ca st m => some (0x8C000002 + vd.val * 2097152 + base.val * 65536 + sx.val * 2048 + ca.toNat * 1024 + st.val * 128 + m.val * 8)
  | .vstu vd base sx ca st m => some (0x8C000003 + vd.val * 2097152 + base.val * 65536 + sx.val * 2048 + ca.toNat * 1024 + st.val * 128 + m.val * 8)
  | .vldfImm vd base imm st m => some (0x90000000 + vd.val * 2097152 + base.val * 65536 + imm.toNat * 2048 + st.val * 128 + m.val * 8)
  | .vldfReg vd base sx st m => some (0x90000001 + vd.val * 2097152 + base.val * 65536 + sx.val * 2048 + st.val * 128 + m.val * 8)
  | .vldkf vd k sx st m => some (0x90100001 + vd.val * 2097152 + k.val * 65536 + sx.val * 2048 + st.val * 128 + m.val * 8)
  | .vldfStr vd base sx st m => some (0x90000002 + vd.val * 2097152 + base.val * 65536 + sx.val * 2048 + st.val * 128 + m.val * 8)
  | .vgath vd base vi ca st m => some (0x94000000 + vd.val * 2097152 + base.val * 65536 + vi.val * 2048 + ca.toNat * 1024 + st.val * 128 + m.val * 8)
  | .vgathk vd k vi ca st m => some (0x94100000 + vd.val * 2097152 + k.val * 65536 + vi.val * 2048 + ca.toNat * 1024 + st.val * 128 + m.val * 8)
  | .vgathB vd base vi ca st m => some (0x94000001 + vd.val * 2097152 + base.val * 65536 + vi.val * 2048 + ca.toNat * 1024 + st.val * 128 + m.val * 8)
  | .vscatO vd base vi ca st m => some (0x98000000 + vd.val * 2097152 + base.val * 65536 + vi.val * 2048 + ca.toNat * 1024 + st.val * 128 + m.val * 8)
  | .vscatkO vd k vi ca st m => some (0x98100000 + vd.val * 2097152 + k.val * 65536 + vi.val * 2048 + ca.toNat * 1024 + st.val * 128 + m.val * 8)
  | .vscat vd base vi ca st m => some (0x98000001 + vd.val * 2097152 + base.val * 65536 + vi.val * 2048 + ca.toNat * 1024 + st.val * 128 + m.val * 8)
  | .vscatk vd k vi ca st m => some (0x98100001 + vd.val * 2097152 + k.val * 65536 + vi.val * 2048 + ca.toNat * 1024 + st.val * 128 + m.val * 8)
  | .vscatOB vd base vi ca st m => some (0x98000002 + vd.val * 2097152 + base.val * 65536 + vi.val * 2048 + ca.toNat * 1024 + st.val * 128 + m.val * 8)
  | .vscatB vd base vi ca st m => some (0x98000003 + vd.val * 2097152 + base.val * 65536 + vi.val * 2048 + ca.toNat * 1024 + st.val * 128 + m.val * 8)
  | .vgll vd base vi ca st m => some (0x9C000000 + vd.val * 2097152 + base.val * 65536 + vi.val * 2048 + ca.toNat * 1024 + st.val * 128 + m.val * 8)
  | .vscc vd base vi ca st m => some (0x9C000001 + vd.val * 2097152 + base.val * 65536 + vi.val * 2048 + ca.toNat * 1024 + st.val * 128 + m.val * 8)
  | .vaadd vd base vi ca st m => some (0x9C000002 + vd.val * 2097152 + base.val * 65536 + vi.val * 2048 + ca.toNat * 1024 + st.val * 128 + m.val * 8)
  | .vamin vd base vi ca st m => some (0x9C000003 + vd.val * 2097152 + base.val * 65536 + vi.val * 2048 + ca.toNat * 1024 + st.val * 128 + m.val * 8)
  | .vamax vd base vi ca st m => some (0x9C000004 + vd.val * 2097152 + base.val * 65536 + vi.val * 2048 + ca.toNat * 1024 + st.val * 128 + m.val * 8)
  | .vaand vd base vi ca st m => some (0x9C000005 + vd.val * 2097152 + base.val * 65536 + vi.val * 2048 + ca.toNat * 1024 + st.val * 128 + m.val * 8)
  | .vaor vd base vi ca st m => some (0x9C000006 + vd.val * 2097152 + base.val * 65536 + vi.val * 2048 + ca.toNat * 1024 + st.val * 128 + m.val * 8)
  | .vaxchg vd base vi ca st m => some (0x9C000007 + vd.val * 2097152 + base.val * 65536 + vi.val * 2048 + ca.toNat * 1024 + st.val * 128 + m.val * 8)
  | .fence scope mask => some (0xA0000000 + scope.toNat * 1024 + mask.toNat * 1)
  | .sbar mask => some (0xA0002000 + mask.toNat * 1)
  | .ldacq sd scope size base st => some (0xA0004000 + sd.val * 2097152 + scope.toNat * 1024 + size.val * 256 + base.val * 16 + st.val * 2)
  | .strel sa scope size base st => some (0xA0006000 + sa.val * 65536 + scope.toNat * 1024 + size.val * 256 + base.val * 16 + st.val * 2)
  | .kset k sa => some (0xA4000000 + k.val * 4194304 + sa.val * 16384)
  | .kdim k sa dim => some (0xA4001000 + k.val * 4194304 + sa.val * 16384 + dim.toNat * 1)
  | .kadv c imm => some (0xA8000000 + c.val * 524288 + imm.toNat * 1)
  | .kadvz c cz imm => some (0xA8000800 + c.val * 524288 + cz.val * 256 + imm.toNat * 1)
  | .ksetc c sa => some (0xA8001000 + c.val * 524288 + sa.val * 16384)
  | .krel k => some (0xA8001800 + k.val * 4194304)
  | .kwait k => some (0xA8002000 + k.val * 4194304)
  | .kqry k sa word => some (0xA8002800 + k.val * 4194304 + sa.val * 16384 + word.toNat * 1)
  | .nmc vc base sx st m => some (0xAC000000 + vc.val * 2097152 + base.val * 65536 + sx.val * 2048 + st.val * 128 + m.val * 8)
  | .xlde vd base sx st m => some (0xB0000000 + vd.val * 2097152 + base.val * 65536 + sx.val * 2048 + st.val * 128 + m.val * 8)
  | .xstc vd base sx ca st m => some (0xB0000001 + vd.val * 2097152 + base.val * 65536 + sx.val * 2048 + ca.toNat * 1024 + st.val * 128 + m.val * 8)
  | .xefst vd base sx ca st m => some (0xB0000002 + vd.val * 2097152 + base.val * 65536 + sx.val * 2048 + ca.toNat * 1024 + st.val * 128 + m.val * 8)
  | .coll vc base sx st => some (0xB4000000 + vc.val * 2097152 + base.val * 65536 + sx.val * 2048 + st.val * 128)
  | .mop td va vb ca cb m => some (0xC0000000 + td.val * 16777216 + va.val * 524288 + vb.val * 16384 + ca.toNat * 8192 + cb.toNat * 4096 + m.val * 256)
  | .mopn td va vb ca cb m => some (0xC0000001 + td.val * 16777216 + va.val * 524288 + vb.val * 16384 + ca.toNat * 8192 + cb.toNat * 4096 + m.val * 256)
  | .mopk td va vb ca cb m k => some (0xC0000010 + td.val * 16777216 + va.val * 524288 + vb.val * 16384 + ca.toNat * 8192 + cb.toNat * 4096 + m.val * 256 + k.val * 1)
  | .tzero td => some (0xC4000000 + td.val * 16777216)
  | .tmvr td va sb m => some (0xC4000001 + td.val * 16777216 + va.val * 524288 + sb.val * 16384 + m.val * 256)
  | .tmvc td va sb m => some (0xC4000002 + td.val * 16777216 + va.val * 524288 + sb.val * 16384 + m.val * 256)
  | .tmrv td va sb m => some (0xC4000003 + td.val * 16777216 + va.val * 524288 + sb.val * 16384 + m.val * 256)
  | .tmcv td va sb m => some (0xC4000004 + td.val * 16777216 + va.val * 524288 + sb.val * 16384 + m.val * 256)
  | .tchk td ma sb => some (0xC4000005 + td.val * 16777216 + ma.val * 524288 + sb.val * 16384)
  | .tseal td => some (0xC4000006 + td.val * 16777216)
  | .spadd vd va vb => some (0xC8000000 + vd.val * 2097152 + va.val * 65536 + vb.val * 2048)
  | .spmul vd va vb => some (0xC8000001 + vd.val * 2097152 + va.val * 65536 + vb.val * 2048)
  | .spsub vd va vb => some (0xC8000002 + vd.val * 2097152 + va.val * 65536 + vb.val * 2048)
  | .spack vd va m => some (0xC8000003 + vd.val * 2097152 + va.val * 65536 + m.val * 32)
  | .sunpk vd va m => some (0xC8000004 + vd.val * 2097152 + va.val * 65536 + m.val * 32)
  | .splen vd sb => some (0xC8000005 + vd.val * 2097152 + sb.val * 2048)
  | .prune vd va sb m => some (0xCC000000 + vd.val * 2097152 + va.val * 65536 + sb.val * 2048 + m.val * 32)
  | .pruneU vd va sb m => some (0xCC000001 + vd.val * 2097152 + va.val * 65536 + sb.val * 2048 + m.val * 32)
  | .hclaim sd sb h => some (0xD0000000 + sd.val * 2097152 + sb.val * 2048 + h.val * 1)
  | .hins md va vb m h => some (0xD0000004 + md.val * 2097152 + va.val * 65536 + vb.val * 2048 + m.val * 32 + h.val * 1)
  | .hprobe vd va mb m h => some (0xD0000008 + vd.val * 2097152 + va.val * 65536 + mb.val * 2048 + m.val * 32 + h.val * 1)
  | .hdel md va m h => some (0xD000000C + md.val * 2097152 + va.val * 65536 + m.val * 32 + h.val * 1)
  | .hacc md va vb m h => some (0xD0000010 + md.val * 2097152 + va.val * 65536 + vb.val * 2048 + m.val * 32 + h.val * 1)
  | .hdrain vd va sb h => some (0xD0000014 + vd.val * 2097152 + va.val * 65536 + sb.val * 2048 + h.val * 1)
  | .hrel h => some (0xD0000018 + h.val * 1)
  | .hstat sd h => some (0xD000001C + sd.val * 2097152 + h.val * 1)
  | .interruptEntry _ => none
  | .advanceComplete _ _ => none
  | .staleRefetch _ _ => none
  | .matrixEntryComplete _ => none
  | .mandrelAxpby _ => none
  | .mandrelStep _ => none
  | .mandrelFill _ => none
  | .mandrelCopy _ => none
  | .mandrelIadd _ => none
  | .mandrelScrub _ => none
  | .allred _ => none
  | .redscat _ => none
  | .allgath _ => none
  | .bcast _ => none
  | .collInstanceTimeout _ _ => none
  | .collGroupInvalidate _ => none
  | .phaseSweep _ => none
  | .scatterAcknowledge _ _ => none
  | .doorbellAnnounce _ _ => none
  | .examineRecord _ => none
  | .epochEnd => none
  | .gangPlace _ _ _ => none
  | .timeSliceEnd _ => none
  | .gangPreempt _ => none
  | .gangResume _ _ _ => none
  | .frzcmdUnfreeze _ => none
  | .frzcmdKill _ => none
  | .partWrite _ _ => none
  | .qdWrite _ _ _ => none
  | .queueUnregister _ => none
  | .invaWrite _ _ => none
  | .invalidationComplete _ => none
  | .probeRewalk _ => none
  | .mcmdStart _ => none
  | .migrationComplete _ => none
  | .controllerRead _ _ _ => none
  | .controllerPartialStore _ _ _ _ _ => none
  | .controllerFullStore _ _ _ _ => none
  | .linkResponseLost _ => none
  | .responseTimeout _ => none
  | .scratchpadRebuild _ _ => none
  | .scratchpadRebuildComplete _ _ => none
  | .laneSuspect _ _ => none
  | .errpop _ _ => none
  | .pdatRemove _ => none
  | .efrzcmdUnfreeze _ _ => none
  | .rowCounterRefresh _ _ _ => none
  | .periodicRefresh _ _ _ => none
  | .fallbackRefreshTakeover _ => none
  | .patrolScrubSector _ => none
  | .patrolPassEnd _ _ => none
  | .powerSample _ _ _ _ => none
  | .powerGrantAdoptTimeout _ => none
  | .bar0DoorbellAccess _ _ _ => none
  | .bar2SystemAccess _ _ _ => none
  | .bar4MemoryAccess _ _ _ _ => none
  | .atsInvalidationRequest _ _ _ => none
  | .priResponse _ _ => none
  | .priTimeout _ => none
  | .fnctlUnfreeze _ => none
  | .fnctlKill _ => none
  | .functionLevelReset _ => none
  | .peerRequest _ _ _ _ _ => none
  | .peerstUnfreeze _ => none
  | .lrevoke _ => none
  | .leaseRevocation _ => none
  | .revocationAck => none
  | .revocationTimeout => none
  | .portDown _ => none
  | .peerPathTimeout _ => none
  | .mgmtSoftInterruptSet _ _ => none
  | .mgmtSoftInterruptAck _ _ => none
  | .powerOnReset => none
  | .warmReset => none
  | .bootcmdWarm _ => none
  | .bootSequence => none
  | .measurementExtend _ _ _ _ => none
  | .spdmChallenge _ => none
  | .spdmGetMeasurements _ _ => none
  | .spdmKeyExchange _ _ _ => none
  | .registerWrite _ _ _ => none
  | .portUp _ => none
  | .peerResponse _ _ => none
  | .atsTranslationCompletion _ _ _ => none
  | .remoteRankJoin _ _ _ _ _ => none
  | .baseDieCoreRestart _ => none

/-- The instruction the decoder reads from the table's bit numbering: a word has 32 bits, and the bits above nbits are zero. -/
noncomputable def decodeTableWord (nbits w : Nat) : Option Instr :=
  match decode (bytesOfWord (w % 2 ^ nbits)) with
  | .ok (i, _) => some i
  | .error _ => none

end Sys2Proof
end

