-- ==== Sys2Proof/Config.lean ====
section
/-! DEFINITION. What one implementation fixes and what the specification leaves open. Every `opaque` constant has no body: a
claim that mentions one is true whatever its value is. -/

namespace Sys2Proof.Config

/-- A free value of `w` bits, drawn by the count that State.free holds (assumption 3). -/
opaque freeBits (w : Nat) (draw : Nat) : BitVec w

/-- A free choice of a number, drawn by the same count (assumption 3). -/
opaque freeNat (draw : Nat) : Nat

/-- The clk that pass on a core in one step of the model: timing is not modelled (assumption 4). -/
opaque clkStep (core : Nat) (step : Nat) : Nat

/-- The clk that pass on a core in n steps from a step on. -/
def clkBetween (core first : Nat) : Nat → Nat
  | 0 => 0
  | n + 1 => clkBetween core first n + clkStep core (first + n)

/-- A byte of scratchpad whose contents the specification leaves unspecified (R107, R115, R299), as one step reads it
(assumption 3). -/
opaque freeByte (step key : Nat) : BitVec 8

/-- The address at which management core m starts root firmware (R431 gives none; assumption 5). -/
opaque firmwareEntry (m : Nat) : BitVec 64

/-- The combination tree of a floating collective (R279): of the values that remain at a step, the places of the two that the next
node combines. It is fixed for a group and the placement of its ranks (assumption 6). -/
opaque collectivePick (group : Nat) (placement : List Nat) (step : Nat) : Nat × Nat

/-- The minor and major stepping that IDSTEP reads (R433). -/
opaque stepping : BitVec 16

/-- The key hash fused at manufacture, the rollback counter and the device secret (R431, R434). -/
opaque fusedKeyHash : BitVec 256
opaque fusedRollback : BitVec 64
opaque deviceSecret : BitVec 256

/-- The signature by which Ivholt certified the device identity key at manufacture (R434). -/
opaque identityCert : BitVec 512

/-- The digest of the boot ROM (R432). -/
opaque romDigest : BitVec 256

/-- A firmware image of the flash (R431): public key, signature, security version, header and body bytes. -/
structure Image where
  readable : Bool
  keyX : BitVec 256
  keyY : BitVec 256
  sigR : BitVec 256
  sigS : BitVec 256
  version : BitVec 64
  bytes : List (BitVec 8)
deriving DecidableEq, Repr, Inhabited

/-- What the flash holds in slots A and B at a reset (R431): its contents are not the device's to fix (assumption 15). -/
opaque flash (slot : Bool) : Option Image

/-- The stage that a log entry of the ROM and of root firmware carries, and the ROM's security version (R432 gives no values). -/
opaque romStage : BitVec 8
opaque firmwareStage : BitVec 8
opaque romVersion : BitVec 64

/-- Whether the host has enabled ATS, or PRI, for a function (R415, R416): the host's own choice, made in configuration space, of which
the specification gives no register (assumption 67). -/
opaque hostEnables (pri : Bool) (fn : Nat) : Bool

/-- An access that the specification lets report any class and any data: damage beyond a code's promise (R391) or a sector never
written (R439). -/
opaque damagedClass (draw : Nat) : Fin 4
opaque damagedData (draw : Nat) : BitVec 512

end Sys2Proof.Config
end

