-- ==== Sys2Proof/Machine/State.lean ====
section
/-! DEFINITION. The state of the device as plain data: every hart, gang, core, partition and device register that the
specification names, and its value at reset (R427, R51, R439). Registers that software reads and writes whole are words whose
fields the accessors of Ops cut out; fields that only the hardware keeps are data of their own type. -/

namespace Sys2Proof.Machine

/-- A sparse table: keys strictly rising, no entry equal to the default. -/
abbrev Sparse (α : Type) := List (Nat × α)

/-- Memory bytes (R18) by key: a physical address, or 2^52 plus the scratchpad byte number of a core (R117). -/
abbrev Memory := List Host.Cell

/-- Identity of a hart: its MID, 4 × core + context, or 0x8000 + m for management core m (R330). -/
abbrev HartId := Nat

/-- Privilege levels (R323). -/
inductive Level where
  | u
  | s
  | m
deriving DecidableEq, Repr

/-- A trap as its cause raises it (R374): TDETA for the causes that name an address or a number, and the TDETB fields. -/
structure Trap where
  code : Nat
  deta : Nat := 0
  cls : Nat := 0
  kind : Nat := 0
  kreg : Nat := 0
  acc : Nat := 0
  eng : Bool := false
  stream : Nat := 0
  elem : Nat := 0
deriving DecidableEq, Repr

/-- What an instruction that stalls without a fault waits for. -/
inductive Cause where
  /-- The hart's earlier accesses that have to be performed before an access in a stream: its Mandrel commands, its collectives and the
  Chuck's fetches of the stream and, before a store, its posted stores to lessors (R133, R136). -/
  | stream (stream : Nat) (store : Bool)
  /-- The same without the Chuck's fetches: the transfers of an advance take their place after them (R101, R106). -/
  | ahead (stream : Nat) (store : Bool)
  /-- The collectives of the hart, and the Chuck's fetches for it, over n bytes at an address (R108, R134). -/
  | buffer (va n : Nat)
  /-- The hart's engine transfers in some streams and, where `far`, its posted stores to lessors (R141, R143). -/
  | transfers (mask : BitVec 8) (far : Bool)
  /-- The hart's entries of the matrix queue (R66, R280). -/
  | entries
  /-- A place in the core's matrix queue (R280, R354). -/
  | posting
  /-- The advances in flight of a residency register (R101). -/
  | settled (k : KIdx)
  /-- The second advance in flight of the registers that some counters affect (R101). -/
  | advances (changed : Nat)
  /-- The fetch of window elements of a residency register, whether or not their probes fail (R101, R102, R104). -/
  | landed (k : KIdx) (xs : List (List Nat))
  /-- One of the core's sector requests (R22). -/
  | sectors
  /-- The hart's scatter elements (R35). -/
  | acknowledged
deriving DecidableEq, Repr

/-- Why a hart does not issue. -/
inductive Wait where
  /-- It issues. -/
  | run
  /-- It has arrived at a gang barrier (R33). -/
  | barrier
  /-- It has arrived at a phase end (R35, R36). -/
  | phase
  /-- It waits for its child's LJOIN (R44). -/
  | join
  /-- Its probe of a virtual address met a page under migration (R369). -/
  | probe (va : Nat)
  /-- Its probe waits for an ATS translation or a page response of the host for a page (R415, R416). -/
  | host (page : Nat)
  /-- It waits for a peer's answer about a sector of a lease window (R371, R372). -/
  | peer (sector : Nat)
  /-- Its instruction stalls (R353): it issues again when the cause is gone. -/
  | busy (c : Cause)
  /-- A trap that it has raised waits, for its frame, until the hart's earlier engine transfers are performed (R133, R134). -/
  | trap (t : Trap)
  /-- IDLE waits for an interrupt (R203). -/
  | idle
  /-- It has ended (R202, R44). -/
  | ended
  /-- The context holds no hart. -/
  | vacant
  /-- A management core that reset holds (R431). -/
  | held
deriving DecidableEq, Repr

/-- The seven trap registers of one level (R373). -/
structure TrapSet where
  tbase : Word
  tresume : Word
  tcause : Word
  tdeta : Word
  tdetb : Word
  tstate : Word
  tframe : Word
deriving DecidableEq, Repr

/-- The trap registers at launch: TSTATE holds IMASK 0xFF, HOLD 1 and HOLDW 1 (R373). -/
def TrapSet.launch : TrapSet := ⟨0, 0, 0, 0, 0, 0xFF60#64, 0⟩

/-- A tile accumulator with its check state (R54, R282). Element (i, j) is word 128 i + j. -/
structure Tile where
  elems : BitVec 524288
  rs : BitVec 4096
  cs : BitVec 4096
  ra : BitVec 4096
  ca : BitVec 4096
  u : Bool
  d : Bool
deriving DecidableEq, Repr

/-- All elements +0.0 and the check state cleared (R51). -/
def Tile.zero : Tile := ⟨0, 0, 0, 0, 0, false, false⟩

/-- The life of a residency register (R92, R101). -/
inductive KPhase where
  | invalid
  | configuring
  | valid
deriving DecidableEq, Repr

/-- A residency register (R90). KCFG.ST is read from `phase` and `flights`. -/
structure KReg where
  base : Word
  cfg : Word
  dimA : Vector Word 4
  dimB : Vector Word 4
  cnt : Word
  /-- The dimensions given since the KSET. -/
  got : BitVec 4
  phase : KPhase
  /-- The fetch lists of the advances in flight, oldest first. -/
  flights : List (List (List Nat))
deriving DecidableEq, Repr

/-- Advances in flight: 0, 1 or 2 (R101). -/
def KReg.inflight (k : KReg) : Nat := k.flights.length

/-- An unconfigured residency register. -/
def KReg.launch : KReg :=
  ⟨0, 0, Vector.replicate 4 0, Vector.replicate 4 0, 0, 0, .invalid, []⟩

/-- Whether an element has arrived in its window (R101, R102): it waits for its page, or for a lessor's answer at an address. -/
inductive Arrival where
  | arrived
  | page
  | lessor (pa : Nat)
deriving DecidableEq, Repr

/-- Where the bytes of an access are; `ns` for a no-speculation page (R124). -/
inductive Loc where
  | spad (core off : Nat)
  | dram (unit pa layout : Nat) (ns : Bool)
  | host (addr : Nat) (ns : Bool)
  | lease (pa : Nat) (ns : Bool)
  | doorbell (queue off : Nat) (ns : Bool)
deriving DecidableEq, Repr

/-- A translation that the Chuck holds with an element (R364, R365): the leaf's entry, the physical address and the location. -/
structure Held where
  entry : Nat
  pa : Nat
  loc : Loc
deriving DecidableEq, Repr

/-- One element copy in a hart's windows (R99, R102, R103, R105, R365). -/
structure WinElem where
  /-- The residency registers that hold this copy. -/
  holders : BitVec 16
  /-- Coordinates x0 to x3; 0 beyond the dimensions present. -/
  x : List Nat
  data : Word
  dirty : Bool
  /-- The error class held with the data, and the address that a trap for it records (R105, R130). -/
  cls : Nat
  errAt : Nat
  /-- Its data is to be read from memory again (R365). -/
  stale : Bool
  arrival : Arrival
  /-- The translation of its fetch; none for the aperture, and before the fetch is made. -/
  held : Option Held
deriving DecidableEq, Repr

/-- The lane block in progress (R39 to R42). -/
structure LaneBlock where
  fetchPc : Word
  endPc : Word
  vd : VReg
  va : VReg
  m : MReg
  /-- The element whose lane-thread runs. -/
  elem : Nat
  /-- The hart's own scalar registers. -/
  saved : Vector Word 32
deriving DecidableEq, Repr

/-- A byte of memory that instruction fetch of a hart still reads as `old`, and the newer value that the hart has stored or
read (R201). -/
structure ViewByte where
  key : Nat
  old : Byte
  seen : Option Byte
deriving DecidableEq, Repr

/-- A hart: a context of a core with its registers (R51, R60 to R63, R67), or a management core (R373, R429). -/
structure Hart where
  id : HartId
  /-- The gang, and the index within it that the launch gave (R51, R422). -/
  gang : Option Nat
  index : Nat
  parent : Option HartId
  child : Option HartId
  /-- Forks between the launched hart and this one: 0, 1 or 2 (R441). -/
  depth : Nat
  wait : Wait
  frozen : Bool
  prv : Level
  part : Fin 8
  skew : Bool
  pc : Word
  /-- The word being executed (recorded as TDETA, R374). -/
  ir : BitVec 32
  s : Vector Word 32
  a : Vector Word 16
  c : Vector (BitVec 32) 8
  v : Vector (BitVec 16384) 32
  tag : Vector Word 32
  m : Vector (BitVec 16384) 16
  t : Vector Tile 4
  /-- Granted tile names and the physical tile of each (R54). -/
  tiles : Nat
  tileMap : Vector (Fin 4) 4
  k : Vector KReg 16
  win : List WinElem
  f : Vector (BitVec 32) 8
  h : Vector Word 4
  gl : BitVec 15
  erix : BitVec 14
  fcs : BitVec 11
  gseedLo : Word
  gseedHi : Word
  pfxs : BitVec 16
  /-- The grant in force, the grant before LFORK (R44), the pending grant of this hart, and the lane base (R440). -/
  grant : Grant
  forkGrant : Grant
  pending : Option Grant
  laneBase : Nat
  sset : TrapSet
  mset : TrapSet
  frzst : Word
  frzadr : Word
  linkGen : Nat
  unacked : Vector Nat 16
  lane : Option LaneBlock
  credit : Int
  view : List ViewByte
  /-- An instruction that pre-emption may not divide is partly performed at a lessor (R151, R261). -/
  undivided : Bool
deriving DecidableEq, Repr

/-- A gang (R32) with its barrier register (R63), grants and phase counts (R36), and what its record and queue gave it. -/
structure Gang where
  id : Nat
  /-- Ring index of its record (R337). -/
  ring : Word
  size : Nat
  arr : Nat
  gen : BitVec 32
  ended : Nat
  queue : BitVec 16
  cls : BitVec 2
  prio : Nat
  sig : Word
  part : Fin 8
  /-- The grant that the record requests, the grant in force and the pending grant. -/
  request : Grant
  grant : Grant
  pending : Option Grant
  spad : Nat
  burl : Nat
  tiles : Nat
  sent : Word
  received : Word
  /-- PHEND mode and sweep limit captured by the first arrival of the phase (R329). -/
  phase : Option (Bool × Nat)
  sweeps : Nat
  /-- Place in the order of placements; epoch in which the slice began. -/
  placed : Nat
  slice : Nat
  /-- The kill that its next boundary obeys, for a gang that is away (R336). -/
  killed : Bool
  /-- The context slot of its save, once a pre-emption of it has begun: its harts have stopped issuing (R384). -/
  leaving : Option Nat
deriving DecidableEq, Repr

/-- A claimed Burl region (R298 to R301) of a core: place, name, configuration, registers and slots. -/
structure Region where
  core : Nat
  gang : Nat
  off : Nat
  log2 : Nat
  /-- The name of a shared region. -/
  name : Option Nat
  spb : Nat
  scap : Nat
  scnt : Nat
  kfmt : Nat
  vfmt : Nat
  sstr : Nat
  /-- One overflow bit a group. -/
  ovf : BitVec 4096
  /-- The entry of each bucket: key and value encodings. -/
  slots : Sparse (Option (Nat × Nat))
  /-- Handles that are attached. -/
  refs : Nat
deriving DecidableEq, Repr

/-- A decoded value: |v| = m × 2^e. -/
inductive Val where
  | nan (signalling : Bool)
  | inf (neg : Bool)
  | fin (neg : Bool) (m : Nat) (e : Int)
deriving DecidableEq, Repr

/-- What TMVR and TMVC capture of how their results are written (R77, R280, R289): FCS.RM, the tag of the destination and the
f-registers. -/
structure Moved where
  rm : Nat
  tag : Word
  f : Vector (BitVec 32) 8
deriving DecidableEq, Repr

/-- What a posted matrix instruction does when its entry completes (R280, R284 to R290). -/
inductive MxOp where
  /-- MOP, MOPN and MOPK: the products subtracted or added, the row sums, the columns, and whether metadata was damaged. -/
  | mop (negate : Bool) (a : List (Nat × Val)) (b : List (Nat × Val)) (damaged : Bool)
  | zero
  /-- TMRV and TMCV: a row, or else a column, its number, and the values by element. -/
  | fill (row : Bool) (index : Nat) (vals : List (Nat × Val))
  | seal
  /-- TMVR and TMVC: the vector group, the row or column number, the active elements, and the prefix in force. -/
  | move (row : Bool) (va : VReg) (index : Nat) (es : List Nat) (pfxs : BitVec 16) (round : Moved)
  /-- TCHK: the mask and the threshold. -/
  | check (ma : MReg) (threshold : Nat)
deriving DecidableEq, Repr

/-- A matrix-queue entry with its captured operands (R280) and the flags found while they were captured. -/
structure MxEntry where
  hart : HartId
  td : TReg
  op : MxOp
  flags : Nat
deriving DecidableEq, Repr

/-- The error classes that an engine has met for a command: the highest, and the sectors of class 2 or above (R272). -/
structure Met where
  worst : Nat := 0
  bad : List Nat := []
deriving DecidableEq, Repr

/-- A link tag (R148). -/
structure Link where
  line : Nat
  /-- The virtual address through which it was set. -/
  va : Nat
  hart : HartId
  gen : Nat
  stamp : Nat
deriving DecidableEq, Repr

/-- What the hardware keeps with a sector beside its data bits (R389): the layout tag and the damage done to the stored bits
since they were written. -/
structure Sector where
  /-- The layout of the last store of the whole sector. -/
  tag : Option (BitVec 4)
  data : BitVec 512
  check : BitVec 64
  /-- The flips of the tag's three copies. -/
  copies : BitVec 12
deriving DecidableEq, Repr

/-- A queue's registers and window (R340, R346). -/
structure Queue where
  q : BitVec 16
  qd0 : Word
  qd1 : Word
  qd2 : Word
  window : BitVec 256
  head : Word
  highest : Option Word
  slot : Option Nat
  /-- The epoch in which it last became ready or had a record taken, and how far into the epoch (R350); the epoch in which it was mapped;
  whether a record was taken this epoch. -/
  since : Nat
  offset : Nat
  mapped : Nat
  taken : Bool
deriving DecidableEq, Repr

/-- A record at HEAD whose waits are met (R345), waiting for a place. -/
structure Eligible where
  queue : BitVec 16
  index : Word
  record : List Word
deriving DecidableEq, Repr

/-- What a scheduler has left to do because a page of it is under migration, or waits for the host or a lessor (R369, R371, R416). -/
inductive Due where
  /-- A store of a word. -/
  | store (part : Nat) (va : Nat) (x : Word)
  /-- The killed signal of a discarded record, whose words are still to be read (R347). -/
  | drop (part : Fin 8) (va : Nat)
deriving DecidableEq, Repr

/-- A request sent to a lessor (R371): who asks (a hart, an engine of a hart, or another master), its stream, the address in the lease
window, bytes and operation; the MID that it carries, the lessor's device and the address in its memory, as the lease stood. -/
structure Sent where
  id : Nat
  stream : Nat
  pa : Nat
  n : Nat
  op : PeerOp
  mid : Nat
  peer : Nat
  addr : Nat
  /-- The physical lanes of the scatter elements that it stores (R35). -/
  lanes : List Nat := []
  /-- The queue and ring index that a refused signal reports (R344). -/
  report : Option (BitVec 16 × Word) := none
deriving DecidableEq, Repr

/-- A posted Mandrel command (R269 to R272): its issuer with its gang and index, its block as captured, its active elements, and how far
it has come. -/
structure NmcCommand where
  hart : HartId
  gang : Option Nat
  index : Nat
  /-- Whether a forked hart posted it. -/
  forked : Bool
  part : Fin 8
  atLevel : Level
  stream : Stream
  opc : Nat
  /-- FMT with the f-registers as they stood at issue. -/
  code : Nat
  f : Vector (BitVec 32) 8
  rm : Nat
  alpha : BitVec 32
  beta : BitVec 32
  base : Nat
  yaddr : Nat
  status : Nat
  elems : List Nat
  gl : Nat
  /-- The elements, or sectors of SCRUB, that it has passed, the lowest element not performed, the flags raised, the errors met, and the
  bits of SCRUB's map. -/
  pos : Nat
  first : Option Nat
  flags : Nat
  met : Met
  bits : Nat
  /-- Its stores that lessors have yet to answer, each with the elements that it stores. -/
  out : List (Sent × List Nat)
deriving DecidableEq, Repr

/-- A gang that is away (R356): its registers are in the context slot in memory; what the hardware keeps beside it. -/
structure Saved where
  gang : Gang
  slot : Nat
  harts : List Hart
  regions : List Region
  prio : Nat
  since : Nat
  /-- Requests to lessors that were out when it left (R384). -/
  sent : List Sent
deriving DecidableEq, Repr

/-- A signal of a completion counter that waits for its page (R344, R369). -/
structure Signal where
  part : Fin 8
  addr : Nat
  killed : Bool
  /-- The queue and ring index that a failure reports. -/
  report : Option (BitVec 16 × Word)
deriving DecidableEq, Repr

/-- An error record (R409, R410). -/
structure ErrRecord where
  mid : Nat
  src : Nat
  layout : Nat
  cls : Nat
  unit : Nat
  rep : Nat
  loc : Nat
deriving DecidableEq, Repr

/-- A page move in progress (R368); without leaves while its walk has yet to end. -/
structure Migration where
  va : Nat
  size : Nat
  oldPa : Nat
  newPa : Nat
  leaves : List Nat
  leaf : Word
deriving DecidableEq, Repr

/-- The registers of one partition. -/
structure Partition where
  part : Word
  phctl : Word
  ptroot : Word
  scout : Word
  /-- INVA writes not yet complete, oldest first (R364). -/
  inva : List Word
  mva : Word
  mdst : Word
  mresult : BitVec 3
  npois : BitVec 32
  migration : Option Migration
  errors : List ErrRecord
  errcnt : Word
  errctl : Word
  patcfg : Word
  patstat : Word
  psel : Word
  frozenEngines : List Nat
  pbud : Word
  throttled : Bool
  average : BitVec 16
  tmax : Word
  energy : Word
  bgceil : Word
  telen : Word
  sch : Word
  ctxp : Word
  ctxn : Word
  usedSlots : List Nat
  /-- Host pages translated by the ATS cache: host page and translated page. -/
  ats : Sparse Nat
  /-- Host pages whose translation was asked for, and the page request outstanding (R416). -/
  atsAsked : List Nat
  pageRequest : Option Nat
  /-- Host pages whose access the host has refused; the probe that meets one faults (R416). -/
  refused : List Nat
deriving DecidableEq, Repr

/-- A partition's registers at reset. -/
def Partition.reset : Partition where
  part := 0
  phctl := 0x10#64
  ptroot := 0
  scout := 16#64
  inva := []
  mva := 0
  mdst := 0
  mresult := 0
  npois := 0
  migration := none
  errors := []
  errcnt := 0
  errctl := 0x1000#64
  patcfg := 0x8000000000015180#64
  patstat := 0
  psel := 0
  frozenEngines := []
  pbud := 0
  throttled := false
  average := 0
  tmax := 0
  energy := 0
  bgceil := 20#64
  telen := 1#64
  sch := 100#64
  ctxp := 0
  ctxn := 0
  usedSlots := []
  ats := []
  atsAsked := []
  pageRequest := none
  refused := []

/-- A certificate: a public key, x and then y, and the signature of its certifier (R434). -/
structure Cert where
  key : BitVec 512
  sig : BitVec 512
deriving DecidableEq, Repr

/-- What a device step answers to the party that asked. -/
inductive Reply where
  | value (w : Word)
  | done
  | dropped
  | unsupportedRequest
  | completerAbort
  | errorResponse
  | sector (cls : Nat) (data : BitVec 512)
  | outcome (w : Word)
  /-- A signed response, with the certificate chain of the key that signed it (R435). -/
  | signed (bytes : List (BitVec 8)) (chain : List Cert)
deriving DecidableEq, Repr

/-- The hart that posted the work of an engine: by its identity at the post, its gang, its index in it, and whether it was forked. -/
structure Poster where
  id : HartId
  gang : Option Nat
  index : Nat
  forked : Bool := false
deriving DecidableEq, Repr

/-- One joined rank of a collective instance (R278, R424). -/
structure Join where
  rank : Nat
  /-- The hart that posted it; none for a rank of another device. -/
  hart : Option Poster
  part : Fin 8
  atLevel : Level
  stream : Stream
  block : BitVec 256
  base : Nat
  /-- Bytes of the buffer. -/
  bytes : Nat
  status : Nat
  /-- The buffer of a rank of another device, its bytes as one number. -/
  data : Nat
deriving DecidableEq, Repr

/-- What a rank of this device has come to (R272, R279): the elements left out, the flags, the errors met, and the stores of its result
that lessors have yet to answer, each with its elements. -/
structure RankEnd where
  join : Join
  bad : List Nat
  flags : Nat
  met : Met
  out : List (Sent × List Nat)
deriving DecidableEq, Repr

/-- An instance of a collective group (R424). A join of a rank of this device keeps its poster until its status word is written. -/
structure Instance where
  group : Nat
  k : Nat
  joins : List Join
  timedOut : Bool
  /-- The ranks of the group when it began. -/
  ranks : Nat
  /-- Whether V of its group has been cleared since (R426). -/
  closed : Bool := false
  /-- Its results, once they are on their way. -/
  ends : Option (List RankEnd) := none
deriving DecidableEq, Repr

/-- An invalidation that another party has begun and that is not yet complete (R372, R415). -/
inductive OutsideInva where
  | ats (part : Nat) (addr : Nat) (sz : Nat)
  | lease (window : Nat)
deriving DecidableEq, Repr

/-- The link block (R413 to R422). -/
structure LinkBlock where
  fnctl : Sparse Word
  /-- Requests of a function that have not completed: function, offset, size, data. -/
  outstanding : List (Nat × Word × Size × Option Word)
  atsEnabled : List Nat
  priEnabled : List Nat
  domctl : Word
  lrevoke : Word
  lrvst : Word
  leases : Sparse Word
  peerst : Sparse Word
  ports : BitVec 16
  groups : Sparse Word
  posts : Sparse Nat
  instances : List Instance
  /-- Requests sent to lessors and not yet answered, oldest first (R371). -/
  sent : List Sent
  inva : List OutsideInva
deriving DecidableEq, Repr

/-- One entry of the measurement log (R432). -/
structure LogEntry where
  stage : BitVec 8
  version : Word
  digest : BitVec 256
deriving DecidableEq, Repr

/-- An SPDM session and the IDE stream it keys (R435). -/
structure Session where
  id : BitVec 32
  stream : Fin 9
  key : BitVec 256
deriving DecidableEq, Repr

/-- A request of the DOE mailbox that waits for the end of boot (R435). -/
inductive SpdmRequest where
  | challenge (nonce : BitVec 256)
  | measurements (index : BitVec 8) (nonce : BitVec 256)
  | keyExchange (session : BitVec 32) (stream : Fin 9) (peerKey : BitVec 512)
deriving DecidableEq, Repr

/-- Boot progress (R431). -/
inductive BootPhase where
  | pending
  | running
  | recovery
deriving DecidableEq, Repr

/-- The security and power block (R431 to R436). -/
structure Security where
  boot : BootPhase
  mr : Vector (BitVec 256) 3
  log : List LogEntry
  bootst : Word
  mcap : Word
  slotA : Option Config.Image
  slotB : Option Config.Image
  secretHidden : Bool
  identityKey : BitVec 256
  aliasKey : BitVec 256
  /-- The signature of the alias key's certificate by the identity key (R434). -/
  aliasCert : BitVec 512
  sessions : List Session
  asked : List SpdmRequest
  /-- Power samples above a limit and below every limit, in a row (R436). -/
  above : Nat
  below : Nat
  /-- Samples to come before a limit pre-empts again (R436). -/
  cut : Nat
deriving DecidableEq, Repr

/-- The units beside the memory arrays: poison records, quarantine, patrol, refresh (R395 to R408). -/
structure Memctl where
  /-- 512 entries a unit: sector address + 1; key 512 × unit + index. -/
  poison : Sparse Nat
  /-- 64 entries a unit: frame address and bitmap; key 64 × unit + index. -/
  quarantine : Sparse (Nat × BitVec 64)
  patrol : Sparse Nat
  /-- The 16-bit activation counters of rows, those whose parity fails, and the threshold of root firmware (R405). Which row an access
  activates is nowhere given, and the refreshes change timing only: no step counts one (assumption 81). -/
  rowCount : Sparse (BitVec 16)
  rowParityBad : Sparse Bool
  rowThreshold : BitVec 16
  fallback : BitVec 8
deriving DecidableEq, Repr

/-- A request that a target performed (R403, R404). -/
structure Performed where
  target : Nat
  tag : BitVec 32
  outcome : Word
deriving DecidableEq, Repr

/-- A mismatch of the Skew pass to come (R400): an upset of a lane while an element group runs. -/
structure Upset where
  hart : HartId
  group : Nat
  /-- Whether run C settles the vote; the physical lane whose run lost. -/
  settled : Bool
  lane : Fin 16
deriving DecidableEq, Repr

/-- The state of the device. -/
structure State where
  /-- The hart that issues, and every other hart of the device. -/
  cur : Hart
  others : List Hart
  gangs : List Gang
  mem : Memory
  sectors : Sparse Sector
  /-- Bit flips of scratchpad codewords, and of the parity rows, by core × 393216 + word (R120, R398). -/
  spadFlips : Sparse (BitVec 39)
  parityFlips : Sparse (BitVec 39)
  rebuilding : List (Nat × Nat)
  tables : Sparse Word
  links : List Link
  regions : List Region
  mxq : List MxEntry
  laneCount : Sparse Nat
  nmcq : List NmcCommand
  memctl : Memctl
  parts : Vector Partition 8
  queues : List Queue
  eligible : List Eligible
  saved : List Saved
  /-- The registers of contexts that have held a hart and hold none now (R327). -/
  past : List Hart
  signals : List Signal
  /-- Indices written to doorbell pages that the doorbell unit has yet to take (R340). -/
  rings : List (BitVec 16 × Word)
  link : LinkBlock
  sec : Security
  seqCount : Sparse Nat
  performed : List Performed
  /-- Answers of lessors that the instruction or command that asked has yet to use. -/
  peerData : List (Sent × PeerAnswer)
  /-- Scratchpad bytes whose contents a released window or region has left unspecified: core, offset, length. -/
  lost : List (Nat × Nat × Nat)
  reply : Option Reply
  /-- Epochs of 20 µs that have ended (R348), and the step at which the last one ended. -/
  epochs : Nat
  epochStep : Nat
  placements : Nat
  /-- The device steps that come next; upsets to come. -/
  agenda : List Instr
  upsets : List Upset
  /-- Asynchronous stops to come (R126): a hart, and the element boundary at which its instruction stops. -/
  stops : List (HartId × Nat)
  /-- What the schedulers have left to do, oldest first. -/
  due : List Due
  /-- The step at which the cores were reset (R64). -/
  resetStep : Nat
  /-- Counts that number the free values and the steps. -/
  free : Nat
  steps : Nat
deriving DecidableEq, Repr

/-- Why the machine stops. -/
inductive Fault where
  /-- An access to a physical address that no unit answers (raised by every memory access; safe: the machine stops where the
  specification gives nothing). -/
  | unbackedAddress
deriving DecidableEq, Repr

/-- Why a step has no meaning. -/
inductive Refusal where
  /-- The instruction has no meaning in the model yet (raised by exec's arms; safe). -/
  | notModelled (mnemonic : String)
deriving DecidableEq, Repr

/-- A context that holds no hart; also the state of a management core at reset but for its identity and `wait`. -/
def Hart.vacant (id : HartId) : Hart where
  id := id
  gang := none
  index := 0
  parent := none
  child := none
  depth := 0
  wait := .vacant
  frozen := false
  prv := .u
  part := 0
  skew := false
  pc := 0
  ir := 0
  s := Vector.replicate 32 0
  a := Vector.replicate 16 0
  c := Vector.replicate 8 0
  v := Vector.replicate 32 0
  tag := Vector.replicate 32 0
  m := Vector.replicate 16 0
  t := Vector.replicate 4 Tile.zero
  tiles := 0
  tileMap := Vector.replicate 4 0
  k := Vector.replicate 16 KReg.launch
  win := []
  f := Vector.replicate 8 0
  h := Vector.replicate 4 0
  gl := 0
  erix := 0
  fcs := 0
  gseedLo := 0
  gseedHi := 0
  pfxs := 0
  grant := ⟨16, 8⟩
  forkGrant := ⟨16, 8⟩
  pending := none
  laneBase := 0
  sset := TrapSet.launch
  mset := TrapSet.launch
  frzst := 0
  frzadr := 0
  linkGen := 0
  unacked := Vector.replicate 16 0
  lane := none
  credit := 0
  view := []
  undivided := false

/-- A management core at reset: held, with the partition that bears its number (R429, R431). -/
def Hart.management (m : Fin 8) : Hart := { Hart.vacant (0x8000 + m.val) with wait := .held, part := m }

/-- The link block at reset: function 0 valid (R417), every port up. -/
def LinkBlock.reset : LinkBlock where
  fnctl := [(0, 0x8000000000000000#64)]
  outstanding := []
  atsEnabled := (List.range 65).filter (Config.hostEnables false)
  priEnabled := (List.range 65).filter (Config.hostEnables true)
  domctl := 0
  lrevoke := 0
  lrvst := 0
  leases := []
  peerst := []
  ports := 0xFFFF#16
  groups := []
  posts := []
  instances := []
  sent := []
  inva := []

/-- The security and power block at reset: the flash keeps its slots (R431, R433). -/
def Security.reset (slotA slotB : Option Config.Image) : Security where
  boot := .pending
  mr := Vector.replicate 3 0
  log := []
  bootst := 0
  mcap := 2200
  slotA := slotA
  slotB := slotB
  secretHidden := false
  identityKey := 0
  aliasKey := 0
  aliasCert := 0
  sessions := []
  asked := []
  above := 0
  below := 0
  cut := 0

/-- Poison records and quarantine tables empty (R439). -/
def Memctl.reset : Memctl := ⟨[], [], [], [], [], 0, 0⟩

/-- The entry that each system block's access table holds at reset (R430). -/
def systemEntry : Word := 0x8E00E00000008000#64

/-- The device right after a power-on reset (R427, R439), before its boot sequence. -/
def State.reset : State where
  cur := Hart.vacant 0
  others := (List.finRange 8).map Hart.management
  gangs := []
  mem := []
  sectors := []
  spadFlips := []
  parityFlips := []
  rebuilding := []
  tables := (List.range 4).map fun i => ((1700 + i) * 16, systemEntry)
  links := []
  regions := []
  mxq := []
  laneCount := []
  nmcq := []
  memctl := Memctl.reset
  parts := Vector.replicate 8 Partition.reset
  queues := []
  eligible := []
  saved := []
  past := []
  signals := []
  rings := []
  link := LinkBlock.reset
  sec := Security.reset (Config.flash false) (Config.flash true)
  seqCount := []
  performed := []
  peerData := []
  lost := (List.range 384).map fun c => (c, 0, 0x180000)
  reply := none
  epochs := 0
  epochStep := 0
  placements := 0
  agenda := []
  upsets := []
  stops := []
  due := []
  resetStep := 0
  free := 0
  steps := 0

end Sys2Proof.Machine
end

