-- ==== Sys2Proof/Machine/Bits.lean ====
section
/-! DEFINITION. Bit fields, sign extension, byte order (R7) and the sparse tables that hold memory and the seldom-written
registers. -/

namespace Sys2Proof.Machine

/-- Bits [hi:lo] of a number. -/
def fld (x hi lo : Nat) : Nat := x / 2 ^ lo % 2 ^ (hi + 1 - lo)

/-- Bit i of a number. -/
def bitOf (x i : Nat) : Bool := x / 2 ^ i % 2 == 1

/-- x with bits [hi:lo] replaced by v. -/
def putFld (x hi lo v : Nat) : Nat :=
  x - fld x hi lo * 2 ^ lo + v % 2 ^ (hi + 1 - lo) * 2 ^ lo

/-- A number read as a two's complement value of w bits. -/
def sext (w x : Nat) : Int :=
  let y := x % 2 ^ w
  if 2 * y < 2 ^ w then (y : Int) else (y : Int) - 2 ^ w

/-- An integer as w bits. -/
def wrap (w : Nat) (x : Int) : Nat := (x % 2 ^ w).toNat

/-- ⌈a / b⌉. -/
def ceilDiv (a b : Nat) : Nat := (a + b - 1) / b

/-- Number of one bits among the w low bits. -/
def popcount : Nat → Nat → Nat
  | 0, _ => 0
  | w + 1, x => x % 2 + popcount w (x / 2)

/-- Position of the highest one bit plus one, among the w low bits. -/
def bitLength : Nat → Nat → Nat
  | 0, _ => 0
  | w + 1, x => if x == 0 then 0 else 1 + bitLength w (x / 2)

/-- Number of trailing zero bits; w for zero. -/
def trailingZeros : Nat → Nat → Nat
  | 0, _ => 0
  | w + 1, x => if x % 2 == 1 then 0 else 1 + trailingZeros w (x / 2)

/-- f at each of the indices 0 to n − 1, folded over an accumulator in ascending order. -/
def foldUpTo {α : Type} (f : α → Nat → α) (a : α) : Nat → α
  | 0 => a
  | n + 1 => f (foldUpTo f a n) n

/-- The list of the numbers lo to lo + n − 1. -/
def rangeFrom (lo n : Nat) : List Nat := List.range' lo n

/-- The first number below n that satisfies p. -/
def firstBelow (p : Nat → Bool) (n : Nat) : Option Nat := (List.range n).find? p

namespace Sparse

variable {α : Type}

/-- The entry at a key, or the default. -/
def get (d : α) : Sparse α → Nat → α
  | [], _ => d
  | (k, v) :: t, i => if i = k then v else if i < k then d else get d t i

/-- The table with an entry put at a key, which keeps the canonical form. -/
def set [DecidableEq α] (d : α) : Sparse α → Nat → α → Sparse α
  | [], i, x => if x = d then [] else [(i, x)]
  | (k, v) :: t, i, x =>
    if i = k then (if x = d then t else (k, x) :: t)
    else if i < k then (if x = d then (k, v) :: t else (i, x) :: (k, v) :: t)
    else (k, v) :: set d t i x

/-- The canonical form: keys strictly rising, above `lo`, and no entry equal to the default. -/
def wfFrom [DecidableEq α] (d : α) : Nat → Sparse α → Bool
  | _, [] => true
  | lo, (k, v) :: t => decide (lo ≤ k) && !decide (v = d) && wfFrom d (k + 1) t

/-- The canonical form. -/
def wf [DecidableEq α] (d : α) (t : Sparse α) : Bool := wfFrom d 0 t

end Sparse

namespace Memory

/-- What an unlisted byte reads as (assumption 1). -/
def blank : Byte := 0

/-- One byte. -/
def read (m : Memory) (key : Nat) : Byte := Sparse.get blank m key

/-- One byte written. -/
def write (m : Memory) (key : Nat) (b : Byte) : Memory := Sparse.set blank m key b

/-- The canonical form of a memory. -/
def wf (m : Memory) : Bool := Sparse.wf blank m

/-- n bytes from a key up as a little-endian number (R7). -/
def readN (m : Memory) (key : Nat) : Nat → Nat
  | 0 => 0
  | n + 1 => (read m key).toNat + 256 * readN m (key + 1) n

/-- n bytes from a key up written from a little-endian number. -/
def writeN (m : Memory) (key : Nat) : Nat → Nat → Memory
  | 0, _ => m
  | n + 1, x => writeN (write m key (BitVec.ofNat 8 x)) (key + 1) n (x / 256)

/-- The bytes of a number whose enable bit is set, written from a key up. -/
def writeMasked (m : Memory) (key : Nat) : Nat → Nat → Nat → Memory
  | 0, _, _ => m
  | n + 1, x, en =>
    writeMasked (if en % 2 == 1 then write m key (BitVec.ofNat 8 x) else m) (key + 1) n (x / 256) (en / 2)

end Memory

/-- Key of scratchpad byte `off` of a core: beyond every physical address (R117). -/
def spadKey (core off : Nat) : Nat := 2 ^ 52 + core * 0x200000 + off

end Sys2Proof.Machine
end

