-- ==== Sys2Proof/Machine/Float.lean ====
section
/-! DEFINITION. Number formats (R57, R59, R68 to R75), exact values, the one rounding step (R78 to R80, R82), the generator behind
stochastic rounding (R81), and exact arithmetic on decoded values. -/

namespace Sys2Proof.Machine

/-! ### Formats -/

/-- A floating format: the fields of R70 and R72, the special-value policy of R73, flushing (R74), and whether a NaN can be
signalling (R71, R73). -/
structure FloatFmt where
  signed : Bool
  expW : Nat
  manW : Nat
  bias : Int
  spec : Nat
  flush : Bool
  ieee : Bool
deriving DecidableEq, Repr

/-- An element format (R57). -/
inductive Fmt where
  | uint (w : Nat)
  | sint (w : Nat)
  | float (f : FloatFmt)
  | e8
deriving DecidableEq, Repr

/-- The IEEE formats (R70). -/
def fp16 : FloatFmt := ⟨true, 5, 10, 15, 0, false, true⟩
def bf16 : FloatFmt := ⟨true, 8, 7, 127, 0, false, true⟩
def fp32 : FloatFmt := ⟨true, 8, 23, 127, 0, false, true⟩
def fp64 : FloatFmt := ⟨true, 11, 52, 1023, 0, false, true⟩

/-- Total width of a floating format. -/
def FloatFmt.width (f : FloatFmt) : Nat := (if f.signed then 1 else 0) + f.expW + f.manW

/-- Element width w in bits (R57). -/
def Fmt.width : Fmt → Nat
  | .uint w => w
  | .sint w => w
  | .float f => f.width
  | .e8 => 8

/-- The format of a narrow descriptor; none when it is invalid (R59). -/
def narrowFmt (d : BitVec 32) : Option FloatFmt :=
  let x := d.toNat
  let width := fld x 3 0
  let expW := fld x 7 4
  let s := fld x 8 8
  let spec := fld x 17 16
  if width < 2 || 8 < width || width < s + expW || spec == 3 || (spec == 0 && expW < 2) then none
  else some ⟨s == 1, expW, width - s - expW, sext 8 (fld x 31 24), spec, bitOf x 18, false⟩

/-- The format of an FMT code under the f-registers; none for NONE, a reserved code or an invalid descriptor (R57, R58). -/
def fmtOf (f : Vector (BitVec 32) 8) (code : Nat) : Option Fmt :=
  match code with
  | 0x01 => some (.uint 2)
  | 0x02 => some (.sint 2)
  | 0x03 => some (.uint 4)
  | 0x04 => some (.sint 4)
  | 0x05 => some (.uint 8)
  | 0x06 => some (.sint 8)
  | 0x07 => some (.uint 16)
  | 0x08 => some (.sint 16)
  | 0x09 => some (.uint 32)
  | 0x0A => some (.sint 32)
  | 0x0B => some (.uint 64)
  | 0x0C => some (.sint 64)
  | 0x0D => some (.float fp16)
  | 0x0E => some (.float bf16)
  | 0x0F => some (.float fp32)
  | 0x10 => some (.float fp64)
  | 0x11 => some .e8
  | c => if h : 0x18 ≤ c ∧ c < 0x20 then (narrowFmt (f[c - 0x18]'(by omega))).map .float else none

def Fmt.isInt : Fmt → Bool
  | .uint _ => true
  | .sint _ => true
  | _ => false

def Fmt.isFloat : Fmt → Bool
  | .float _ => true
  | .e8 => true
  | _ => false

def Fmt.isSigned : Fmt → Bool
  | .sint _ => true
  | .float f => f.signed
  | _ => false

/-- FP16, BF16, FP32 or FP64. -/
def Fmt.isIeee : Fmt → Bool
  | .float f => f.ieee
  | _ => false

/-! ### Values -/

/-- Flags of FCS by bit (R62). -/
def flNX : Nat := 1
def flUF : Nat := 2
def flOF : Nat := 4
def flDZ : Nat := 8
def flNV : Nat := 16
def flSAT : Nat := 32

/-- Exponent and mantissa fields all ones. -/
def FloatFmt.expOnes (f : FloatFmt) : Nat := 2 ^ f.expW - 1
def FloatFmt.manOnes (f : FloatFmt) : Nat := 2 ^ f.manW - 1

/-- The value of an encoding (R70 to R74). -/
def FloatFmt.decode (f : FloatFmt) (x : Nat) : Val :=
  let m := x % 2 ^ f.manW
  let e := x / 2 ^ f.manW % 2 ^ f.expW
  let neg := f.signed && x / 2 ^ (f.manW + f.expW) % 2 == 1
  if f.spec == 0 && e == f.expOnes then
    if m == 0 then .inf neg else .nan (f.ieee && m < 2 ^ (f.manW - 1))
  else if f.spec == 1 && e == f.expOnes && m == f.manOnes then .nan false
  else if f.expW == 0 then .fin neg m (-f.bias)
  else if e == 0 then
    if f.flush then .fin neg 0 0 else .fin neg m (1 - f.bias - f.manW)
  else .fin neg (2 ^ f.manW + m) (e - f.bias - f.manW)

/-- The value of an encoding in any format (R68, R75). -/
def Fmt.decode (f : Fmt) (x : Nat) : Val :=
  match f with
  | .uint w => .fin false (x % 2 ^ w) 0
  | .sint w => let v := sext w x; .fin (v < 0) v.natAbs 0
  | .float f => f.decode x
  | .e8 => if x % 256 == 255 then .nan false else .fin false 1 ((x % 256 : Nat) - 127)

/-- The exact product with a scale (R76): value and flags. -/
def scaleVal (v s : Val) : Val × Nat :=
  match v, s with
  | .nan sg, _ => (.nan false, if sg then flNV else 0)
  | _, .nan _ => (.nan false, 0)
  | .inf n, .inf k => (.inf (n != k), 0)
  | .inf n, .fin k m _ => if m == 0 then (.nan false, flNV) else (.inf (n != k), 0)
  | .fin n m _, .inf k => if m == 0 then (.nan false, flNV) else (.inf (n != k), 0)
  | .fin n m e, .fin k m' e' => (.fin (n != k) (m * m') (e + e'), 0)

/-- An exact result to round: |v| = m × 2^e, or between that and (m + 1) × 2^e when `sticky`. -/
structure Exact where
  neg : Bool
  m : Nat
  e : Int
  sticky : Bool := false
deriving DecidableEq, Repr

/-- The result of an operation before rounding. -/
inductive Res where
  | nan
  | inf (neg : Bool)
  | ex (x : Exact)
deriving DecidableEq, Repr

def Val.toRes : Val → Res
  | .nan _ => .nan
  | .inf n => .inf n
  | .fin n m e => .ex ⟨n, m, e, false⟩

/-- Number of bits of m: fuel is m itself halved. -/
def bitLen (m : Nat) : Nat := if m = 0 then 0 else Nat.log2 m + 1

/-! ### Rounding -/

/-- The largest finite magnitude n × 2^q (R70, R73). -/
def FloatFmt.largest (f : FloatFmt) : Nat × Int :=
  let top : Int := 2 ^ f.expW - f.bias - f.manW
  if f.expW == 0 then ((if f.spec == 1 then f.manOnes - 1 else f.manOnes), -f.bias)
  else if f.spec == 0 then (2 ^ (f.manW + 1) - 1, top - 2)
  else if f.spec == 1 then
    if f.manW == 0 then (if f.expW == 1 then (0, 0) else (1, top - 2))
    else (2 ^ (f.manW + 1) - 2, top - 1)
  else (2 ^ (f.manW + 1) - 1, top - 1)

/-- n × 2^q > n' × 2^q'. -/
def bigger (n : Nat) (q : Int) (n' : Nat) (q' : Int) : Bool :=
  if q ≤ q' then n' * 2 ^ (q' - q).toNat < n else n' < n * 2 ^ (q - q').toNat

/-- The encoding of a sign with exponent and mantissa fields. -/
def FloatFmt.pack (f : FloatFmt) (neg : Bool) (e m : Nat) : Nat :=
  (if f.signed && neg then 2 ^ (f.expW + f.manW) else 0) + e * 2 ^ f.manW + m

/-- The largest finite encoding of a sign. -/
def FloatFmt.largestCode (f : FloatFmt) (neg : Bool) : Nat :=
  if f.expW == 0 then f.pack neg 0 (if f.spec == 1 then f.manOnes - 1 else f.manOnes)
  else if f.spec == 0 then f.pack neg (f.expOnes - 1) f.manOnes
  else if f.spec == 1 then
    if f.manW == 0 then f.pack neg (f.expOnes - 1) 0 else f.pack neg f.expOnes (f.manOnes - 1)
  else f.pack neg f.expOnes f.manOnes

/-- A NaN written to a format (R71, R73): encoding and flags. -/
def FloatFmt.nanCode (f : FloatFmt) : Nat × Nat :=
  if f.spec == 0 then
    if f.manW == 0 then (f.pack false f.expOnes 0, flNV) else (f.pack false f.expOnes (2 ^ (f.manW - 1)), 0)
  else if f.spec == 1 then (f.pack false f.expOnes f.manOnes, 0)
  else (0, flNV)

/-- An infinity written to a format (R73, R79, R80). -/
def FloatFmt.infCode (f : FloatFmt) (neg : Bool) : Nat × Nat :=
  if neg && !f.signed then (0, flSAT + flNX)
  else if f.spec == 0 then (f.pack neg f.expOnes 0, 0)
  else (f.largestCode neg, flOF + flNX)

/-- Whether the magnitude goes to the farther neighbour (R78, R82): remainder `rem` of 2^shift below the kept part. -/
def roundsUp (mode : Nat) (neg odd sticky : Bool) (rem shift draw : Nat) : Bool :=
  let inexact := rem != 0 || sticky
  match mode with
  | 0 => 2 ^ shift < 2 * rem || (2 * rem == 2 ^ shift && (sticky || odd))
  | 1 => false
  | 2 => neg && inexact
  | 3 => !neg && inexact
  | 4 => 2 ^ shift ≤ 2 * rem
  | _ => draw < rem * 2 ^ 32 / 2 ^ shift

/-- The written value of an overflow (R79). -/
def FloatFmt.overflow (f : FloatFmt) (mode : Nat) (neg : Bool) : Nat :=
  if f.spec != 0 then f.largestCode neg
  else
    let toInf := match mode with
      | 1 => false
      | 2 => neg
      | 3 => !neg
      | _ => true
    if toInf then f.pack neg f.expOnes 0 else f.largestCode neg

/-- The single rounding of an exact value: encoding and flags (R78 to R80, R74, R82). `draw` holds draw[63:32]. -/
def FloatFmt.roundExact (f : FloatFmt) (mode draw : Nat) (x : Exact) : Nat × Nat :=
  if x.m == 0 && !x.sticky then (f.pack x.neg 0 0, 0)
  else if x.neg && !f.signed then (0, flSAT + flNX)
  else
    let eTop : Int := x.e + bitLen x.m - 1
    let q : Int := if f.expW == 0 then -f.bias else max eTop (1 - f.bias) - f.manW
    let shift := (q - x.e).toNat
    let n := if q ≤ x.e then x.m * 2 ^ (x.e - q).toNat else x.m / 2 ^ shift
    let rem := if q ≤ x.e then 0 else x.m % 2 ^ shift
    let inexact := rem != 0 || x.sticky
    let odd := if f.manW == 0 && n != 0 then (q + f.bias) % 2 != 0 else n % 2 == 1
    let n' := if roundsUp mode x.neg odd x.sticky rem shift draw then n + 1 else n
    let (lm, le) := f.largest
    if bigger n' q lm le then (f.overflow mode x.neg, flOF + flNX)
    else if f.expW == 0 then
      (f.pack x.neg 0 n', if inexact then flNX + (if n' == 0 then flUF else 0) else 0)
    else if n' < 2 ^ f.manW then
      if f.flush && n' != 0 then (f.pack x.neg 0 0, flUF + flNX)
      else (f.pack x.neg 0 n', if inexact then flUF + flNX else 0)
    else
      let (k, q') := if n' == 2 ^ (f.manW + 1) then (2 ^ f.manW, q + 1) else (n', q)
      (f.pack x.neg (q' + f.manW + f.bias).toNat (k - 2 ^ f.manW), if inexact then flNX else 0)

/-- A result written to a floating format. -/
def FloatFmt.round (f : FloatFmt) (mode draw : Nat) : Res → Nat × Nat
  | .nan => f.nanCode
  | .inf n => f.infCode n
  | .ex x => f.roundExact mode draw x

/-- The integer nearest an exact value under a mode. -/
def roundInt (mode draw : Nat) (x : Exact) : Int × Bool :=
  let shift := (-x.e).toNat
  let n := if 0 ≤ x.e then x.m * 2 ^ x.e.toNat else x.m / 2 ^ shift
  let rem := if 0 ≤ x.e then 0 else x.m % 2 ^ shift
  let n' := if roundsUp mode x.neg (n % 2 == 1) x.sticky rem shift draw then n + 1 else n
  ((if x.neg then -(n' : Int) else n'), rem != 0 || x.sticky)

/-- The range of an integer format (R68). -/
def intMin (signed : Bool) (w : Nat) : Int := if signed then -(2 ^ (w - 1)) else 0
def intMax (signed : Bool) (w : Nat) : Int := if signed then 2 ^ (w - 1) - 1 else 2 ^ w - 1

/-- An integer clamped to a range, and whether it was. -/
def clampInt (signed : Bool) (w : Nat) (x : Int) : Int × Bool :=
  if x < intMin signed w then (intMin signed w, true)
  else if intMax signed w < x then (intMax signed w, true)
  else (x, false)

/-- A floating or scaled value converted to an integer format (R69). -/
def roundToInt (signed : Bool) (w mode draw : Nat) : Res → Nat × Nat
  | .nan => (0, flNV)
  | .inf n => (wrap w (if n then intMin signed w else intMax signed w), flSAT + flNX)
  | .ex x =>
    let (i, inexact) := roundInt mode draw x
    let (c, sat) := clampInt signed w i
    (wrap w c, (if sat then flSAT else 0) + (if inexact || sat then flNX else 0))

/-! ### Exact arithmetic -/

def Val.isNan : Val → Bool
  | .nan _ => true
  | _ => false

/-- NV for a signalling operand (R71, R80). -/
def Val.sigFlag : Val → Nat
  | .nan true => flNV
  | _ => 0

/-- A signed integer of an exact sum as a result; an exact zero has the given sign. -/
def exactOf (v : Int) (e : Int) (zeroNeg : Bool) : Res :=
  if v == 0 then .ex ⟨zeroNeg, 0, 0, false⟩ else .ex ⟨v < 0, v.natAbs, e, false⟩

/-- The signed significand of a finite value at exponent e ≤ its own. -/
def signedAt (neg : Bool) (m : Nat) (e e' : Int) : Int :=
  let x : Int := m * 2 ^ (e - e').toNat
  if neg then -x else x

/-- x + y exactly: result and flags. -/
def addRes (mode : Nat) (x y : Val) : Res × Nat :=
  match x, y with
  | .nan a, .nan b => (.nan, if a || b then flNV else 0)
  | .nan a, _ => (.nan, if a then flNV else 0)
  | _, .nan b => (.nan, if b then flNV else 0)
  | .inf a, .inf b => if a == b then (.inf a, 0) else (.nan, flNV)
  | .inf a, _ => (.inf a, 0)
  | _, .inf b => (.inf b, 0)
  | .fin a m e, .fin b n k =>
    let l := min e k
    let zeroNeg := if m == 0 && n == 0 && a == b then a else mode == 2
    (exactOf (signedAt a m e l + signedAt b n k l) l zeroNeg, 0)

/-- −v. -/
def Val.neg : Val → Val
  | .nan s => .nan s
  | .inf n => .inf !n
  | .fin n m e => .fin (!n) m e

/-- x × y exactly, as a value: a product of finite values, infinities or NaNs. -/
def mulVal (x y : Val) : Val × Nat :=
  match x, y with
  | .nan a, .nan b => (.nan false, if a || b then flNV else 0)
  | .nan a, _ => (.nan false, if a then flNV else 0)
  | _, .nan b => (.nan false, if b then flNV else 0)
  | .inf a, .inf b => (.inf (a != b), 0)
  | .inf a, .fin b n _ => if n == 0 then (.nan false, flNV) else (.inf (a != b), 0)
  | .fin a m _, .inf b => if m == 0 then (.nan false, flNV) else (.inf (a != b), 0)
  | .fin a m e, .fin b n k => (.fin (a != b) (m * n) (e + k), 0)

/-- x × y. -/
def mulRes (x y : Val) : Res × Nat :=
  let (v, f) := mulVal x y
  (v.toRes, f)

/-- x × y + z with one rounding to come (R78). -/
def fmaRes (mode : Nat) (x y z : Val) : Res × Nat :=
  let (p, f) := mulVal x y
  let (r, g) := addRes mode p z
  (r, f ||| g)

/-- Bits of quotient and root beyond the operands: more than any format's significand and the 32 bits of a draw. -/
def guardBits : Nat := 160

/-- x / y. -/
def divRes (x y : Val) : Res × Nat :=
  match x, y with
  | .nan a, .nan b => (.nan, if a || b then flNV else 0)
  | .nan a, _ => (.nan, if a then flNV else 0)
  | _, .nan b => (.nan, if b then flNV else 0)
  | .inf _, .inf _ => (.nan, flNV)
  | .inf a, .fin b _ _ => (.inf (a != b), 0)
  | .fin a _ _, .inf b => (.ex ⟨a != b, 0, 0, false⟩, 0)
  | .fin a m e, .fin b n k =>
    if n == 0 then (if m == 0 then (.nan, flNV) else (.inf (a != b), flDZ))
    else if m == 0 then (.ex ⟨a != b, 0, 0, false⟩, 0)
    else
      let s := guardBits + bitLen n
      (.ex ⟨a != b, m * 2 ^ s / n, e - k - s, m * 2 ^ s % n != 0⟩, 0)

/-- ⌊√y⌋ from the bits below 2^i that are still to be decided. -/
def isqrtFrom (y : Nat) : Nat → Nat → Nat
  | 0, r => r
  | i + 1, r => isqrtFrom y i (if (r + 2 ^ i) * (r + 2 ^ i) ≤ y then r + 2 ^ i else r)

/-- ⌊√y⌋. -/
def isqrt (y : Nat) : Nat := isqrtFrom y (bitLen y / 2 + 1) 0

/-- √x. -/
def sqrtRes (x : Val) : Res × Nat :=
  match x with
  | .nan a => (.nan, if a then flNV else 0)
  | .inf n => if n then (.nan, flNV) else (.inf false, 0)
  | .fin n m e =>
    if m == 0 then (.ex ⟨n, 0, 0, false⟩, 0)
    else if n then (.nan, flNV)
    else
      let s := 2 * guardBits + (if e % 2 == 0 then 0 else 1)
      let y := m * 2 ^ s
      let r := isqrt y
      (.ex ⟨false, r, (e - s) / 2, r * r != y⟩, 0)

/-- x < y and x = y for values that are no NaN; −0 equals +0. -/
def Val.cmp (x y : Val) : Ordering :=
  match x, y with
  | .inf a, .inf b => if a == b then .eq else if a then .lt else .gt
  | .inf a, _ => if a then .lt else .gt
  | _, .inf b => if b then .gt else .lt
  | .fin a m e, .fin b n k =>
    let l := min e k
    compare (signedAt a m e l) (signedAt b n k l)
  | _, _ => .eq

/-- The minimum and maximum of IEEE 754-2019: a NaN operand gives NaN, −0 below +0 (R84). -/
def Val.isNeg : Val → Bool
  | .inf n => n
  | .fin n _ _ => n
  | .nan _ => false

def minVal (x y : Val) : Val × Nat :=
  if x.isNan || y.isNan then (.nan false, x.sigFlag ||| y.sigFlag)
  else match x.cmp y with
  | .lt => (x, 0)
  | .gt => (y, 0)
  | .eq => (if y.isNeg then y else x, 0)

def maxVal (x y : Val) : Val × Nat :=
  if x.isNan || y.isNan then (.nan false, x.sigFlag ||| y.sigFlag)
  else match x.cmp y with
  | .lt => (y, 0)
  | .gt => (x, 0)
  | .eq => (if y.isNeg then x else y, 0)

/-! ### The generator -/

/-- One draw (R81): new GSEED.LO, new GSEED.HI, and the draw. -/
def drawSeed (lo hi : BitVec 64) : BitVec 64 × BitVec 64 × BitVec 64 :=
  let y := if lo == 0 && hi == 0 then 1#64 else hi
  let x := lo ^^^ (lo <<< 23)
  let x := x ^^^ (x >>> 17)
  let x := x ^^^ y ^^^ (y >>> 26)
  (y, x, x + y)

end Sys2Proof.Machine
end

