-- ==== Sys2Proof/Machine/Sector.lean ====
section
/-! DEFINITION. What a memory controller does with a sector (R389 to R397), the error records (R409, R410), and the interrupts
that reach the management cores (R376). -/

namespace Sys2Proof.Machine

/-- What answers a physical address (R18, R328, R370, R415; the places of the tiers are assumption 7). -/
inductive Place where
  /-- Channel group 0 to 15, or 16 + LPDDR6 region. -/
  | dram (unit : Nat)
  /-- The host window: host address. -/
  | host (addr : Nat)
  /-- Lease window and offset within it. -/
  | lease (window off : Nat)
  /-- The doorbell page of a queue, and the offset within it (R340). -/
  | doorbell (queue off : Nat)
  | unbacked
deriving DecidableEq, Repr

/-- The unit at a physical address. -/
def placeOf (pa : Nat) : Place :=
  if pa < 2 ^ 39 then .dram (pa / 2 ^ 35)
  else if pa < 2 ^ 39 + 2 ^ 40 then .dram (16 + (pa - 2 ^ 39) / 2 ^ 37)
  else if pa < 2 ^ 49 then .unbacked
  else if pa < 2 ^ 49 + 2 ^ 28 then .doorbell ((pa - 2 ^ 49) / 4096) (pa % 4096)
  else if pa < 2 ^ 50 then .unbacked
  else if pa < 2 ^ 51 then .host (pa - 2 ^ 50)
  else if pa < 2 ^ 51 + 2 ^ 48 then .lease ((pa - 2 ^ 51) / 2 ^ 40) ((pa - 2 ^ 51) % 2 ^ 40)
  else .unbacked

/-- The poison record and quarantine table that serve a memory target: stack 0 to 7, or 8 + LPDDR6 region (R395). -/
def dieOf (unit : Nat) : Nat := if unit < 16 then unit / 2 else unit - 8

/-! ### Harts by identity -/

/-- The hart with an identity. -/
def State.hart? (s : State) (id : HartId) : Option Hart :=
  if s.cur.id = id then some s.cur else s.others.find? (fun h => h.id == id)

/-- The state with a hart changed. -/
def State.updHart (s : State) (id : HartId) (f : Hart → Hart) : State :=
  if s.cur.id = id then { s with cur := f s.cur }
  else { s with others := s.others.map fun h => if h.id == id then f h else h }

/-- The state with every hart changed. -/
def State.mapHarts (s : State) (f : Hart → Hart) : State :=
  { s with cur := f s.cur, others := s.others.map f }

/-- Every hart of the device. -/
def State.harts (s : State) : List Hart := s.cur :: s.others

/-- Identity of management core m (R330). -/
def mgmtId (m : Nat) : HartId := 0x8000 + m

/-- The core of a hart identity; 384 + m for management core m. -/
def coreOf (id : HartId) : Nat := if id < 1536 then id / 4 else 384 + (id - 0x8000)

/-- Whether an identity names a management core. -/
def isMgmt (id : HartId) : Bool := 0x8000 ≤ id

/-- The cluster of a hart identity (R12). -/
def clusterOf (id : HartId) : Nat := coreOf id / 96

/-! ### Partitions -/

/-- The state with a partition's registers changed. -/
def State.updPart (s : State) (p : Nat) (f : Partition → Partition) : State :=
  if h : p < 8 then { s with parts := s.parts.set p (f s.parts[p]) } else s

/-- A partition's registers. -/
def State.partAt (s : State) (p : Nat) : Partition := if h : p < 8 then s.parts[p] else Partition.reset

/-- Whether a partition holds a core, channel group or region (R328). -/
def Partition.holdsCore (p : Partition) (core : Nat) : Bool := bitOf p.part.toNat 63 && bitOf p.part.toNat (core / 48)
def Partition.holdsUnit (p : Partition) (unit : Nat) : Bool :=
  bitOf p.part.toNat 63 && (if unit < 16 then bitOf p.part.toNat (16 + unit) else bitOf p.part.toNat (32 + (unit - 16)))

/-- The partition that holds a memory target, or a core; none where no partition does. -/
def State.unitPart? (s : State) (unit : Nat) : Option Nat := firstBelow (fun p => (s.partAt p).holdsUnit unit) 8
def State.corePart? (s : State) (core : Nat) : Option Nat := firstBelow (fun p => (s.partAt p).holdsCore core) 8

/-- The partition whose registers report on a memory target, or on a core: partition 0 where no partition holds it (R409). -/
def State.partOfUnit (s : State) (unit : Nat) : Nat := (s.unitPart? unit).getD 0
def State.partOfCore (s : State) (core : Nat) : Nat := (s.corePart? core).getD 0

/-! ### Interrupts -/

/-- TSTATE with a bit of IPEND set or cleared (R373). -/
def TrapSet.ipend (t : TrapSet) (code : Nat) (on : Bool) : TrapSet :=
  { t with tstate := BitVec.ofNat 64 (putFld t.tstate.toNat (16 + code) (16 + code) (if on then 1 else 0)) }

/-- The interrupt made pending, or acknowledged, in the S set of partition p's management core, which is core p (assumption 8). -/
def State.signalS (s : State) (p code : Nat) (on : Bool) : State :=
  s.updHart (mgmtId p) fun h => { h with sset := h.sset.ipend code on }

/-- The interrupt of level M, taken by root firmware on management core 0. -/
def State.signalM (s : State) (code : Nat) (on : Bool) : State :=
  s.updHart (mgmtId 0) fun h => { h with mset := h.mset.ipend code on }

/-! ### Error records -/

/-- A saturating counter field one higher. -/
def bump (w hi lo : Nat) : Nat :=
  if fld w hi lo = 2 ^ (hi + 1 - lo) - 1 then w else w + 2 ^ lo

/-- A counter of ERRCNT one higher (R410). -/
def State.count (s : State) (p hi lo : Nat) : State :=
  s.updPart p fun q => { q with errcnt := BitVec.ofNat 64 (bump q.errcnt.toNat hi lo) }

/-- Whether two records merge (R409). -/
def ErrRecord.same (a b : ErrRecord) : Bool := a.src == b.src && a.loc == b.loc && a.cls == b.cls

/-- The queue with a record added: merged into the newest, appended, or dropped (R409). -/
def Partition.addError (q : Partition) (r : ErrRecord) : Partition :=
  match q.errors.getLast? with
  | some l =>
    if l.same r then { q with errors := q.errors.dropLast ++ [{ l with rep := min 65535 (l.rep + 1) }] }
    else if 64 ≤ q.errors.length then { q with errcnt := BitVec.ofNat 64 (bump q.errcnt.toNat 7 0) }
    else { q with errors := q.errors ++ [r] }
  | none => { q with errors := [r] }

/-- A record queued for a partition; interrupt code 2 is then pending (R409). -/
def State.report (s : State) (p : Nat) (r : ErrRecord) : State :=
  (s.updPart p fun q => q.addError r).signalS p 2 true

/-! ### Sector codes -/

/-- The layout tag and damage of a sector that carries none. -/
def Sector.clean : Sector := ⟨none, 0, 0, 0⟩

/-- The layout tag as its three copies read by bitwise majority (R389). -/
def Sector.layout? (x : Sector) : Option (BitVec 4) :=
  x.tag.map fun t =>
    let a := t ^^^ x.copies.extractLsb' 0 4
    let b := t ^^^ x.copies.extractLsb' 4 4
    let c := t ^^^ x.copies.extractLsb' 8 4
    (a &&& b) ||| (a &&& c) ||| (b &&& c)

/-- What the hardware keeps with the sector at an address. -/
def State.sectorAt (s : State) (pa : Nat) : Sector := Sparse.get Sector.clean s.sectors (pa / 64)

/-- The same, set. -/
def State.putSector (s : State) (pa : Nat) (x : Sector) : State :=
  { s with sectors := Sparse.set Sector.clean s.sectors (pa / 64) x }

/-- The tiers of a layout (R390): element width, lowest strong bit, lowest parity bit, check symbols, elements a parity group. -/
structure Tiers where
  width : Nat
  strongLo : Nat
  parityLo : Nat
  check : Nat
  perGroup : Nat
deriving DecidableEq, Repr

/-- The row of R390 for a layout code. -/
def tiersOf (layout : Nat) : Tiers :=
  match layout with
  | 1 => ⟨64, 40, 24, 7, 1⟩
  | 2 => ⟨32, 12, 0, 6, 1⟩
  | 3 => ⟨16, 4, 0, 4, 1⟩
  | 4 => ⟨16, 6, 0, 4, 1⟩
  | 5 => ⟨8, 3, 0, 4, 2⟩
  | 6 => ⟨8, 2, 0, 4, 2⟩
  | 7 => ⟨4, 1, 0, 4, 4⟩
  | _ => ⟨8, 0, 0, 8, 1⟩

/-- The 8-bit symbol of the strong tier that holds a data bit. -/
def Tiers.symbol? (t : Tiers) (i : Nat) : Option Nat :=
  let b := i % t.width
  if b < t.strongLo then none else some ((i / t.width * (t.width - t.strongLo) + (b - t.strongLo)) / 8)

/-- The parity group that holds a data bit. -/
def Tiers.group? (t : Tiers) (i : Nat) : Option Nat :=
  let b := i % t.width
  if t.strongLo ≤ b || b < t.parityLo then none else some (i / t.width / t.perGroup)

/-- The one bits of a number below 2^w. -/
def oneBits (w x : Nat) : List Nat := (List.range w).filter fun i => bitOf x i

/-- The damaged strong symbols: data symbols by number, check symbols as 64 and up. -/
def Tiers.damagedSymbols (t : Tiers) (data check : Nat) : List Nat :=
  ((oneBits 512 data).filterMap t.symbol? ++
    (oneBits 64 check).filterMap fun i => if i < 8 * t.check then some (64 + i / 8) else none).eraseDups

/-- The flips within each parity group, its parity bit included. -/
def Tiers.groupHits (t : Tiers) (data check : Nat) : List Nat :=
  (oneBits 512 data).filterMap t.group? ++
    (oneBits 64 check).filterMap fun i => if i < 8 * t.check then none else some (i - 8 * t.check)

/-- What a read of a sector's bits gives: class, data, and whether both came from a free value (damage beyond the promise of
R391). -/
structure Decoded where
  cls : Nat
  data : Nat
  free : Bool
deriving DecidableEq, Repr

/-- The mask of the data bits of some parity groups. -/
def Tiers.groupMask (t : Tiers) (groups : List Nat) : Nat :=
  (List.range 512).foldl (fun acc i =>
    match t.group? i with
    | some g => if groups.contains g then acc + 2 ^ i else acc
    | none => acc) 0

/-- The decoding of R391 for stored bits with no record entry and an agreeing tag. -/
def decodeBits (layout stored : Nat) (x : Sector) (draw : Nat) : Decoded :=
  let d := x.data.toNat
  let c := x.check.toNat
  if d == 0 && c == 0 then ⟨0, stored, false⟩
  else
    let t := tiersOf layout
    let symbols := t.damagedSymbols d c
    let hits := t.groupHits d c
    let odd := hits.eraseDups.filter fun g => (hits.count g) % 2 == 1
    let even := hits.eraseDups.filter fun g => (hits.count g) % 2 == 0
    let openBits := oneBits 512 d |>.filter fun i => (t.symbol? i).isNone && (t.group? i).isNone
    let data := openBits.foldl (fun acc i => acc ^^^ 2 ^ i) stored
    if t.check ≤ symbols.length || !even.isEmpty then
      ⟨(Config.damagedClass draw).val, (Config.damagedData draw).toNat, true⟩
    else if 2 ≤ symbols.length then ⟨3, data, false⟩
    else if !odd.isEmpty then ⟨2, data &&& (2 ^ 512 - 1 - t.groupMask odd), false⟩
    else ⟨if symbols.isEmpty then 0 else 1, data, false⟩

/-! ### Poison records and quarantine -/

/-- The quarantine entry of a frame at a die. -/
def Memctl.quarantineOf (c : Memctl) (die frame : Nat) : Option Nat :=
  (List.range 64).find? fun i =>
    let e := Sparse.get (0, 0#64) c.quarantine (64 * die + i)
    e.2 != 0 && e.1 == frame

/-- The record entry of a sector at a die. -/
def Memctl.poisonOf (c : Memctl) (die pa : Nat) : Option Nat :=
  ((c.poison.find? fun e => e.1 / 512 == die && e.2 == pa + 1).map fun e => e.1 % 512)

/-- Whether a sector is entered in the record or in a quarantined frame's bitmap (R395, R396). -/
def Memctl.poisoned (c : Memctl) (die pa : Nat) : Bool :=
  (c.poisonOf die pa).isSome ||
    match c.quarantineOf die (pa / 4096 * 4096) with
    | some i => (Sparse.get (0, 0#64) c.quarantine (64 * die + i)).2.getLsbD (pa % 4096 / 64)
    | none => false

/-- The first free entry of a die's record. -/
def Memctl.freePoison (c : Memctl) (die : Nat) : Option Nat :=
  (List.range 512).find? fun i => Sparse.get 0 c.poison (512 * die + i) == 0

/-- The first free entry of a die's quarantine table. -/
def Memctl.freeQuarantine (c : Memctl) (die : Nat) : Option Nat :=
  (List.range 64).find? fun i => (Sparse.get (0, 0#64) c.quarantine (64 * die + i)).2 == 0

/-- A record of this device's memory: source, class and location (R410). -/
def memRecord (mid src unit layout cls loc : Nat) : ErrRecord := ⟨mid, src, layout, cls, unit, 0, loc⟩

/-- A sector entered in the record or the quarantine table of its die (R395 to R397). -/
def State.enterPoison (s : State) (mid unit pa cls layout : Nat) : State :=
  let die := dieOf unit
  let frame := pa / 4096 * 4096
  let bit := 1#64 <<< (pa % 4096 / 64)
  if s.memctl.poisoned die pa then s
  else match s.memctl.quarantineOf die frame with
  | some i =>
    let k := 64 * die + i
    let e := Sparse.get (0, 0#64) s.memctl.quarantine k
    { s with memctl.quarantine := Sparse.set (0, 0#64) s.memctl.quarantine k (frame, e.2 ||| bit) }
  | none =>
    match s.memctl.freePoison die with
    | some i => { s with memctl.poison := Sparse.set 0 s.memctl.poison (512 * die + i) (pa + 1) }
    | none =>
      match s.memctl.freeQuarantine die with
      | some i =>
        let mine := s.memctl.poison.filter fun e => e.1 / 512 == die && (e.2 - 1) / 4096 * 4096 == frame
        let map := mine.foldl (fun b e => b ||| (1#64 <<< ((e.2 - 1) % 4096 / 64))) bit
        let rest := s.memctl.poison.filter fun e => !(e.1 / 512 == die && (e.2 - 1) / 4096 * 4096 == frame)
        { s with
          memctl.poison := rest
          memctl.quarantine := Sparse.set (0, 0#64) s.memctl.quarantine (64 * die + i) (frame, map) }.report
          (s.partOfUnit unit) (memRecord mid 9 unit layout cls frame)
      | none => s.report (s.partOfUnit unit) (memRecord mid 10 unit layout cls pa)

/-- A sector's entry removed (R395, R396). -/
def State.clearPoison (s : State) (unit pa : Nat) : State :=
  let die := dieOf unit
  match s.memctl.poisonOf die pa with
  | some i => { s with memctl.poison := Sparse.set 0 s.memctl.poison (512 * die + i) 0 }
  | none =>
    match s.memctl.quarantineOf die (pa / 4096 * 4096) with
    | some i =>
      let k := 64 * die + i
      let e := Sparse.get (0, 0#64) s.memctl.quarantine k
      let b := e.2 &&& ~~~ (1#64 <<< (pa % 4096 / 64))
      { s with memctl.quarantine :=
          Sparse.set (0, 0#64) s.memctl.quarantine k (if b == 0 then (0, 0) else (e.1, b)) }
    | none => s

/-! ### Reads and stores of a sector -/

/-- The class and data of a sector under a layout (R391). A sector that no store has written whole reports any class and any data
(R439). -/
def State.decodeSector (s : State) (unit pa layout : Nat) : Decoded :=
  let x := s.sectorAt pa
  let stored := Memory.readN s.mem pa 64
  if s.memctl.poisoned (dieOf unit) pa then ⟨4, stored, false⟩
  else match x.layout? with
  | some t => if t.toNat == layout then decodeBits layout stored x s.free else ⟨3, stored, false⟩
  | none => ⟨(Config.damagedClass s.free).val, (Config.damagedData s.free).toNat, true⟩

/-- The layout tag of a sector, or the given code when no store has set it. -/
def State.tagAt (s : State) (pa layout : Nat) : Nat := ((s.sectorAt pa).layout?.map BitVec.toNat).getD layout

/-- What a read of class 0 to 4 does at the controller beside its answer: counts, records and the record entry. -/
def State.noteClass (s : State) (mid unit pa layout cls : Nat) (free : Bool) : State :=
  let p := s.partOfUnit unit
  let s := if free then { s with free := s.free + 1 } else s
  match cls with
  | 1 => s.count p 63 48
  | 2 => (s.count p 47 32).report p (memRecord mid 1 unit (s.tagAt pa layout) 2 pa)
  | 3 => ((s.count p 31 24).report p (memRecord mid 2 unit (s.tagAt pa layout) 3 pa)).enterPoison mid unit pa 3
      (s.tagAt pa layout)
  | _ => s

/-- A read of a sector by a master (R391, R395). -/
def State.readSector (s : State) (mid unit pa layout : Nat) : Decoded × State :=
  let d := s.decodeSector unit pa layout
  (d, s.noteClass mid unit pa layout d.cls d.free)

/-- Bytes stored at physical addresses break every link of their line (R148). -/
def State.breakLine (s : State) (line : Nat) : State := { s with links := s.links.filter fun l => l.line != line }

/-- What fetch of the harts still reads after a store to a byte by a hart, or by another agent (R201). -/
def viewStore (byHart : Bool) (key : Nat) (old new : Byte) (v : List ViewByte) : List ViewByte :=
  if v.any fun e => e.key == key then
    if byHart then v.map fun e => if e.key == key then { e with seen := some new } else e else v
  else ⟨key, old, if byHart then some new else none⟩ :: v

/-- Whether a hart keeps an older value of a byte for its fetch. -/
def Hart.views (h : Hart) (key : Nat) : Bool := h.view.any fun e => e.key == key

/-- The bytes of a store noted in the view of every hart that runs. A store of the value that the byte holds already tells only the
storing hart something: it has now written that value (R201). -/
def State.noteStore (s : State) (by' : HartId) (key : Nat) (old new : Byte) : State :=
  if old == new && !s.harts.any fun h => h.id == by' && h.views key then s
  else s.mapHarts fun h =>
    if h.wait == .vacant || h.wait == .held || h.wait == .ended || (old == new && h.id != by') then h
    else { h with view := viewStore (h.id == by') key old new h.view }

/-- Enabled bytes of a sector written in memory, with the views of fetch kept. -/
def State.pokeBytes (s : State) (by' : HartId) (key : Nat) : Nat → Nat → Nat → State
  | 0, _, _ => s
  | n + 1, x, en =>
    let b := BitVec.ofNat 8 x
    let s' := if en % 2 == 1 then
        let s1 := s.noteStore by' key (Memory.read s.mem key) b
        { s1 with mem := Memory.write s1.mem key b }
      else s
    s'.pokeBytes by' (key + 1) n (x / 256) (en / 2)

/-- The 512-bit mask of the bytes that a 64-bit enable names. -/
def byteMask : Nat → Nat → Nat
  | 0, _ => 0
  | n + 1, en => (if en % 2 == 1 then 255 else 0) + 256 * byteMask n (en / 2)

/-- A store of all 64 bytes of a sector: it removes the sector's poison and sets its tag (R389, R395). -/
def State.storeWhole (s : State) (mid unit pa layout data : Nat) : State :=
  let s := (s.clearPoison unit pa).breakLine (pa / 64)
  let s := s.putSector pa ⟨some (BitVec.ofNat 4 layout), 0, 0, 0⟩
  s.pokeBytes mid pa 64 data (2 ^ 64 - 1)

/-- Enabled bytes stored in a sector whose data have just been read: corrected data are written back with them (R393). -/
def State.storeRead (s : State) (mid pa old data enable : Nat) : State :=
  let s := s.breakLine (pa / 64)
  let x := s.sectorAt pa
  let s := if x.tag.isNone || (x.data == 0 && x.check == 0) then s
    else { s.putSector pa { x with data := 0, check := 0 } with mem := Memory.writeN s.mem pa 64 old }
  s.pokeBytes mid pa 64 data enable

/-- A store of part of a sector: an indivisible read-modify-write at the controller (R393), which class 3 or 4 loses (R129). The answer
says whether it was performed. -/
def State.storePart (s : State) (mid unit pa layout data enable : Nat) : Bool × State :=
  let d := s.decodeSector unit pa layout
  let s := if d.free then { s with free := s.free + 1 } else s
  let p := s.partOfUnit unit
  if 3 ≤ d.cls then
    let s := if d.cls == 3 then (s.count p 31 24).enterPoison mid unit pa 3 (s.tagAt pa layout) else s
    (false, s.report p (memRecord mid 3 unit (s.tagAt pa layout) d.cls pa))
  else
    let s := match d.cls with
      | 1 => s.count p 63 48
      | 2 => (s.count p 47 32).report p (memRecord mid 1 unit (s.tagAt pa layout) 2 pa)
      | _ => s
    (true, s.storeRead mid pa d.data data enable)

/-- A store of the enabled bytes of one sector at its controller: whole, or in part. -/
def State.storeSector (s : State) (mid unit pa layout data enable : Nat) : Bool × State :=
  if enable % 2 ^ 64 == 2 ^ 64 - 1 then (true, s.storeWhole mid unit pa layout data)
  else s.storePart mid unit pa layout data enable

/-! ### Requests and their tags -/

/-- The targets of sequence tags (R403): memory unit u is u and the scratchpad of core c is 64 + c; the doorbell unit and the collective
engine. -/
def spadTarget (core : Nat) : Nat := 64 + core
def doorbellTarget : Nat := 508
def collectiveTarget : Nat := 509

/-- The unit number of a sequence tag (R403). -/
def unitOf (mid : Nat) : Nat :=
  if mid < 0x2000 then mid / 4 else if mid < 0x4000 then 384 + mid % 128 else 511

/-- The records of the newest `n` requests of a unit at a target, and every record of the others (R404). -/
def keepRecords (target unit : Nat) : Nat → List Performed → List Performed
  | _, [] => []
  | n, r :: t =>
    if r.target == target && r.tag.toNat / 2 ^ 23 == unit then
      match n with
      | 0 => keepRecords target unit 0 t
      | m + 1 => r :: keepRecords target unit m t
    else r :: keepRecords target unit n t

/-- Whether a master's requests carry no tag: those of PCIe functions and peers rely on their link's own replay (R404). -/
def untagged (mid : Nat) : Bool := 0x4000 ≤ mid && mid < 0x8000

/-- One request sent and performed: the unit's count advances and the target keeps tag and outcome (R403, R404). -/
def State.request (s : State) (mid target : Nat) (outcome : Word) : State :=
  if untagged mid then s else
  let u := unitOf mid
  let n := Sparse.get 0 s.seqCount u
  let tag := BitVec.ofNat 32 (u * 2 ^ 23 + n)
  { s with
    seqCount := Sparse.set 0 s.seqCount u ((n + 1) % 2 ^ 23)
    performed := ⟨target, tag, outcome⟩ :: keepRecords target u 1023 s.performed }

end Sys2Proof.Machine
end

