-- ==== Sys2Proof/Machine/Translate.lean ====
section
/-! DEFINITION. Access tables (R330 to R333), the page walk (R358 to R363), the cluster scratchpad aperture (R114, R115), the host
window (R415, R416) and leases (R370, R371): from an element's virtual address to where its bytes are, or why not (R377). -/

namespace Sys2Proof.Machine

/-! ### Access tables -/

/-- What holds an access table (R331, R430). -/
inductive Target where
  | mem (unit : Nat)
  | aperture (core : Nat)
  | block (core : Nat)
  | mgmtBlock (m : Nat)
  | burl (core : Nat)
  | port (p : Nat)
  | system (i : Nat)
deriving DecidableEq, Repr

/-- The place of a target's table among all tables. -/
def Target.key : Target → Nat
  | .mem u => u
  | .aperture c => 64 + c
  | .block c => 512 + c
  | .mgmtBlock m => 1024 + m
  | .burl c => 1088 + c
  | .port p => 1600 + p
  | .system i => 1700 + i

/-- TGT of FRZST for a target (R335). -/
def Target.tgt : Target → Nat
  | .mem _ => 0
  | .aperture _ => 1
  | .block _ => 2
  | .mgmtBlock _ => 2
  | .burl _ => 4
  | .port _ => 3
  | .system _ => 2

/-- TID of FRZST for a target (R335). -/
def Target.tid : Target → Nat
  | .mem u => u
  | .aperture c => c
  | .block c => c
  | .mgmtBlock m => 1024 + m
  | .burl c => c
  | .port p => p
  | .system _ => 0

/-- The permission an access needs (R332). -/
inductive Perm where
  | rd
  | wr
  | rmw
deriving DecidableEq, Repr

/-- The bit of an entry that grants a permission (R331). -/
def Perm.bit : Perm → Nat
  | .rd => 59
  | .wr => 58
  | .rmw => 57

/-- KIND of FRZST for a lacking permission (R335). -/
def Perm.kind : Perm → Nat
  | .rd => 1
  | .wr => 2
  | .rmw => 3

/-- Entry i of a target's table. -/
def State.tableWord (s : State) (t : Target) (i : Nat) : Word := Sparse.get 0 s.tables (t.key * 16 + i)

/-- The same, written; the Res fields read zero (R331). -/
def State.putTable (s : State) (t : Target) (i : Nat) (w : Word) : State :=
  { s with tables := Sparse.set 0 s.tables (t.key * 16 + i) (w &&& 0x8E00FFFF0000FFFF#64) }

/-- Whether an entry is valid and matches a MID (R332). -/
def entryMatches (w : Word) (mid : Nat) : Bool :=
  w.getLsbD 63 && (((w.toNat % 65536) ^^^ mid) &&& fld w.toNat 47 32) == 0

/-- The check of R332: nothing when permitted, else KIND. -/
def State.denied (s : State) (t : Target) (mid : Nat) (p : Perm) : Option Nat :=
  match ((List.range 16).map (s.tableWord t)).find? fun w => entryMatches w mid with
  | none => some 0
  | some w => if w.getLsbD p.bit then none else some p.kind

/-! ### Requesters -/

/-- Who asks for an access (R330). -/
structure Req where
  mid : Nat
  level : Level
  part : Nat
  /-- The cluster that the aperture names; none for a master of no cluster (R114). -/
  cluster : Option Nat
deriving DecidableEq, Repr

/-- The requester that a hart is. -/
def Hart.req (h : Hart) : Req :=
  ⟨h.id, h.prv, h.part.val, if isMgmt h.id then none else some (clusterOf h.id)⟩

/-- What an access does (TDETB.ACC, R373). -/
inductive Acc where
  | load
  | store
  | rmw
  | fetch
  /-- The second operand of a Mandrel command and the map of SCRUB: a load and a store that need AT (R332). -/
  | operand
  | map
deriving DecidableEq, Repr

/-- The code of ACC. -/
def Acc.code : Acc → Nat
  | .load => 0
  | .store => 1
  | .rmw => 2
  | .fetch => 3
  | .operand => 0
  | .map => 1

/-- The permission of R332 for an access; a fetch needs RD (assumption 9). -/
def Acc.perm : Acc → Perm
  | .load => .rd
  | .store => .wr
  | .rmw => .rmw
  | .fetch => .rd
  | .operand => .rmw
  | .map => .rmw

/-- Whether an access only reads. -/
def Acc.reads : Acc → Bool
  | .load => true
  | .operand => true
  | _ => false

/-- Why a probe gives no location. -/
inductive Miss where
  /-- A translation fault of a kind (R362). -/
  | fault (kind : Nat)
  /-- An alignment fault (R116). -/
  | align
  /-- A store to a residency window (R107, R115). -/
  | residency
  /-- An access-table violation (R332) with KIND. -/
  | refused (t : Target) (kind : Nat)
  /-- The probe stalls without a fault (R369, R416). -/
  | stall (w : Wait)
  /-- Nothing answers the physical address. -/
  | unbacked
deriving DecidableEq, Repr

/-- Memory key of the first byte of a location. -/
def Loc.key : Loc → Nat
  | .spad core off => spadKey core off
  | .dram _ pa _ _ => pa
  | .host o _ => 2 ^ 50 + o
  | .lease pa _ => pa
  | .doorbell q off _ => 2 ^ 49 + 4096 * q + off

/-! ### Requests to lessors -/

/-- The permission bits of LCTL (R370). -/
def leaseBit : Perm → Nat
  | .rd => 58
  | .wr => 57
  | .rmw => 56

/-- Whether a lease window admits an access at an offset (R371). -/
def State.leaseOk (s : State) (n off : Nat) (p : Perm) : Bool :=
  let w := (Sparse.get 0 s.link.leases (2 * n)).toNat
  let size := fld w 55 50
  bitOf s.link.domctl.toNat 63 && bitOf w 63 && !bitOf w 62 && 21 ≤ size && size ≤ 40 && off < 2 ^ size && bitOf w (leaseBit p)

/-- The identities under which the engines of a hart ask a lessor: the Mandrel and the collective engine, and the Chuck; and that of a
read whose instruction has been left by a trap, so that its answer goes to nobody. -/
def engineId (id : HartId) : HartId := 0x20000 + id
def chuckId (id : HartId) : HartId := 0x40000 + id
def orphanId (id : HartId) : HartId := 0x60000 + id

/-- The hart or the other master for which an identity asks. -/
def askerOf (id : Nat) : Nat := id % 0x20000

/-- The requests to lessors that a core has out, oldest first; R22 bounds them. Every other sector request ends in the step that makes
it. -/
def State.sentBy (s : State) (core : Nat) : List Sent :=
  s.link.sent.filter fun r => askerOf r.id < 1536 && askerOf r.id / 4 == core

/-- Whether a read for a master may be sent now: its issuer stalls beyond 1,024 of its core (R22). -/
def State.maySend (s : State) (id : Nat) : Bool := 1536 ≤ askerOf id || (s.sentBy (askerOf id / 4)).length < 1024

/-- Whether a request is out, and not queued behind 1,024 others of its core (R22). -/
def State.isOut (s : State) (r : Sent) : Bool :=
  1536 ≤ askerOf r.id || ((s.sentBy (askerOf r.id / 4)).take 1024).contains r

/-- The answer to a request. -/
def State.answer? (s : State) (r : Sent) : Option PeerAnswer := (s.peerData.find? fun e => e.1 == r).map Prod.snd

/-- The device number of this device in the load-store domain (R419). -/
def State.devno (s : State) : Nat := fld s.link.domctl.toNat 9 0

/-- The device of the lessor and the address in its memory that an address of a lease window leads to: PEER, and PBASE + offset (R371). -/
def State.lessorOf (s : State) (pa : Nat) : Nat × Nat :=
  let n := (pa - 2 ^ 51) / 2 ^ 40
  (fld (Sparse.get 0 s.link.leases (2 * n)).toNat 9 0,
    fld (Sparse.get 0 s.link.leases (2 * n + 1)).toNat 51 21 * 2 ^ 21 + (pa - 2 ^ 51) % 2 ^ 40)

/-- A request to the lessor of an address: it carries the lessee's device number as its MID of class 3, and goes to PBASE + offset
(R371). -/
def State.toLessor (s : State) (id stream pa n : Nat) (op : PeerOp) : Sent :=
  { id := id, stream := stream, pa := pa, n := n, op := op, mid := 0x6000 + s.devno, peer := (s.lessorOf pa).1, addr := (s.lessorOf pa).2 }

/-- Whether a request to a lessor is a store. -/
def peerStores : PeerOp → Bool
  | .read => false
  | .linked => false
  | _ => true

/-- Whether two requests go to one sector of one lessor. -/
def Sent.meets (r x : Sent) : Bool := r.peer == x.peer && r.addr / 64 == x.addr / 64

/-- Whether a request is out and no later store to its sector is, so that its answer serves a request made now (R134). -/
def State.stillOut (s : State) (r : Sent) : Bool :=
  (s.link.sent.reverse.find? fun x => x == r || (peerStores x.op && x.meets r)) == some r

/-- The answer to a request, which is sent when it has none: what to wait for, else. -/
def State.askPeer (s : State) (r : Sent) : Except Wait PeerAnswer × State :=
  match s.answer? r with
  | some a => (.ok a, s)
  | none =>
    if s.stillOut r then (.error (.peer r.pa), s)
    else if s.link.sent.contains r || !s.maySend r.id then (.error (.busy .sectors), s)
    else (.error (.peer r.pa), { s with link.sent := s.link.sent ++ [r] })

/-- The read of a leased sector: class and data (R372, R394). -/
def State.leaseSector (s : State) (id : Nat) (op : PeerOp) (pa : Nat) : Except Wait (Nat × Nat) × State :=
  match s.askPeer (s.toLessor id 0 (pa / 64 * 64) 64 op) with
  | (.error w, s) => (.error w, s)
  | (.ok (.data c d), s) => (.ok (c.val, d.toNat), s)
  | (.ok _, s) => (.ok (4, 0), s)

/-- HEAD of a queue (R340). -/
def State.headOf (s : State) (q : Nat) : Word :=
  ((s.queues.find? fun x => x.q.toNat == q).map Queue.head).getD 0

/-! ### The host window -/

/-- The lowest valid function of a partition (R415, R417). -/
def State.functionOf (s : State) (p : Nat) : Option Nat :=
  firstBelow (fun f => let w := (Sparse.get 0 s.link.fnctl f).toNat; bitOf w 63 && fld w 47 45 == p) 65

/-- The host address that a host-window request goes to (R415, R416). -/
def State.hostProbe (s : State) (p o : Nat) (ns : Bool) : Except Miss Loc × State :=
  match s.functionOf p with
  | none => (.error (.fault 1), s)
  | some f =>
    if !s.link.atsEnabled.contains f then (.ok (.host o ns), s)
    else
      let page := o / 4096
      let q := s.partAt p
      let hit := Sparse.get 0 q.ats page
      if hit != 0 then (.ok (.host ((hit - 1) * 4096 + o % 4096) ns), s)
      else if q.refused.contains page then (.error (.fault 1), s)
      else (.error (.stall (.host page)), s.updPart p fun q =>
        if q.atsAsked.contains page then q else { q with atsAsked := q.atsAsked ++ [page] })

/-- A page that the host has refused is forgotten when its fault is raised, unless other probes still stall on it (R416). -/
def State.forgetRefused (s : State) (p : Nat) : State :=
  if (s.partAt p).refused.isEmpty then s
  else s.updPart p fun q => { q with refused := q.refused.filter fun page => s.harts.any fun h => h.part.val == p && h.wait == .host page }

/-! ### The walk -/

/-- A leaf that a walk ends in: its entry, the entry's address, its page size. -/
structure Leaf where
  entry : Nat
  at' : Nat
  size : Nat
deriving DecidableEq, Repr

/-- The page size by level and PS; none for a malformed combination (R360). -/
def pageSize (level ps : Nat) : Option Nat :=
  match level, ps with
  | 2, 0 => some (2 ^ 30)
  | 1, 0 => some (2 ^ 21)
  | 1, 1 => some (2 ^ 26)
  | 0, 0 => some (2 ^ 12)
  | 0, 1 => some (2 ^ 16)
  | _, _ => none

/-- The page size of a leaf; none when the entry is malformed (R359 to R361). -/
def leafSize (level entry : Nat) : Option Nat :=
  match pageSize level (fld entry 11 10) with
  | none => none
  | some n =>
    if fld entry 57 52 == 0 && fld entry 9 7 == 0 && !bitOf entry 2 && fld entry 62 59 < 8
        && (fld entry 51 12 * 4096) % n == 0 then some n else none

/-- A sector that the device reads for itself at a physical address, checked and decoded (R362 step 3, R422); one of the host window or of
a lease window faults or waits as a probe there does (R371, R415, R416). The specification names no layout for it: the model decodes the
sector under its stored tag, so a walk meets no mismatch of R391 (assumption 22). -/
def State.ownSector (s : State) (r : Req) (pa : Nat) : Except Miss Nat × State :=
  match placeOf pa with
  | .dram u =>
    match s.denied (.mem u) r.mid .rd with
    | some k => (.error (.refused (.mem u) k), s)
    | none =>
      let base := pa / 64 * 64
      let (d, s1) := s.readSector r.mid u base (s.tagAt base 0)
      if 3 ≤ d.cls then (.error (.fault 7), s1) else (.ok d.data, s1)
  | .host o =>
    match s.hostProbe r.part (o / 64 * 64) false with
    | (.ok l, s) => (.ok (Memory.readN s.mem l.key 64), s)
    | (.error e, s) => (.error e, s)
  | .lease w off =>
    if !s.leaseOk w off .rd then (.error (.fault 6), s)
    else match s.leaseSector r.mid .read pa with
    | (.error w, s) => (.error (.stall w), s)
    | (.ok (c, d), s) => (if 3 ≤ c then .error (.fault 7) else .ok d, s)
  | .doorbell q off => (.ok (if off < 64 then (s.headOf q).toNat else 0), s)
  | .unbacked => (.error .unbacked, s)

/-- An 8-byte read of a walk (R362). -/
def State.walkRead (s : State) (r : Req) (pa : Nat) : Except Miss Nat × State :=
  match s.ownSector r pa with
  | (.ok d, s) => (.ok (d / 2 ^ (8 * (pa % 64)) % 2 ^ 64), s)
  | (.error e, s) => (.error e, s)

/-- Entries of the group of a page of PS = 1, by level (R360). -/
def groupSize (level : Nat) : Nat := if level == 0 then 16 else if level == 1 then 32 else 1

/-- The first of some entries that is a valid leaf with PS = 1 (R360). -/
def State.groupLeaf (r : Req) (level : Nat) : List Nat → State → Except Miss Leaf × State
  | [], s => (.error (.fault 2), s)
  | a :: as, s =>
    match s.walkRead r a with
    | (.error (.stall w), s) => (.error (.stall w), s)
    | (.error _, s) => groupLeaf r level as s
    | (.ok e, s) =>
      match if bitOf e 0 && bitOf e 1 && fld e 11 10 == 1 then leafSize level e else none with
      | some n => (.ok ⟨e, a, n⟩, s)
      | none => groupLeaf r level as s

/-- A malformed leaf with PS = 1: where the entries of its group differ, one that is a valid leaf with PS = 1 translates (R360);
migration leaves such groups (R368).
DESIGN CHOICE (assumption 41): an entry that is itself a well-formed leaf is used whatever its group holds. -/
def State.malformedLeaf (s : State) (r : Req) (level e at' : Nat) : Except Miss Leaf × State :=
  let n := groupSize level
  if fld e 11 10 != 1 || n == 1 then (.error (.fault 2), s)
  else
    let base := at' / (8 * n) * (8 * n)
    State.groupLeaf r level ((List.range n).map fun i => base + 8 * i) s

/-- The walk through the levels that remain (R358, R360). -/
def State.walkFrom (r : Req) (va : Nat) : List Nat → Nat → State → Except Miss Leaf × State
  | [], _, s => (.error (.fault 2), s)
  | l :: ls, table, s =>
    let at' := table + 8 * (va / 2 ^ (12 + 9 * l) % 512)
    match s.walkRead r at' with
    | (.error e, s) => (.error e, s)
    | (.ok e, s) =>
      if !bitOf e 0 then (.error (.fault 1), s)
      else if !bitOf e 1 then
        if l == 0 then (.error (.fault 2), s) else walkFrom r va ls (fld e 51 12 * 4096) s
      else match leafSize l e with
      | none => s.malformedLeaf r l e at'
      | some n => (.ok ⟨e, at', n⟩, s)

/-- The walk from the partition's root (R358, R363). -/
def State.walk (s : State) (r : Req) (va : Nat) : Except Miss Leaf × State :=
  let root := (s.partAt r.part).ptroot.toNat
  if bitOf root 63 then State.walkFrom r va [4, 3, 2, 1, 0] (fld root 51 12 * 4096) s else (.error (.fault 1), s)

/-- The permissions of a leaf against an access (R362 step 2). -/
def Leaf.permits (l : Leaf) (level : Level) (a : Acc) : Bool :=
  (match a with
    | .load => bitOf l.entry 4
    | .operand => bitOf l.entry 4 && bitOf l.entry 5
    | .store => bitOf l.entry 5
    | .map => bitOf l.entry 4 && bitOf l.entry 5
    | .rmw => bitOf l.entry 4 && bitOf l.entry 5
    | .fetch => bitOf l.entry 6)
  && (level != .u || bitOf l.entry 3)

/-- The physical address that a leaf gives. -/
def Leaf.pa (l : Leaf) (va : Nat) : Nat := fld l.entry 51 12 * 4096 + va % l.size

/-! ### The aperture -/

/-- First address of the cluster scratchpad aperture (R114). -/
def apertureBase : Nat := 0x01FFFFFFF0000000

/-- Bytes of a core's scratchpad (R117). -/
def spadBytes : Nat := 0x180000

/-- A claimed Burl region at a scratchpad byte of a core (R115). -/
def State.burlAt (s : State) (core off : Nat) : Bool :=
  s.regions.any fun r => r.core == core && r.off ≤ off && off < r.off + 2 ^ r.log2

/-- Window bytes of a residency register: offset and length (R90). -/
def KReg.window (k : KReg) : Nat × Nat := (fld k.cfg.toNat 63 51 * 256, fld k.cfg.toNat 50 38 * 256)

/-- A valid or configuring window of any hart at a scratchpad byte of a core (R107, R115). -/
def State.windowAt (s : State) (core off : Nat) : Bool :=
  s.harts.any fun h => coreOf h.id == core && h.wait != .vacant && h.k.toList.any fun k =>
    k.phase != .invalid && k.window.1 ≤ off && off < k.window.1 + k.window.2

/-! ### The probe -/

/-- What a leaf gives an access at an address, by the rules that follow the walk: MIG, permissions, and the place with its checks (R332,
R362, R369, R371, R415). -/
def State.reachLeaf (s : State) (r : Req) (a : Acc) (va : Nat) (leaf : Leaf) : Except Miss Loc × State :=
  if bitOf leaf.entry 58 then (.error (.stall (.probe va)), s)
  else if !leaf.permits r.level a then (.error (.fault 3), s)
  else
    let pa := leaf.pa va
    match placeOf pa with
    | .dram u =>
      match s.denied (.mem u) r.mid a.perm with
      | some k => (.error (.refused (.mem u) k), s)
      | none => (.ok (.dram u pa (fld leaf.entry 62 59) (bitOf leaf.entry 63)), s)
    | .host o => s.hostProbe r.part o (bitOf leaf.entry 63)
    | .lease w off => if s.leaseOk w off a.perm then (.ok (.lease pa (bitOf leaf.entry 63)), s) else (.error (.fault 6), s)
    | .doorbell q off => (.ok (.doorbell q off (bitOf leaf.entry 63)), s)
    | .unbacked => (.error .unbacked, s)

/-- The probe of one access of n bytes (R125), in the order of R377: kinds 0, 4 and 5, alignment, the walk, kinds 3 and 6,
residency, and last the access table. `unaligned` is for the forms of R116 that allow it. The aperture names no scratchpad for a master
of no cluster: R114 gives no kind for its data accesses, and the model raises kind 4 (assumption 23). -/
def State.probe (s : State) (r : Req) (a : Acc) (unaligned : Bool) (va n : Nat) : Except Miss Loc × State :=
  if 2 ^ 57 ≤ va then (.error (.fault 0), s)
  else if apertureBase ≤ va then
    let slot := (va - apertureBase) / 0x200000
    let off := (va - apertureBase) % 0x200000
    if 96 ≤ slot || spadBytes ≤ off then (.error (.fault 4), s)
    else if a == .fetch then (.error (.fault 3), s)
    else match r.cluster with
    | none => (.error (.fault 4), s)
    | some cl =>
      let core := 96 * cl + slot
      if s.burlAt core off then (.error (.fault 5), s)
      else if !unaligned && va % n != 0 then (.error .align, s)
      else if !a.reads && s.windowAt core off then (.error .residency, s)
      else match s.denied (.aperture core) r.mid a.perm with
      | some k => (.error (.refused (.aperture core) k), s)
      | none => (.ok (.spad core off), s)
  else if !unaligned && va % n != 0 then (.error .align, s)
  else match s.walk r va with
  | (.error e, s) => (.error e, s)
  | (.ok leaf, s) => s.reachLeaf r a va leaf

/-- The reads of main memory that a walk makes, as requests of the master that it serves (R22, R362, R403): the unit of each level down
to the leaf. -/
def State.walkUnits (r : Req) (va : Nat) : List Nat → Nat → State → List Nat
  | [], _, _ => []
  | l :: ls, table, s =>
    let at' := table + 8 * (va / 2 ^ (12 + 9 * l) % 512)
    match placeOf at' with
    | .dram u =>
      u :: match (s.walkRead r at').1 with
        | .ok e => if bitOf e 0 && !bitOf e 1 then walkUnits r va ls (fld e 51 12 * 4096) s else []
        | .error _ => []
    | _ => []

/-- The tags of the requests that the walk of an address has made (R403). -/
def State.tagWalk (s : State) (r : Req) (va : Nat) : State :=
  let root := (s.partAt r.part).ptroot.toNat
  if apertureBase ≤ va || !bitOf root 63 then s
  else (State.walkUnits r va [4, 3, 2, 1, 0] (fld root 51 12 * 4096) s).foldl (fun s u => s.request r.mid u 0) s

/-- A probe with the requests of its walk. -/
def State.probed (s : State) (r : Req) (a : Acc) (unaligned : Bool) (va n : Nat) : Except Miss Loc × State :=
  let p := s.probe r a unaligned va n
  (p.1, p.2.tagWalk r va)

/-- The probe of a vector access or of an engine, made once more where it fails: a fault is raised only if the second probe fails too
(R366). A page that the instruction has probed already is not walked again (R125). -/
def State.probeAgain (s : State) (r : Req) (a : Acc) (seen : Bool) (va n : Nat) : Except Miss Loc × State :=
  match if seen then s.probe r a false va n else s.probed r a false va n with
  | (.error (.fault _), s) => s.probed r a false va n
  | x => x

end Sys2Proof.Machine
end

