-- ==== Sys2Proof/Machine/Mem.lean ====
section
/-! DEFINITION. Loads and stores at a location that a probe gave: main memory by sector, the scratchpad by word with its
protection (R117, R120, R121, R398, R399), host memory, and leased memory (R371, R372). -/

namespace Sys2Proof.Machine

/-! ### Scratchpad -/

/-- The words of a scratchpad (R117). -/
def spadWords : Nat := 393216

/-- The other 63 words of a word's bank and group (R398). -/
def parityMates (word : Nat) : List Nat :=
  let row := word / 64
  (((List.range 64).map fun i => (row / 64 * 64 + i) * 64 + word % 64).filter (· != word))

/-- Place of a parity word: group × 64 + bank. -/
def parityWord (word : Nat) : Nat := word / 64 / 64 * 64 + word % 64

/-- What the rebuild of a word reads instead of its codeword: the flips of its parity word and of its mates (R399). -/
def State.rebuildFlips (s : State) (core word : Nat) : BitVec 39 :=
  (parityMates word).foldl (fun b w => b ^^^ Sparse.get 0 s.spadFlips (core * spadWords + w))
    (Sparse.get 0 s.parityFlips (core * 6144 + parityWord word))

/-- The words of a parity word's bank and group (R398). -/
def parityGroup (word : Nat) : List Nat := word :: parityMates word

/-- A parity word that cannot be corrected is computed anew from its 64 data words, without a record (R399). -/
def State.renewParity (s : State) (core word : Nat) : State :=
  let k := core * 6144 + parityWord word
  let x := (parityGroup word).foldl (fun b w => b ^^^ Sparse.get 0 s.spadFlips (core * spadWords + w)) 0#39
  if popcount 39 (Sparse.get 0 s.parityFlips k).toNat ≤ 1 then s
  else { s with parityFlips := Sparse.set 0 s.parityFlips k x }

/-- The rebuild of a damaged word: written back when it decodes clean or corrected, else counted, and recorded as source 6 (R399,
R410). -/
def State.rebuildWord (s : State) (mid core word : Nat) : Bool × State :=
  if popcount 39 (s.rebuildFlips core word).toNat ≤ 1 then
    (true, { s with spadFlips := Sparse.set 0 s.spadFlips (core * spadWords + word) 0 }.renewParity core word)
  else
    let p := s.partOfCore core
    (false, ((s.count p 31 24).report p ⟨mid, 6, 0, 3, core, 0, core * 2 ^ 32 + 4 * word⟩).renewParity core word)

/-- A read of one word: corrected, rebuilt, or severe (R120, R121). -/
def State.spadWordRead (s : State) (mid core word : Nat) : Bool × State :=
  let f := Sparse.get 0 s.spadFlips (core * spadWords + word)
  if f == 0 then (true, s)
  else if popcount 39 f.toNat ≤ 1 then (true, s.count (s.partOfCore core) 63 48)
  else s.rebuildWord mid core word

/-- The words that n bytes at an offset touch. -/
def wordsOf (off n : Nat) : List Nat := rangeFrom (off / 4) ((off + n - 1) / 4 + 1 - off / 4)

/-- A read of every word touched; false when one is severe. -/
def State.spadTouch (s : State) (mid core : Nat) : List Nat → Bool × State
  | [] => (true, s)
  | w :: ws =>
    match s.spadWordRead mid core w with
    | (true, s) => s.spadTouch mid core ws
    | (false, s) => (false, s)

/-- A range of scratchpad bytes without the bytes of a store. -/
def cutRange (core off n : Nat) (r : Nat × Nat × Nat) : List (Nat × Nat × Nat) :=
  if r.1 != core || off + n ≤ r.2.1 || r.2.1 + r.2.2 ≤ off then [r]
  else (if r.2.1 < off then [(core, r.2.1, off - r.2.1)] else [])
    ++ (if off + n < r.2.1 + r.2.2 then [(core, off + n, r.2.1 + r.2.2 - (off + n))] else [])

/-- n bytes put into scratchpad words that are whole or have been read. -/
def State.spadPut (s : State) (core off n x : Nat) : State :=
  { s with
    spadFlips := (wordsOf off n).foldl (fun t w => Sparse.set 0 t (core * spadWords + w) 0) s.spadFlips
    lost := s.lost.flatMap (cutRange core off n)
    mem := Memory.writeN s.mem (spadKey core off) n x }.breakLine (spadKey core off / 64)

/-- A store of n bytes: whole words replaced, other words read, modified and written (R120, R121). -/
def State.spadStore (s : State) (mid core off n x : Nat) : Bool × State :=
  let partly := (wordsOf off n).filter fun w => !(off ≤ 4 * w && 4 * w + 4 ≤ off + n)
  match s.spadTouch mid core partly with
  | (false, s) => (false, s)
  | (true, s) => (true, s.spadPut core off n x)

/-! ### One access -/

/-- What a load gives: bytes and class, or a wait. -/
inductive Got where
  | data (cls x : Nat)
  | wait (w : Wait)
deriving DecidableEq, Repr

/-- What becomes of a store: performed, lost at its controller (R129), or a scratchpad word that cannot be rebuilt (R121). -/
inductive Put where
  | done
  | lost (cls : Nat)
  | severe
deriving DecidableEq, Repr

/-- Whether a scratchpad byte lies in a range. -/
def inRange (core off : Nat) (r : Nat × Nat × Nat) : Bool := r.1 == core && r.2.1 ≤ off && off < r.2.1 + r.2.2

/-- One byte of a scratchpad load: unspecified where a window lies or where a released window or region lay (R107, R115, R299), and
then the same throughout one instruction (R133). -/
def State.spadByte (s : State) (core off : Nat) : Byte :=
  if s.windowAt core off || s.lost.any (inRange core off) then Config.freeByte s.steps (spadKey core off)
  else Memory.read s.mem (spadKey core off)

/-- The bytes of a scratchpad load as a number. -/
def State.spadValue (s : State) (core off : Nat) : Nat → Nat
  | 0 => 0
  | n + 1 => (s.spadByte core off).toNat + 256 * s.spadValue core (off + 1) n

/-- A posted request to a lessor. Beyond 1,024 of the core it waits in line, and its issuer stalls until it is out (R22). -/
def State.postLessor (s : State) (r : Sent) : State := { s.breakLine (r.pa / 64) with link.sent := s.link.sent ++ [r] }

/-- The store of n bytes of one sector, as a lessor is asked for it. -/
def writeOp (pa n x : Nat) : PeerOp :=
  .write (BitVec.ofNat 512 (x % 2 ^ (8 * n) * 2 ^ (8 * (pa % 64)))) (BitVec.ofNat 64 ((2 ^ n - 1) * 2 ^ (pa % 64)))

/-- A posted store to leased memory, one request of at most a sector. -/
def State.leaseStore (s : State) (id stream pa n x : Nat) : State := s.postLessor (s.toLessor id stream pa n (writeOp pa n x))

/-- What a hart's own fetch may see later of bytes that it has read (R201); reads by an engine or another agent tell the hart nothing. -/
def State.noteLoad (s : State) (id : Nat) (key n : Nat) : State :=
  if s.cur.view.isEmpty || id != s.cur.id then s
  else { s with cur.view := s.cur.view.map fun e =>
      if key ≤ e.key && e.key < key + n then { e with seen := some (Memory.read s.mem e.key) } else e }

/-- What a load of a clean window element tells the hart's own fetch (R201): n bytes read as a number. -/
def Hart.sawBytes (h : Hart) (key n x : Nat) : Hart :=
  { h with view := h.view.map fun e =>
      if key ≤ e.key && e.key < key + n then { e with seen := some (BitVec.ofNat 8 (x / 256 ^ (e.key - key))) } else e }

/-- A sector that an instruction or a command has read: its virtual and its physical address, its class and its data. -/
structure SectorRead where
  page : Nat
  base : Nat
  cls : Nat
  data : Nat
deriving DecidableEq, Repr

/-- The sectors that an instruction has read: a request of one page reads a sector once (R122, R133). -/
abbrev SectorCache := List SectorRead

/-- The place of a sector in its page, which tells the requests of different pages apart that lead to one sector (R122). -/
def sectorOf (va : Nat) : Nat := va / 64

/-- A load of n bytes that lie in one sector; `id` names who asks a lessor. -/
def State.loadAt (s : State) (id : HartId) (mid : Nat) (l : Loc) (n : Nat) : Got × State :=
  match l with
  | .spad core off =>
    match s.spadTouch mid core (wordsOf off n) with
    | (false, s) => (.data 3 0, s)
    | (true, s) => (.data 0 (s.spadValue core off n), (s.request mid (spadTarget core) 0).noteLoad id (spadKey core off) n)
  | .dram u pa layout _ =>
    let (d, s) := s.readSector mid u (pa / 64 * 64) layout
    (.data d.cls (d.data / 2 ^ (8 * (pa % 64)) % 2 ^ (8 * n)), (s.request mid u 0).noteLoad id pa n)
  | .host o _ => (.data 0 (Memory.readN s.mem (2 ^ 50 + o) n), s.noteLoad id (2 ^ 50 + o) n)
  | .lease pa _ =>
    match s.leaseSector id .read pa with
    | (.error w, s) => (.wait w, s)
    | (.ok (c, d), s) => (.data c (d / 2 ^ (8 * (pa % 64)) % 2 ^ (8 * n)), s)
  | .doorbell q off _ => (.data 0 ((s.headOf q).toNat / 2 ^ (8 * (off % 8)) % 2 ^ (8 * n)), s.request mid doorbellTarget 0)

/-- A load of n bytes that lie in one sector, out of the sectors that the instruction has read already (R122); `op` says how a lessor is
asked. -/
def State.readCached (s : State) (id : HartId) (mid : Nat) (cache : SectorCache) (va : Nat) (l : Loc) (n : Nat) (op : PeerOp := .read) :
    Got × SectorCache × State :=
  match l with
  | .dram u pa layout _ =>
    let base := pa / 64 * 64
    let pick (d : Nat) : Nat := d / 2 ^ (8 * (pa % 64)) % 2 ^ (8 * n)
    match cache.find? fun e => e.page == sectorOf va && e.base == base with
    | some e => (.data e.cls (pick e.data), cache, s.noteLoad id pa n)
    | none =>
      let (d, s) := s.readSector mid u base layout
      (.data d.cls (pick d.data), ⟨sectorOf va, base, d.cls, d.data⟩ :: cache, (s.request mid u 0).noteLoad id pa n)
  | .lease pa _ =>
    match s.leaseSector id op pa with
    | (.error w, s) => (.wait w, cache, s)
    | (.ok (c, d), s) => (.data c (d / 2 ^ (8 * (pa % 64)) % 2 ^ (8 * n)), cache, s)
  | l =>
    let (g, s) := s.loadAt id mid l n
    (g, cache, s)

/-- The line that an access links or breaks (R148). -/
def Loc.line : Loc → Nat
  | .spad core off => spadKey core off / 64
  | .dram _ pa _ _ => pa / 64
  | .host o _ => (2 ^ 50 + o) / 64
  | .lease pa _ => pa / 64
  | .doorbell q off _ => (2 ^ 49 + 4096 * q + off) / 64

/-- Whether a location is in leased memory. -/
def Loc.leased : Loc → Bool
  | .lease _ _ => true
  | _ => false

/-- The location some bytes further on in the same page. -/
def Loc.plus (l : Loc) (n : Nat) : Loc :=
  match l with
  | .spad c o => .spad c (o + n)
  | .dram u pa layout ns => .dram u (pa + n) layout ns
  | .host a ns => .host (a + n) ns
  | .lease pa ns => .lease (pa + n) ns
  | .doorbell q off ns => .doorbell q (off + n) ns

/-- A store of n bytes that lie in one sector, for whom a lessor is asked as `id`; an 8-byte store to offset 0 of a doorbell page announces an index (R340). -/
def State.storeAt (s : State) (mid : Nat) (l : Loc) (n x : Nat) (stream : Nat := 0) (id : Nat := mid) : Put × State :=
  match l with
  | .spad core off =>
    match s.spadStore mid core off n x with
    | (true, s) => (.done, s.request mid (spadTarget core) 0)
    | (false, s) => (.severe, s)
  | .dram u pa layout _ =>
    let o := pa % 64
    let (ok, s') := s.storeSector mid u (pa / 64 * 64) layout (x % 2 ^ (8 * n) * 2 ^ (8 * o)) ((2 ^ n - 1) * 2 ^ o)
    (if ok then .done else .lost (s.decodeSector u (pa / 64 * 64) layout).cls, s'.request mid u 0)
  | .host o _ => (.done, (s.pokeBytes mid (2 ^ 50 + o) n x (2 ^ n - 1)).breakLine ((2 ^ 50 + o) / 64))
  | .lease pa _ => (.done, s.leaseStore id stream pa n x)
  | .doorbell q off _ =>
    let s := (s.breakLine (l.line)).request mid doorbellTarget 0
    (.done, if n == 8 && off == 0 then
      { s with rings := s.rings ++ [(BitVec.ofNat 16 q, BitVec.ofNat 64 x)] } else s)

/-- A store of a sector's 64 bytes at a location; to a doorbell page, eight stores of 8 bytes. -/
def State.storeLine (s : State) (mid : Nat) (l : Loc) (x : Nat) : Put × State :=
  match l with
  | .doorbell .. =>
    (.done, (List.range 8).foldl (fun s i => (s.storeAt mid (l.plus (8 * i)) 8 (x / 2 ^ (64 * i) % 2 ^ 64)).2) s)
  | _ => s.storeAt mid l 64 x

/-- The failing word of a scratchpad access, as its aperture address (R130): the first word that n bytes touch and that cannot be
read. -/
def State.failingWord (s : State) (core off n : Nat) : Nat :=
  let bad := (wordsOf off n).find? fun w =>
    2 ≤ popcount 39 (Sparse.get 0 s.spadFlips (core * spadWords + w)).toNat && 2 ≤ popcount 39 (s.rebuildFlips core w).toNat
  apertureBase + core % 96 * 0x200000 + 4 * (bad.getD (off / 4))

/-- TDETA of a memory error (R128, R130): the sector's virtual address, or the aperture address of a scratchpad word. -/
def State.errorAddress (s : State) (l : Loc) (va n : Nat) : Nat :=
  match l with
  | .spad core off => s.failingWord core off n
  | _ => va / 64 * 64

end Sys2Proof.Machine
end

