-- ==== Sys2Proof/Machine/Ops.lean ====
section
/-! DEFINITION. What instructions share: how one ends, register reads and writes with the copy of a prefix (R173), lent state and
lane-block checks (R40, R174), taking a trap and returning from one (R373 to R383), freezes (R334, R335), and scalar accesses. -/

namespace Sys2Proof.Machine

/-! ### How an instruction ends -/

/-- An end other than retirement: a trap with the state that its stop rule allows (R378), a state in which the instruction stays
(a wait, a freeze) or has transferred control, or a stop of the machine. -/
inductive Exit where
  | trap (t : Trap) (s : State)
  | stay (s : State)
  | fault (f : Fault)
deriving Repr

/-- A computation over the state that may end the instruction. -/
abbrev Act := StateT State (Except Exit)

/-- The instruction traps, leaving the state as it now stands. -/
def raise {α : Type} (t : Trap) : Act α := fun s => .error (.trap t s)

/-- The illegal-instruction, privilege, reserved-operand and bad-handle traps (R374). -/
def illegal {α : Type} : Act α := raise { code := 0x01 }
def privilege {α : Type} : Act α := raise { code := 0x02 }
def reservedOperand {α : Type} : Act α := raise { code := 0x03 }
def badHandle {α : Type} : Act α := raise { code := 0x04 }

/-- A check that raises the illegal-instruction trap when it fails. -/
def legal (b : Bool) : Act Unit := if b then pure () else illegal

/-- A check that raises the reserved-operand trap when it fails. -/
def operand (b : Bool) : Act Unit := if b then pure () else reservedOperand

/-- The hart that issues. -/
def hart : Act Hart := fun s => .ok (s.cur, s)

/-- The issuing hart changed. -/
def updCur (f : Hart → Hart) : Act Unit := fun s => .ok ((), { s with cur := f s.cur })

/-- A fresh free value of w bits (assumption 3). -/
def freeValue (w : Nat) : Act (BitVec w) := fun s => .ok (Config.freeBits w s.free, { s with free := s.free + 1 })

/-! ### Registers -/

/-- s[r]; s0 reads zero (R51). -/
def Hart.rs (h : Hart) (r : Fin 32) : Word := if r = 0 then 0 else h.s[r]

/-- The hart with s[r] written; a write to s0 is discarded (R51). -/
def Hart.ws (h : Hart) (r : Fin 32) (w : Word) : Hart := if r = 0 then h else { h with s := h.s.set r w }

/-- a[r]. -/
def Hart.ra (h : Hart) (r : Fin 16) : Word := h.a[r]

/-- The hart with a[r] written. -/
def Hart.wa (h : Hart) (r : Fin 16) (w : Word) : Hart := { h with a := h.a.set r w }

/-- m[r]; m0 reads all true (R51). -/
def Hart.rm (h : Hart) (r : Fin 16) : BitVec 16384 := if r = 0 then BitVec.allOnes 16384 else h.m[r]

/-- The hart with m[r] written; a write to m0 is discarded (R51). -/
def Hart.wm (h : Hart) (r : Fin 16) (b : BitVec 16384) : Hart := if r = 0 then h else { h with m := h.m.set r b }

/-- The base register of an SM form (R165). -/
def Hart.rbase (h : Hart) : Base → Word
  | .a r => h.ra r
  | .s r => h.rs (r.castLE (by decide))

/-- Fields of PFXS (R63). -/
def Hart.lent (h : Hart) : Bool := h.pfxs.getLsbD 15
def Hart.lentMask (h : Hart) : Fin 16 := (h.pfxs.extractLsb' 11 4).toFin
def Hart.lentInv (h : Hart) : Bool := h.pfxs.getLsbD 10
def Hart.copyClass (h : Hart) : Nat := fld h.pfxs.toNat 9 8
def Hart.copyIndex (h : Hart) : Nat := fld h.pfxs.toNat 7 3

/-- A write to a scalar destination and to the copy register that a prefix names (R173). DESIGN CHOICE (assumption 72): a copy index above 15
of class 3, which a register write, a frame or a context area can lend but PFX cannot, names the register of its low four bits. -/
def Hart.wd (h : Hart) (r : Fin 32) (w : Word) : Hart :=
  let h' := h.ws r w
  if !h.lent then h'
  else if h.copyClass == 1 then h'.ws (Fin.ofNat 32 h.copyIndex) w
  else if h.copyClass == 3 then h'.wa (Fin.ofNat 16 h.copyIndex) w
  else h'

/-- s[sd] written with its copy. -/
def writeD (r : Fin 32) (w : Word) : Act Unit := updCur fun h => h.wd r w

/-! ### Lent state and lane blocks -/

/-- The kinds of destination that R174 tells apart. -/
inductive Dest where
  | none
  | mask
  | scalar
  /-- A vector group: its first register and size. -/
  | vector (d g : Nat)
deriving DecidableEq, Repr

/-- Whether the copy of a prefix may go with a destination (R174). -/
def Hart.copyOk (h : Hart) : Dest → Bool
  | .none => h.copyClass == 0
  | .mask => h.copyClass == 0
  | .scalar => h.copyClass != 2
  | .vector d g =>
    h.copyClass == 0 ||
      (h.copyClass == 2 && h.copyIndex % g == 0 && (h.copyIndex + g ≤ d || d + g ≤ h.copyIndex))

/-- The pairing of R174 for a successor: one that never takes lent state, one without a mask, or one with a mask. -/
inductive Pairing where
  | never
  | maskless (d : Dest)
  | masked (d : Dest)
deriving DecidableEq, Repr

/-- Whether the pairing is legal under the lent state in force. -/
def Hart.pairOk (h : Hart) : Pairing → Bool
  | .never => !h.lent
  | .maskless d => !h.lent || (h.lentMask == 0 && !h.lentInv && h.copyOk d)
  | .masked d => !h.lent || h.copyOk d

/-- The illegal-instruction checks common to all instructions: legality in a lane block (R40) and the pairing (R174). -/
def begin (inLane : Bool) (p : Pairing) : Act Unit := do
  let h ← hart
  legal (inLane || h.lane.isNone)
  legal (h.pairOk p)

/-! ### Freezes -/

/-- A hart frozen with its record (R334, R335). -/
def Hart.freeze (h : Hart) (tid tgt kind : Nat) (eng post : Bool) (stream elem adr : Nat) : Hart :=
  { h with
    frozen := true
    frzst := BitVec.ofNat 64 (tid * 2 ^ 48 + tgt * 2 ^ 29 + kind * 2 ^ 27 + (if eng then 2 ^ 26 else 0)
      + (if post then 2 ^ 25 else 0) + stream * 2 ^ 22 + elem % 2 ^ 14)
    frzadr := BitVec.ofNat 64 adr }

/-- The freeze signal of a hart: level S of its partition, or M for a management core (R334). -/
def State.signalFreeze (s : State) (id : HartId) (part : Nat) : State :=
  if isMgmt id then s.signalM 1 true else s.signalS part 1 true

/-- The issuing hart frozen by a violation (R334). -/
def State.freezeCur (s : State) (t : Target) (kind : Nat) (eng post : Bool) (stream elem adr : Nat) : State :=
  let adr := if t.tgt == 4 then 0 else adr
  ({ s with cur := s.cur.freeze t.tid t.tgt kind eng post stream elem adr }).signalFreeze s.cur.id s.cur.part.val

/-! ### Taking a trap -/

/-- The seven registers of a level's set. -/
def Hart.trapSet (h : Hart) : Level → TrapSet
  | .m => h.mset
  | _ => h.sset

/-- A level's set changed. -/
def Hart.withTrapSet (h : Hart) (l : Level) (t : TrapSet) : Hart :=
  match l with
  | .m => { h with mset := t }
  | _ => { h with sset := t }

/-- The code of a level (R323). -/
def Level.code : Level → Nat
  | .u => 0
  | .s => 1
  | .m => 2

/-- The level of a code; 3 is never written. -/
def Level.ofCode : Nat → Level
  | 0 => .u
  | 1 => .s
  | _ => .m

/-- The level at which a trap is taken: TRAPM (code 0x0B) always M; otherwise one level up from U, and M from S and M (R374). -/
def takenAt (l : Level) (code : Nat) : Level := if code == 0x0B then .m else if l == .u then .s else .m

/-- Address of the trap frame of a set (R373). -/
def TrapSet.frame (t : TrapSet) : Nat := fld t.tframe.toNat 56 9 * 512

/-- The 64 words of a trap frame (R382). -/
def Hart.frameWords (h : Hart) : List Nat :=
  ((List.finRange 32).map fun i => (h.rs i).toNat) ++ h.a.toList.map BitVec.toNat
    ++ [h.gl.toNat, h.erix.toNat, h.fcs.toNat, h.pfxs.toNat, h.gseedLo.toNat, h.gseedHi.toNat]
    ++ List.replicate 10 0

/-- A number of eight words, the first lowest. -/
def packWords : List Nat → Nat
  | [] => 0
  | w :: ws => w + 2 ^ 64 * packWords ws

/-- How a frame write ends. -/
inductive FrameEnd where
  | done
  /-- The word's address and the failure: code 0x05 with a kind, or 0x08 with a class. -/
  | failed (va kind cls : Nat)
  | stall (w : Wait)
  | unbacked
deriving DecidableEq, Repr

/-- The sectors of a frame written from an address up (R380): one probe and one request a sector. DEDUCED (assumption 42): the words are
stores of 8 bytes, so each is a read-modify-write of its sector (R393), and a sector that holds class 3 or 4 loses them (R129) and
fails the frame (R383). -/
def State.writeFrame (r : Req) : Nat → Nat → List Nat → State → FrameEnd × State
  | 0, _, _, s => (.done, s)
  | n + 1, va, ws, s =>
    match s.probed r .store false va 8 with
    | (.error (.fault k), s) => (.failed va k 0, s)
    | (.error .align, s) => (.failed va 0 0, s)
    | (.error .residency, s) => (.failed va 3 0, s)
    | (.error (.refused _ _), s) => (.failed va 3 0, s)
    | (.error (.stall w), s) => (.stall w, s)
    | (.error .unbacked, s) => (.unbacked, s)
    | (.ok l, s) =>
      let x := packWords (ws.take 8)
      match l with
      | .dram u pa layout _ =>
        match s.storePart r.mid u pa layout x (2 ^ 64 - 1) with
        | (false, s') => (.failed va 0 (s.decodeSector u pa layout).cls, s'.request r.mid u 0)
        | (true, s) => State.writeFrame r n (va + 64) (ws.drop 8) (s.request r.mid u 0)
      | l => State.writeFrame r n (va + 64) (ws.drop 8) (s.storeLine r.mid l x).2

/-- The causes whose row of R374 writes LB and BOFF, and those whose row writes ELEM. -/
def writesBoff (code : Nat) : Bool := [0x01, 0x03, 0x05, 0x06, 0x08].contains code
def writesElem (code : Nat) : Bool := [0x05, 0x06, 0x07, 0x08, 0x0C].contains code

/-- TDETB of a trap (R373) with the fields that its row of R374 writes: LB and BOFF, and the element of the lane-thread, in a lane
block. -/
def Trap.detb (t : Trap) (lane : Option LaneBlock) (pc : Nat) : Word :=
  let lb := match lane with
    | some b => if writesBoff t.code then 2 ^ 63 + (pc - b.fetchPc.toNat) / 4 % 256 * 2 ^ 55 else 0
    | none => 0
  let elem := match lane with
    | some b => if writesElem t.code then b.elem else 0
    | none => t.elem
  BitVec.ofNat 64 (lb + t.cls * 2 ^ 29 + t.kind * 2 ^ 26 + t.kreg * 2 ^ 22 + t.acc * 2 ^ 20
    + (if t.eng then 2 ^ 19 else 0) + t.stream * 2 ^ 14 + elem % 2 ^ 14)

/-- TDETA of a trap: the instruction word for the causes of R374 that record it. -/
def Trap.detaWord (t : Trap) (ir : BitVec 32) : Word :=
  if t.code ≤ 4 || t.code == 0x0C then ir.setWidth 64 else BitVec.ofNat 64 t.deta

/-- The saved resume address: the word after TRAP and TRAPM, else the word itself (R374). -/
def Trap.resume (t : Trap) (pc : Word) : Word := if t.code == 0x0A || t.code == 0x0B then pc + 4 else pc

/-- The issuing hart out of its lane block: lane-thread state discarded, ERIX at the element (R42). -/
def Hart.leaveLane (h : Hart) : Hart :=
  match h.lane with
  | none => h
  | some b => { h with s := b.saved, pc := b.fetchPc, erix := BitVec.ofNat 14 b.elem, lane := none }

/-- TSTATE at entry: FROM, INH and HOLDW set, HOLD set (R380). -/
def TrapSet.enter (t : TrapSet) (from' : Level) : Word :=
  let x := t.tstate.toNat
  let hold := fld x 6 6
  BitVec.ofNat 64 (putFld (putFld (putFld (putFld x 4 3 from'.code) 7 7 1) 5 5 hold) 6 6 1)

/-- An address as TRESUME holds it: bits [56:0] (R373). -/
def pcField (pc : Word) : Word := pc &&& 0x01FFFFFFFFFFFFFF#64

/-- The last steps of entry at a level (R380). -/
def Hart.atHandler (h : Hart) (from' at' : Level) (resume cause deta detb : Word) : Hart :=
  let t := h.trapSet at'
  let t' := { t with tresume := pcField resume, tcause := cause, tdeta := deta, tdetb := detb, tstate := t.enter from' }
  { h.withTrapSet at' t' with
    gl := 0, erix := 0, pfxs := 0, undivided := false, prv := at', pc := BitVec.ofNat 64 (4 * fld t.tbase.toNat 56 2) }

/-- The links of a hart broken (R148). -/
def State.breakLinks (s : State) (id : HartId) : State := { s with links := s.links.filter fun l => l.hart != id }

/-- A hart frozen by a double trap (R383, R335). -/
def State.doubleTrap (s : State) (frame : Nat) : State :=
  ({ s with cur := s.cur.freeze 0 6 0 false false 0 0 frame }).signalM 1 true

/-- Whether a set is being handled (TSTATE.INH). -/
def TrapSet.inh (t : TrapSet) : Bool := t.tstate.getLsbD 7

/-- Entry at M (R380, R383). -/
def State.enterM (s : State) (from' : Level) (resume cause deta detb : Word) : Host.Outcome State Fault Refusal :=
  let r := { s.cur.req with level := .m }
  if s.cur.mset.inh then .next (s.doubleTrap 0)
  else match State.writeFrame r 8 s.cur.mset.frame s.cur.frameWords s with
  | (.done, s) => .next { s with cur := s.cur.atHandler from' .m resume cause deta detb }
  | (.failed _ _ _, s) => .next (s.doubleTrap s.cur.mset.frame)
  | (.stall w, s) => .next { s with cur.wait := w }
  | (.unbacked, _) => .fault .unbackedAddress

/-- Taking a trap or an interrupt: the frame, the record, TSTATE, the level and the handler's address (R380); a failed S frame is
raised at M (R383). `resume` is the saved address and `at'` the address of the instruction whose event is entered. -/
def State.enter (s : State) (level : Level) (resume at' cause deta detb : Word) : Host.Outcome State Fault Refusal :=
  let from' := s.cur.prv
  match level with
  | .m => s.enterM from' resume cause deta detb
  | _ =>
    match State.writeFrame { s.cur.req with level := .s } 8 s.cur.sset.frame s.cur.frameWords s with
    | (.done, s) => .next { s with cur := s.cur.atHandler from' .s resume cause deta detb }
    | (.stall w, s) => .next { s with cur.wait := w }
    | (.unbacked, _) => .fault .unbackedAddress
    | (.failed va kind cls, s) =>
      let code : Nat := if 3 ≤ cls then 0x08 else 0x05
      let t : Trap := { code := code, cls := cls, kind := kind, acc := 1 }
      let old := s.cur.sset
      let s' := { s with cur.sset := { old with tresume := pcField resume, tcause := cause, tdeta := deta, tdetb := detb } }
      match s'.enterM from' at' (BitVec.ofNat 64 code) (BitVec.ofNat 64 va) (t.detb none 0) with
      | .next s'' => if s''.cur.frozen then .next { s'' with cur.sset := old } else .next s''
      | o => o

/-! ### Stalls -/

/-- Fields of KCFG and of a dimension pair (R90). -/
def KReg.ndim (k : KReg) : Nat := fld k.cfg.toNat 25 24
def KReg.esz (k : KReg) : Nat := 2 ^ fld k.cfg.toNat 19 16
def KReg.stride (k : KReg) (d : Fin 4) : Int := sext 32 (fld k.dimA[d].toNat 63 32)

/-- Dimensions present, ascending. -/
def KReg.dims (k : KReg) : List (Fin 4) := (List.finRange 4).filter fun d => d.val ≤ k.ndim

/-- The address of an element, modulo 2^64 (R90, R113). -/
def KReg.address (k : KReg) (x : List Nat) : Nat :=
  wrap 64 (((k.dims.zip x).foldl (fun (a : Int) p => a + p.2 * k.stride p.1) (fld k.base.toNat 56 0 : Int)))

/-- The stream and the counters of KCFG (R90). -/
def KReg.strm (k : KReg) : Nat := fld k.cfg.toNat 37 35
def KReg.ctrs (k : KReg) : Nat := fld k.cfg.toNat 15 8

/-- The entries of a core's matrix queue, oldest first (R280). -/
def State.entriesOf (s : State) (core : Nat) : List MxEntry := s.mxq.filter fun e => coreOf e.hart == core

/-- The collectives that a hart has posted and that have not ended. -/
def State.postedBy (s : State) (h : Hart) : List Join :=
  (s.link.instances.flatMap Instance.joins).filter fun j =>
    match j.hart with
    | some w => h.parent.isNone && w.gang == h.gang && w.index == h.index
    | none => false

/-- Whether stores to lessors are out in the streams of a mask: those of the engines of a hart and, where `own`, its own. -/
def State.postedStores (s : State) (h : Hart) (own : Bool) (mask : Nat) : Bool :=
  s.link.sent.any fun r => askerOf r.id == h.id && (own || r.id != h.id) && peerStores r.op && bitOf mask r.stream

/-- Whether the Chuck has still to read memory for an element that a register of the hart holds (R106, R108). -/
def Hart.fetching (h : Hart) (p : KReg → WinElem → Bool) : Bool :=
  h.win.any fun e => e.arrival != .arrived && (List.finRange 16).any fun i => e.holders.getLsbD i.val && p h.k[i] e

/-- Whether n bytes at an address meet an element. -/
def KReg.meets (k : KReg) (va n : Nat) (e : WinElem) : Bool := va < k.address e.x + k.esz && k.address e.x < va + n

/-- Whether n bytes at an address meet the buffer or the status word of a collective. -/
def Join.meets (j : Join) (va n : Nat) : Bool :=
  (va < j.base + j.bytes && j.base < va + n) || (j.status != 0 && va < j.status + 8 && j.status < va + n)

/-- Whether the Mandrel commands of a hart, its collectives in a stream and, before a store, its posted stores are performed (R133,
R136). -/
def State.aheadClear (s : State) (h : Hart) (st : Nat) (store : Bool) : Bool :=
  !s.nmcq.any (fun c => c.hart == h.id && c.gang == h.gang) && !(s.postedBy h).any (fun j => j.stream.val == st)
    && !(store && s.postedStores h true (2 ^ st))

/-- Whether the cause of a hart's stall is gone. -/
def State.cleared (s : State) (h : Hart) : Cause → Bool
  | .stream st store =>
    s.aheadClear h st store && !h.fetching fun k _ => k.strm == st
  | .ahead st store => s.aheadClear h st store
  | .buffer va n => !(s.postedBy h).any (fun j => j.meets va n) && !h.fetching fun k e => k.meets va n e
  | .transfers mask far =>
    !s.nmcq.any (fun c => c.hart == h.id && c.gang == h.gang && mask.getLsbD c.stream.val)
      && !(s.postedBy h).any (fun j => mask.getLsbD j.stream.val)
      && h.k.toList.all (fun k => k.inflight == 0 || !mask.getLsbD k.strm)
      && !h.fetching (fun k _ => mask.getLsbD k.strm) && !s.postedStores h far mask.toNat
  | .entries => !s.mxq.any fun e => e.hart == h.id
  | .posting =>
    let es := s.entriesOf (coreOf h.id)
    es.length < 64 && ((es.filter fun e => e.hart == h.id).length < 32
      || !(es.any (fun e => e.hart != h.id)
        || s.harts.any fun x => coreOf x.id == coreOf h.id && x.id != h.id && x.wait == .busy .posting))
  | .settled k => (h.k[k]).inflight == 0
  | .advances changed => h.k.toList.all fun k => k.phase != .valid || k.ctrs &&& changed == 0 || k.inflight < 2
  | .landed k xs => h.win.all fun e => !(e.holders.getLsbD k.val && xs.contains e.x) || e.arrival == .arrived
  | .sectors => s.maySend h.id
  | .acknowledged => h.unacked.toList.all (· == 0)

/-- The state in which a hart's instruction stalls: nothing of it is done, and the hart leaves the issue selector (R353). -/
def State.stallOn (s : State) (c : Cause) : State := { s with cur.wait := .busy c }

/-- The instruction stalls until a cause is gone. -/
def waitFor (c : Cause) : Act Unit := fun s =>
  if s.cleared s.cur c then .ok ((), s) else .error (.stay (s.stallOn c))

/-- An access in a stream waits until the hart's earlier accesses have been performed that R133 and R136 order before it. -/
def waitStream (stream : Nat) (store : Bool) : Act Unit := waitFor (.stream stream store)

/-- The answers of peers that the hart's instruction has used are dropped when it completes. -/
def State.dropPeerData (s : State) : State :=
  if s.peerData.isEmpty then s else { s with peerData := s.peerData.filter fun e => e.1.id != s.cur.id }

/-- The reads that a hart has out at lessors, left by the trap of their instruction: their answers go to nobody. -/
def State.orphanReads (s : State) (id : HartId) : State :=
  { s with link.sent := s.link.sent.map fun r => if r.id == id && !peerStores r.op then { r with id := orphanId id } else r }

/-- A trap taken by the issuing hart (R374, R378, R380, R42, R148). The frame's stores are in stream 0 (R380): entry waits, with the
trap raised, until the hart's earlier engine transfers are performed that R133 and R134 order before them. -/
def State.takeTrap (s : State) (t : Trap) : Host.Outcome State Fault Refusal :=
  let h := s.cur
  let level := takenAt h.prv t.code
  if !(s.cleared h (.stream 0 true) && s.cleared h (.buffer (h.trapSet level).frame 512)) then .next { s with cur.wait := .trap t }
  else
    let detb := t.detb h.lane h.pc.toNat
    let deta := t.detaWord h.ir
    let s := ((({ s with cur := h.leaveLane }).breakLinks h.id).dropPeerData).orphanReads h.id
    s.enter level (t.resume s.cur.pc) s.cur.pc (BitVec.ofNat 64 t.code) deta detb

/-! ### Retirement -/

/-- The hart past an instruction that does not transfer control; lent state is used up (R163, R175). -/
def Hart.retire (h : Hart) : Hart :=
  { h with pc := h.pc + 4, pfxs := h.pfxs.setWidth 15 |>.setWidth 16, undivided := false }

/-- The state past a retired instruction. -/
def State.retire (s : State) : State := { s with cur := s.cur.retire }.dropPeerData

/-- The outcome of an end other than retirement. -/
def Exit.outcome : Exit → Host.Outcome State Fault Refusal
  | .trap t s => s.takeTrap t
  | .stay s => .next s
  | .fault f => .fault f

/-- One instruction: its body, then retirement. -/
def run (s : State) (body : Act Unit) : Host.Outcome State Fault Refusal :=
  match body s with
  | .ok (_, s') => .next s'.retire
  | .error e => e.outcome

/-- The instruction completes in a state of its own. -/
def endAs {α : Type} (f : State → State) : Act α := fun s => .error (.stay (f s.dropPeerData))

/-- The end of a taken control transfer: PC at the target, PFXS.V at 0 (R175). -/
def jumpTo {α : Type} (pc : Word) : Act α := endAs fun s => { s with cur := { s.cur.retire with pc := pc } }

/-- A wait found while data were being read: nothing of the instruction is done, and its requests to lessors stay out. -/
def State.waitOn (s s' : State) (w : Wait) : State := { s with link := s'.link, cur := { s.cur with wait := w } }

/-- The hart waits and executes the same instruction again. -/
def stall {α : Type} (w : Wait) : Act α := fun s => .error (.stay { s with cur.wait := w })

/-! ### Returning from a trap -/

/-- The words of a frame loaded from an address up (R381); the error names the word that failed. -/
def loadWords (r : Req) : Nat → Nat → Act (List Nat)
  | 0, _ => pure []
  | n + 1, va => do
    let s ← get
    match s.probed r .load false va 8 with
    | (.error (.fault k), s) => fun _ => .error (.trap { code := 0x05, deta := va, kind := k } (s.forgetRefused s.cur.part.val))
    | (.error .align, s) => fun _ => .error (.trap { code := 0x06, deta := va } s)
    | (.error .residency, s) => fun _ => .error (.trap { code := 0x07, deta := va } s)
    | (.error (.refused t k), s) => fun _ => .error (.stay (s.freezeCur t k false false 0 0 va))
    | (.error (.stall w), s) => fun _ => .error (.stay { s with cur.wait := w })
    | (.error .unbacked, _) => fun _ => .error (.fault .unbackedAddress)
    | (.ok l, s) =>
      match s.loadAt s.cur.id r.mid l 8 with
      | (.wait w, s) => fun _ => .error (.stay { s with cur.wait := w })
      | (.data c x, s) =>
        if 3 ≤ c then fun _ => .error (.trap { code := 0x08, deta := s.errorAddress l va 8, cls := c } s)
        else do
          set s
          let xs ← loadWords r n (va + 8)
          pure (x :: xs)

/-- The scalar state that the 53 words of a frame beyond s0 hold put back: s1 to s31, a0 to a15, GL, ERIX, FCS, PFXS and GSEED (R381). -/
def Hart.restore (h : Hart) (ws : List Nat) : Hart :=
  let w (i : Nat) : Word := BitVec.ofNat 64 (ws.getD i 0)
  { h with
    s := Vector.ofFn fun i => if i.val = 0 then h.s[(0 : Fin 32)] else w (i.val - 1)
    a := Vector.ofFn fun i => w (31 + i.val)
    gl := BitVec.ofNat 15 (min 16384 (ws.getD 47 0 % 2 ^ 15))
    erix := (w 48).setWidth 14
    fcs := (w 49).setWidth 11 &&& 0x73F#11
    pfxs := (w 50).setWidth 16 &&& 0xFFF8#16
    gseedLo := w 51
    gseedHi := w 52 }

/-- The return from a trap (R381): the frame of this level's set, the saved level, HOLD and PC. -/
def returnFromTrap : Act Unit := do
  let h ← hart
  let t := h.trapSet h.prv
  legal t.inh
  waitStream 0 false
  waitFor (.buffer t.frame 512)
  let ws ← loadWords h.req 53 (t.frame + 8)
  operand (fld (ws.getD 49 0) 10 8 < 6)
  let x := t.tstate.toNat
  let t' := { t with tstate := BitVec.ofNat 64 (putFld (putFld x 7 7 0) 6 6 (fld x 5 5)) }
  updCur fun h => { (h.restore ws).withTrapSet h.prv t' with prv := Level.ofCode (fld x 4 3) }
  endAs fun s => { s with cur.pc := t.tresume }

/-! ### One access of the issuing hart -/

/-- The context of an access for its record: stream, element, residency register, engine. -/
structure Ctx where
  stream : Nat := 0
  elem : Nat := 0
  kreg : Nat := 0
  eng : Bool := false
  /-- The element's address, where the access is to a part of the element (R125). -/
  addr : Option Nat := none
deriving DecidableEq, Repr

/-- What a probe of an access comes to: its location, or the trap or stall of R125 and R369. A refused load or read-modify-write freezes
the hart precisely at the element, a refused store does not (R334): the caller records the freeze. -/
def settle (a : Acc) (c : Ctx) (va : Nat) : Except Miss Loc × State → Act (Except (Target × Nat) Loc)
  | (.error (.fault k), s) =>
    fun _ => .error (.trap { code := 0x05, deta := c.addr.getD va, kind := k, acc := a.code, stream := c.stream, elem := c.elem,
                             kreg := c.kreg, eng := c.eng } (s.forgetRefused s.cur.part.val))
  | (.error .align, s) =>
    fun _ => .error (.trap { code := 0x06, deta := c.addr.getD va, acc := a.code, stream := c.stream, elem := c.elem } s)
  | (.error .residency, s) =>
    fun _ => .error (.trap { code := 0x07, deta := c.addr.getD va, acc := a.code, stream := c.stream, elem := c.elem } s)
  | (.error (.refused t k), s) => fun _ => .ok (.error (t, k), s)
  | (.error (.stall w), s) => fun _ => .error (.stay { s with cur.wait := w })
  | (.error .unbacked, _) => fun _ => .error (.fault .unbackedAddress)
  | (.ok l, s) => fun _ => .ok (.ok l, s)

/-- The location of a scalar access, once nothing of the hart's engines is in its way (R108, R134). -/
def locate (a : Acc) (unaligned : Bool) (c : Ctx) (va n : Nat) : Act (Except (Target × Nat) Loc) := do
  waitFor (.buffer va n)
  let s ← get
  settle a c va (s.probed s.cur.req a unaligned va n)

/-- The location of an access that the ARU probes (R366). -/
def locateAgain (a : Acc) (c : Ctx) (va n : Nat) : Act (Except (Target × Nat) Loc) := do
  waitFor (.buffer va n)
  let s ← get
  settle a c va (s.probeAgain s.cur.req a false va n)

/-- The hart stops at element boundary E, frozen there: ERIX = E for a restartable instruction (R334). -/
def freezeAt {α : Type} (t : Target) (kind : Nat) (c : Ctx) (erix : Option Nat) (va : Nat) : Act α := fun s =>
  let s := match erix with
    | some e => { s with cur.erix := BitVec.ofNat 14 e }
    | none => s
  .error (.stay (s.freezeCur t kind c.eng false c.stream c.elem va))

/-- A scalar load of n bytes (R191, R192): the value, or a trap, a freeze or a wait. -/
def scalarLoad (va n : Nat) (stream : Nat := 0) : Act Nat := do
  waitStream stream false
  match ← locate .load false { stream := stream } va n with
  | .error (t, k) => freezeAt t k { stream := stream } none va
  | .ok l =>
    let s ← get
    match s.loadAt s.cur.id s.cur.id l n with
    | (.wait w, s') => fun _ => .error (.stay (s.waitOn s' w))
    | (.data cls x, s) =>
      set s
      if 3 ≤ cls then raise { code := 0x08, deta := s.errorAddress l va n, cls := cls, stream := stream } else pure x

/-- A scalar store of n bytes (R191, R192, R129): performed, refused with a freeze that is not precise, or lost. -/
def scalarStore (stream va n x : Nat) : Act Unit := do
  waitStream stream true
  match ← locate .store false { stream := stream } va n with
  | .error (t, k) => modify fun s => s.freezeCur t k false true stream 0 va
  | .ok l =>
    let s ← get
    match s.storeAt s.cur.id l n x stream with
    | (.severe, s) =>
      fun _ => .error (.trap { code := 0x08, deta := s.errorAddress l va n, cls := 3, acc := 1, stream := stream } s)
    | (_, s) => set s

end Sys2Proof.Machine
end

