-- ==== Sys2Proof/Machine/Operands.lean ====
section
/-! DEFINITION. Vector operands: type tags (R56), register groups (R55), the checks of R58 and R59, active elements (R176), scaled
elements (R76), and writes to vector and mask destinations with the copy of a prefix (R52, R173). -/

namespace Sys2Proof.Machine

/-! ### Tags -/

/-- Fields of a type tag (R56). -/
def tagFmt (t : Word) : Nat := fld t.toNat 4 0
def tagGroup (t : Word) : Nat := 2 ^ fld t.toNat 9 8
def tagSparse (t : Word) : Bool := t.getLsbD 24
def tagSblk (t : Word) : Nat := fld t.toNat 26 25
def tagScale (t : Word) : Nat := fld t.toNat 31 27
def tagSlen (t : Word) : Nat := fld t.toNat 63 48

/-- A vector operand as an instruction captures it at issue (R58, R77). -/
structure Vec where
  reg : Nat
  group : Nat
  fmt : Fmt
  sparse : Bool
  slen : Nat
  /-- Scale block size in elements, and the scale register with its format. -/
  scale : Option (Nat × Nat × Fmt)
  tag : Word
  /-- The group's bytes as one number (R55). -/
  bits : Nat
deriving DecidableEq, Repr

/-- Element width. -/
def Vec.w (o : Vec) : Nat := o.fmt.width

/-- Elements that the group holds. -/
def Vec.capacity (o : Vec) : Nat := 16384 * o.group / o.w

/-- The bytes of g registers from r up (R55). -/
def Hart.groupBits (h : Hart) (r : Nat) : Nat → Nat
  | 0 => 0
  | g + 1 => (h.v[r % 32]'(Nat.mod_lt _ (by decide))).toNat + 2 ^ 16384 * h.groupBits (r + 1) g

/-- The pairs that a sparse group of g registers holds (R292). -/
def pairCapacity (g w : Nat) : Nat := if w = 64 then 128 * g else 256 * g

/-- The captured operand, when its format and register number pass R58. -/
def Hart.vec? (h : Hart) (r : VReg) : Option Vec :=
  let t := h.tag[r]
  let g := tagGroup t
  match fmtOf h.f (tagFmt t) with
  | none => none
  | some f =>
    if r.val % g != 0 then none
    else
      let sc : Option (Option (Nat × Nat × Fmt)) :=
        if tagSblk t == 0 then some none
        else
          let st := h.tag[tagScale t % 32]'(Nat.mod_lt _ (by decide))
          match fmtOf h.f (tagFmt st) with
          | some sf => if tagFmt st == 0x11 || 0x18 ≤ tagFmt st then some (some (8 * 2 ^ tagSblk t, tagScale t, sf)) else none
          | none => none
      match sc with
      | none => none
      | some sc => some ⟨r.val, g, f, tagSparse t, tagSlen t, sc, t, h.groupBits r.val g⟩

/-- The length check of R58. -/
def Vec.lengthOk (o : Vec) (gl : Nat) : Bool := gl ≤ o.capacity && (!o.sparse || o.slen ≤ pairCapacity o.group o.w)

/-- The check of R58 on the scale elements of an instruction that decodes `n` elements. -/
def Vec.scaleOk (o : Vec) (n : Nat) : Bool :=
  match o.scale with
  | none => true
  | some (b, _, f) => ceilDiv n b ≤ 16384 / f.width

/-- A vector operand read by an instruction: reserved-operand trap when R58 refuses it. -/
def readVec (r : VReg) : Act Vec := do
  let h ← hart
  match h.vec? r with
  | none => reservedOperand
  | some o =>
    operand (o.lengthOk h.gl.toNat)
    pure o

/-- Element e of a group as an encoding. -/
def Vec.elem (o : Vec) (e : Nat) : Nat := o.bits / 2 ^ (e * o.w) % 2 ^ o.w

/-- A scale's value: decoded under R72 and R73, its subnormals kept whatever SUBN says, since R76 names no R74 there: DEDUCED (assumption 83). -/
def Fmt.decodeScale (f : Fmt) (x : Nat) : Val :=
  match f with
  | .float f => ({ f with flush := false } : FloatFmt).decode x
  | f => f.decode x

/-- The decoded scale of element e. -/
def Vec.scaleOf (o : Vec) (h : Hart) (e : Nat) : Option Val :=
  o.scale.map fun (b, r, f) =>
    f.decodeScale ((h.v[r % 32]'(Nat.mod_lt _ (by decide))).toNat / 2 ^ (e / b * f.width) % 2 ^ f.width)

/-- The value of element e, its scale included, and the flags of R76. -/
def Vec.value (o : Vec) (h : Hart) (e : Nat) : Val × Nat :=
  match o.scaleOf h e with
  | none => let v := o.fmt.decode (o.elem e); (v, 0)
  | some s => scaleVal (o.fmt.decode (o.elem e)) s

/-! ### Active elements -/

/-- Bit e of the effective mask (R173, R176). -/
def Hart.maskBit (h : Hart) (m : MReg) (e : Nat) : Bool :=
  (h.rm m).getLsbD e && (!h.lent || ((h.rm h.lentMask).getLsbD e != h.lentInv))

/-- The active elements among lo to n − 1, ascending (R176). -/
def Hart.active (h : Hart) (m : MReg) (lo n : Nat) : List Nat :=
  (rangeFrom lo (n - lo)).filter fun e => h.maskBit m e

/-! ### Writing -/

/-- A number with element e of width w replaced. -/
def putElem (w x e v : Nat) : Nat := x - x / 2 ^ (e * w) % 2 ^ w * 2 ^ (e * w) + v % 2 ^ w * 2 ^ (e * w)

/-- Elements put into a group's bytes. -/
def putElems (w x : Nat) (es : List (Nat × Nat)) : Nat := es.foldl (fun x e => putElem w x e.1 e.2) x

/-- g registers from r up set from one number (R55). -/
def Hart.putGroup (h : Hart) (r : Nat) : Nat → Nat → Hart
  | 0, _ => h
  | g + 1, x =>
    { h with v := h.v.set (r % 32) (BitVec.ofNat 16384 x) (Nat.mod_lt _ (by decide)) }.putGroup (r + 1) g (x / 2 ^ 16384)

/-- A tag put on g registers from r up. -/
def Hart.putTags (h : Hart) (r : Nat) (t : Word) : Nat → Hart
  | 0 => h
  | g + 1 => { h with tag := h.tag.set (r % 32) t (Nat.mod_lt _ (by decide)) }.putTags (r + 1) t g

/-- Elements written to a vector group, and to the copy group with the destination's tag (R52, R173); nothing when GL is 0 (R29). -/
def Hart.writeElems (h : Hart) (d : Vec) (es : List (Nat × Nat)) : Hart :=
  let h' := h.putGroup d.reg d.group (putElems d.w d.bits es)
  if h.lent && h.copyClass == 2 && h.gl != 0 then
    let c := h.copyIndex
    (h'.putGroup c d.group (putElems d.w (h.groupBits c d.group) es)).putTags c d.tag d.group
  else h'

/-- A mask result: bits 0 to n − 1 from a list of set bits, the rest clear (R52). -/
def maskOf (bits : List Nat) : BitVec 16384 := BitVec.ofNat 16384 (bits.foldl (fun x e => x ||| 2 ^ e) 0)

/-- A mask destination written (R52). -/
def writeMask (d : MReg) (bits : List Nat) : Act Unit := updCur fun h => h.wm d (maskOf bits)

/-- FCS flags set (R63). -/
def Hart.flag (h : Hart) (fl : Nat) : Hart := { h with fcs := h.fcs ||| BitVec.ofNat 11 (fl % 64) }

/-- The rounding mode of FCS. -/
def Hart.rmode (h : Hart) : Nat := fld h.fcs.toNat 10 8

/-- One draw of the hart's generator: draw[63:32] (R81, R82). -/
def Hart.draw (h : Hart) : Nat × Hart :=
  let (lo, hi, d) := drawSeed h.gseedLo h.gseedHi
  (d.toNat / 2 ^ 32, { h with gseedLo := lo, gseedHi := hi })

/-- A write through a computation over the active elements in ascending order: results, flags and draws are collected
(R63, R83). `f` gets draw[63:32], which is drawn when `stochastic`. -/
def mapElems (h : Hart) (stochastic : Bool) (f : Hart → Nat → Nat → Nat × Nat) :
    List Nat → List (Nat × Nat) × Nat × Hart
  | [] => ([], 0, h)
  | e :: es =>
    let (d, h1) := if stochastic then h.draw else (0, h)
    let (x, fl) := f h d e
    let (rs, fls, h2) := mapElems h1 stochastic f es
    ((e, x) :: rs, fl ||| fls, h2)

end Sys2Proof.Machine
end

