-- ==== Sys2Proof/Machine/VecBase.lean ====
section
/-! DEFINITION. What vector instructions share (R218 to R223): their pairing with a prefix, the second source of VV and VX forms,
the Skew pass (R375, R400, R401), and writing elements and masks. -/

namespace Sys2Proof.Machine

/-- Checks before a vector instruction with a vector destination (R222, R174). -/
def beginV (vd : VReg) : Act Unit := do
  let h ← hart
  begin false (.masked (.vector vd.val (tagGroup h.tag[vd])))

/-! ### The Skew pass -/

/-- LANE_SUSPECT (R401): at LANETH a record of source 12 is queued and the lane's count begins again. -/
def State.laneSuspect (s : State) (core : Nat) (lane : Nat) : State :=
  let k := core * 16 + lane % 16
  let p := s.partOfCore core
  let th := fld (s.partAt p).errctl.toNat 15 8
  if th != 0 && th ≤ Sparse.get 0 s.laneCount k then
    ({ s with laneCount := Sparse.set 0 s.laneCount k 0 }).report p
      ⟨0, 12, 0, 0, core, 0, core * 2 ^ 32 + lane % 16⟩
  else s

/-- A mismatch counted against a physical lane of a core (R401). -/
def State.laneMismatch (s : State) (core : Nat) (lane : Nat) : State :=
  let k := core * 16 + lane % 16
  ({ s with laneCount := Sparse.set 0 s.laneCount k (Sparse.get 0 s.laneCount k + 1) }).laneSuspect core lane

/-- The vote of the Skew pass over the groups in which some elements run: the first of the elements, which ascend, whose group does not
settle, with the counts of that group and of every group that settles below it (R400, R401). An upset of a group without an active
element changes nothing. -/
def State.skewVote (s : State) (es : List Nat) (groupOf : Nat → Nat) : Option Nat × State :=
  let core := coreOf s.cur.id
  let p := s.partOfCore core
  let phys (g : Nat) : Nat := s.cur.laneBase + g % s.cur.grant.lanes
  let mine := s.upsets.filter fun u => u.hart == s.cur.id && es.any fun e => groupOf e == u.group
  let stop := es.find? fun e => mine.any fun u => !u.settled && u.group == groupOf e
  let met (u : Upset) : Bool := match stop with
    | none => true
    | some e => if u.settled then u.group < groupOf e else u.group == groupOf e
  (stop, (mine.filter met).foldl (fun s u =>
    if u.settled then (s.count p 23 16).laneMismatch core u.lane.val
    else (((s.count p 15 8).laneMismatch core (phys u.group)).laneMismatch core (phys (u.group + 1))).laneMismatch core
      (phys (u.group + 2))) s)

/-- The upsets of the issuing hart that have happened are gone: those of a lane-thread, or else all. -/
def State.dropUpsets (s : State) (lane : Option Nat) : State :=
  { s with upsets := s.upsets.filter fun u => !(u.hart == s.cur.id && (lane.isNone || lane == some u.group)) }

/-- The comparison of an instruction that is not restartable: no effect and code 0x0C on an unresolved mismatch (R375). `w` is the
element width of the reference operand (R400). -/
def skew (es : List Nat) (w : Nat) : Act Unit := fun s =>
  if !s.cur.skew || s.upsets.isEmpty then .ok ((), s)
  else match s.skewVote es (fun e => e * w / 128) with
  | (none, s) => .ok ((), s.dropUpsets none)
  | (some e, s) => .error (.trap { code := 0x0C, elem := e } (s.dropUpsets none))

/-- Where a restartable instruction stops: its element, and whether the Skew vote stops it (R375) or pre-emption (R126). -/
structure Stop where
  elem : Nat
  vote : Bool
deriving DecidableEq, Repr

/-- Whether an element lies below a boundary. -/
def belowStop (stop : Option Nat) (e : Nat) : Bool :=
  match stop with
  | none => true
  | some b => e < b

/-- The comparison of an atomic: the element at which the vote stops it, if any (R375). -/
def skewStop (es : List Nat) (w : Nat) : Act (Option Stop) := fun s =>
  if !s.cur.skew || s.upsets.isEmpty then .ok (none, s)
  else
    let (b, s) := s.skewVote es (fun e => e * w / 128)
    .ok (b.map fun e => ⟨e, true⟩, s.dropUpsets none)

/-- The comparison of a lane-thread's runs under the Skew pass, which run on lanes e, e + 1 and e + 2 mod L: an unresolved one stops the
block at its element (R375, R400). It is made once for a lane-thread, whatever will differ: before its first store, or at its end where
it has none, so that its stores follow it (R150). -/
def compareLane : Act Unit := fun s =>
  match s.cur.lane with
  | none => .ok ((), s)
  | some b =>
    if !s.cur.skew || s.upsets.isEmpty then .ok ((), s)
    else match s.skewVote [b.elem] id with
    | (none, s) => .ok ((), s.dropUpsets (some b.elem))
    | (some e, s) => .error (.trap { code := 0x0C, elem := e } (s.dropUpsets (some e)))

/-- The first of some elements at or above the boundary of an asynchronous stop to come for the issuing hart (R126). -/
def State.asyncStop (s : State) (es : List Nat) : Option Nat :=
  (s.stops.find? fun x => x.1 == s.cur.id).bind fun x => es.find? fun e => x.2 ≤ e

/-- The asynchronous stop of the issuing hart that has happened. -/
def State.dropStop (s : State) : State :=
  { s with stops := s.stops.erase ((s.stops.find? fun x => x.1 == s.cur.id).getD (0, 0)) }

/-- Where a restartable instruction stops, if anywhere: at the boundary of an asynchronous stop, or below it where the vote does not
settle (R126, R375). -/
def elementStop (es : List Nat) (w : Nat) : Act (Option Stop) := fun s =>
  match s.asyncStop es with
  | none => skewStop es w s
  | some b =>
    match skewStop (es.filter (· < b)) w s with
    | .ok (none, s) => .ok (some ⟨b, false⟩, s.dropStop)
    | r => r

/-- A stop at element boundary E with a trap (R126, R128). -/
def stopAt {α : Type} (e : Nat) (t : Trap) : Act α := do
  updCur fun h => { h with erix := BitVec.ofNat 14 e }
  raise t

/-- The end of a restartable instruction whose elements below its stop are done: the trap of the vote, the boundary at which
pre-emption finds it, or its completion (R126, R375). -/
def endStop (stop : Option Stop) (finish : Act Unit) : Act Unit :=
  match stop with
  | none => finish
  | some ⟨e, true⟩ => stopAt e { code := 0x0C, elem := e }
  | some ⟨e, false⟩ => fun s => .error (.stay { s with cur.erix := BitVec.ofNat 14 e })

/-! ### Sources -/

/-- A second source: a vector operand, or a scalar read as one unscaled element of va's format (R220). -/
inductive Src where
  | vec (o : Vec)
  | scalar (f : Fmt) (enc : Nat)
deriving DecidableEq, Repr

/-- The stored encoding at element e. -/
def Src.enc : Src → Nat → Nat
  | .vec o, e => o.elem e
  | .scalar _ x, _ => x

def Src.fmt : Src → Fmt
  | .vec o => o.fmt
  | .scalar f _ => f

/-- The value at element e and the flags of R76. -/
def Src.value (y : Src) (h : Hart) (e : Nat) : Val × Nat :=
  match y with
  | .vec o => o.value h e
  | .scalar f x => (f.decode x, 0)

/-- The scalar operand of a VX form (R220). -/
def scalarSrc (h : Hart) (a : Vec) (sb : SReg) : Src := .scalar a.fmt ((h.rs sb).toNat % 2 ^ a.w)

/-- An encoding of an integer format as an integer (R68). -/
def Fmt.int (f : Fmt) (x : Nat) : Int :=
  match f with
  | .sint w => sext w x
  | f => ((x % 2 ^ f.width : Nat) : Int)

/-- An operand of the integer class that is not scaled (R219). -/
def Vec.isInt (o : Vec) : Bool := o.fmt.isInt && o.scale.isNone

/-- A source of the floating class whose scales can be decoded for n elements (R58, R219). -/
def Vec.isFloat (o : Vec) (n : Nat) : Bool := o.fmt.isFloat && o.scaleOk n

/-- A destination of the floating class: IEEE or narrow, not scaled (R219, R225). -/
def Vec.floatDest? (o : Vec) : Option FloatFmt :=
  match o.fmt with
  | .float f => if o.scale.isNone then some f else none
  | _ => none

/-! ### Results -/

/-- The active elements of an instruction that is not restartable. -/
def Hart.lanesOf (h : Hart) (m : MReg) : List Nat := h.active m 0 h.gl.toNat

/-- Element results computed in ascending order and written with their flags (R63, R83, R223). -/
def elementwise (d : Vec) (m : MReg) (stochastic : Bool) (f : Hart → Nat → Nat → Nat × Nat) : Act Unit := do
  let h ← hart
  let es := h.lanesOf m
  skew es d.w
  let (rs, fl, h') := mapElems h stochastic f es
  updCur fun _ => (h'.writeElems d rs).flag fl

/-- A mask result written, unless GL is 0 (R29, R223), with its flags. -/
def maskResult (md : MReg) (bits : List Nat) (fl : Nat) : Act Unit := do
  let h ← hart
  if h.gl == 0 then pure () else updCur fun h => (h.wm md (maskOf bits)).flag fl

end Sys2Proof.Machine
end

