-- ==== Sys2Proof/Machine/VecInt.lean ====
section
/-! DEFINITION. Vector integer instructions: majors 0x18 and 0x1A (R224) and the integer forms of 0x1C (R226). -/

namespace Sys2Proof.Machine

/-- Bitwise operations on two's-complement values of unbounded width (R224): every operand lies within 128 bits. -/
def intAnd (x y : Int) : Int := sext 256 (wrap 256 x &&& wrap 256 y)
def intOr (x y : Int) : Int := sext 256 (wrap 256 x ||| wrap 256 y)
def intXor (x y : Int) : Int := sext 256 (wrap 256 x ^^^ wrap 256 y)

/-- An exact integer written to a destination: wrapped, or clamped with SAT (R69, R224). -/
def intResult (f : Fmt) (saturating : Bool) (r : Int) : Nat × Nat :=
  if saturating then
    let (c, sat) := clampInt f.isSigned f.width r
    (wrap f.width c, if sat then flSAT else 0)
  else (wrap f.width r, 0)

/-- The mould of R224 for a VV or VX form: the exact result from the widths of va and vd, va's encoding and both values. -/
def intBinary (vd va : VReg) (m : MReg) (saturating : Bool) (src : Vec → Act Src)
    (r : (wa wd u : Nat) → (x y : Int) → Int) : Act Unit := do
  beginV vd
  let d ← readVec vd
  let a ← readVec va
  let b ← src a
  operand (d.isInt && a.isInt && b.fmt.isInt)
  elementwise d m false fun _ _ e =>
    intResult d.fmt saturating (r a.w d.w (a.elem e) (a.fmt.int (a.elem e)) (b.fmt.int (b.enc e)))

/-- The second source of a VV form with an unscaled integer operand. -/
def intVec (vb : VReg) (_ : Vec) : Act Src := do
  let b ← readVec vb
  operand b.isInt
  pure (.vec b)

/-- The second source of a VX form (R220). -/
def scalarArg (sb : SReg) (a : Vec) : Act Src := do
  let h ← hart
  pure (scalarSrc h a sb)

/-- The result of VADD (R224). -/
def vaddResult : (wa wd u : Nat) → (x y : Int) → Int := fun _ _ _ x y => x + y

/-- VADD (R224). -/
def execVadd (vd va vb : VReg) (_ca _cb : Bool) (m : MReg) (s : State) : Host.Outcome State Fault Refusal :=
  run s (intBinary vd va m false (intVec vb) vaddResult)

/-- VADD with a scalar (R220, R224). -/
def execVaddVx (vd va : VReg) (sb : SReg) (m : MReg) (s : State) : Host.Outcome State Fault Refusal :=
  run s (intBinary vd va m false (scalarArg sb) vaddResult)

/-- The result of VSUB (R224). -/
def vsubResult : (wa wd u : Nat) → (x y : Int) → Int := fun _ _ _ x y => x - y

/-- VSUB (R224). -/
def execVsub (vd va vb : VReg) (_ca _cb : Bool) (m : MReg) (s : State) : Host.Outcome State Fault Refusal :=
  run s (intBinary vd va m false (intVec vb) vsubResult)

/-- VSUB with a scalar (R220, R224). -/
def execVsubVx (vd va : VReg) (sb : SReg) (m : MReg) (s : State) : Host.Outcome State Fault Refusal :=
  run s (intBinary vd va m false (scalarArg sb) vsubResult)

/-- The result of VRSUB (R224). -/
def vrsubResult : (wa wd u : Nat) → (x y : Int) → Int := fun _ _ _ x y => y - x

/-- VRSUB (R224). -/
def execVrsub (vd va vb : VReg) (_ca _cb : Bool) (m : MReg) (s : State) : Host.Outcome State Fault Refusal :=
  run s (intBinary vd va m false (intVec vb) vrsubResult)

/-- VRSUB with a scalar (R220, R224). -/
def execVrsubVx (vd va : VReg) (sb : SReg) (m : MReg) (s : State) : Host.Outcome State Fault Refusal :=
  run s (intBinary vd va m false (scalarArg sb) vrsubResult)

/-- The result of VMUL (R224). -/
def vmulResult : (wa wd u : Nat) → (x y : Int) → Int := fun _ _ _ x y => x * y

/-- VMUL (R224). -/
def execVmul (vd va vb : VReg) (_ca _cb : Bool) (m : MReg) (s : State) : Host.Outcome State Fault Refusal :=
  run s (intBinary vd va m false (intVec vb) vmulResult)

/-- VMUL with a scalar (R220, R224). -/
def execVmulVx (vd va : VReg) (sb : SReg) (m : MReg) (s : State) : Host.Outcome State Fault Refusal :=
  run s (intBinary vd va m false (scalarArg sb) vmulResult)

/-- The result of VMULH (R224). -/
def vmulhResult : (wa wd u : Nat) → (x y : Int) → Int := fun _ wd _ x y => x * y / 2 ^ wd

/-- VMULH (R224). -/
def execVmulh (vd va vb : VReg) (_ca _cb : Bool) (m : MReg) (s : State) : Host.Outcome State Fault Refusal :=
  run s (intBinary vd va m false (intVec vb) vmulhResult)

/-- VMULH with a scalar (R220, R224). -/
def execVmulhVx (vd va : VReg) (sb : SReg) (m : MReg) (s : State) : Host.Outcome State Fault Refusal :=
  run s (intBinary vd va m false (scalarArg sb) vmulhResult)

/-- The result of VDIV (R224). -/
def vdivResult : (wa wd u : Nat) → (x y : Int) → Int := fun _ wd _ x y => if y = 0 then 2 ^ wd - 1 else x.tdiv y

/-- VDIV (R224). -/
def execVdiv (vd va vb : VReg) (_ca _cb : Bool) (m : MReg) (s : State) : Host.Outcome State Fault Refusal :=
  run s (intBinary vd va m false (intVec vb) vdivResult)

/-- VDIV with a scalar (R220, R224). -/
def execVdivVx (vd va : VReg) (sb : SReg) (m : MReg) (s : State) : Host.Outcome State Fault Refusal :=
  run s (intBinary vd va m false (scalarArg sb) vdivResult)

/-- The result of VREM (R224). -/
def vremResult : (wa wd u : Nat) → (x y : Int) → Int := fun _ _ _ x y => if y = 0 then x else x.tmod y

/-- VREM (R224). -/
def execVrem (vd va vb : VReg) (_ca _cb : Bool) (m : MReg) (s : State) : Host.Outcome State Fault Refusal :=
  run s (intBinary vd va m false (intVec vb) vremResult)

/-- VREM with a scalar (R220, R224). -/
def execVremVx (vd va : VReg) (sb : SReg) (m : MReg) (s : State) : Host.Outcome State Fault Refusal :=
  run s (intBinary vd va m false (scalarArg sb) vremResult)

/-- The result of VMIN (R224). -/
def vminResult : (wa wd u : Nat) → (x y : Int) → Int := fun _ _ _ x y => min x y

/-- VMIN (R224). -/
def execVmin (vd va vb : VReg) (_ca _cb : Bool) (m : MReg) (s : State) : Host.Outcome State Fault Refusal :=
  run s (intBinary vd va m false (intVec vb) vminResult)

/-- VMIN with a scalar (R220, R224). -/
def execVminVx (vd va : VReg) (sb : SReg) (m : MReg) (s : State) : Host.Outcome State Fault Refusal :=
  run s (intBinary vd va m false (scalarArg sb) vminResult)

/-- The result of VMAX (R224). -/
def vmaxResult : (wa wd u : Nat) → (x y : Int) → Int := fun _ _ _ x y => max x y

/-- VMAX (R224). -/
def execVmax (vd va vb : VReg) (_ca _cb : Bool) (m : MReg) (s : State) : Host.Outcome State Fault Refusal :=
  run s (intBinary vd va m false (intVec vb) vmaxResult)

/-- VMAX with a scalar (R220, R224). -/
def execVmaxVx (vd va : VReg) (sb : SReg) (m : MReg) (s : State) : Host.Outcome State Fault Refusal :=
  run s (intBinary vd va m false (scalarArg sb) vmaxResult)

/-- The result of VAND (R224). -/
def vandResult : (wa wd u : Nat) → (x y : Int) → Int := fun _ _ _ x y => intAnd x y

/-- VAND (R224). -/
def execVand (vd va vb : VReg) (_ca _cb : Bool) (m : MReg) (s : State) : Host.Outcome State Fault Refusal :=
  run s (intBinary vd va m false (intVec vb) vandResult)

/-- VAND with a scalar (R220, R224). -/
def execVandVx (vd va : VReg) (sb : SReg) (m : MReg) (s : State) : Host.Outcome State Fault Refusal :=
  run s (intBinary vd va m false (scalarArg sb) vandResult)

/-- The result of VOR (R224). -/
def vorResult : (wa wd u : Nat) → (x y : Int) → Int := fun _ _ _ x y => intOr x y

/-- VOR (R224). -/
def execVor (vd va vb : VReg) (_ca _cb : Bool) (m : MReg) (s : State) : Host.Outcome State Fault Refusal :=
  run s (intBinary vd va m false (intVec vb) vorResult)

/-- VOR with a scalar (R220, R224). -/
def execVorVx (vd va : VReg) (sb : SReg) (m : MReg) (s : State) : Host.Outcome State Fault Refusal :=
  run s (intBinary vd va m false (scalarArg sb) vorResult)

/-- The result of VXOR (R224). -/
def vxorResult : (wa wd u : Nat) → (x y : Int) → Int := fun _ _ _ x y => intXor x y

/-- VXOR (R224). -/
def execVxor (vd va vb : VReg) (_ca _cb : Bool) (m : MReg) (s : State) : Host.Outcome State Fault Refusal :=
  run s (intBinary vd va m false (intVec vb) vxorResult)

/-- VXOR with a scalar (R220, R224). -/
def execVxorVx (vd va : VReg) (sb : SReg) (m : MReg) (s : State) : Host.Outcome State Fault Refusal :=
  run s (intBinary vd va m false (scalarArg sb) vxorResult)

/-- The result of VSLL (R224). -/
def vsllResult : (wa wd u : Nat) → (x y : Int) → Int := fun wa _ _ x y => x * 2 ^ (y % wa).toNat

/-- VSLL (R224). -/
def execVsll (vd va vb : VReg) (_ca _cb : Bool) (m : MReg) (s : State) : Host.Outcome State Fault Refusal :=
  run s (intBinary vd va m false (intVec vb) vsllResult)

/-- VSLL with a scalar (R220, R224). -/
def execVsllVx (vd va : VReg) (sb : SReg) (m : MReg) (s : State) : Host.Outcome State Fault Refusal :=
  run s (intBinary vd va m false (scalarArg sb) vsllResult)

/-- The result of VSRL (R224). -/
def vsrlResult : (wa wd u : Nat) → (x y : Int) → Int := fun wa _ u _ y => (u / 2 ^ (y % wa).toNat : Nat)

/-- VSRL (R224). -/
def execVsrl (vd va vb : VReg) (_ca _cb : Bool) (m : MReg) (s : State) : Host.Outcome State Fault Refusal :=
  run s (intBinary vd va m false (intVec vb) vsrlResult)

/-- VSRL with a scalar (R220, R224). -/
def execVsrlVx (vd va : VReg) (sb : SReg) (m : MReg) (s : State) : Host.Outcome State Fault Refusal :=
  run s (intBinary vd va m false (scalarArg sb) vsrlResult)

/-- The result of VSRA (R224). -/
def vsraResult : (wa wd u : Nat) → (x y : Int) → Int := fun wa _ _ x y => x / 2 ^ (y % wa).toNat

/-- VSRA (R224). -/
def execVsra (vd va vb : VReg) (_ca _cb : Bool) (m : MReg) (s : State) : Host.Outcome State Fault Refusal :=
  run s (intBinary vd va m false (intVec vb) vsraResult)

/-- VSRA with a scalar (R220, R224). -/
def execVsraVx (vd va : VReg) (sb : SReg) (m : MReg) (s : State) : Host.Outcome State Fault Refusal :=
  run s (intBinary vd va m false (scalarArg sb) vsraResult)

/-- The result of VADDS (R224). -/
def vaddsResult : (wa wd u : Nat) → (x y : Int) → Int := fun _ _ _ x y => x + y

/-- VADDS (R224). -/
def execVadds (vd va vb : VReg) (_ca _cb : Bool) (m : MReg) (s : State) : Host.Outcome State Fault Refusal :=
  run s (intBinary vd va m true (intVec vb) vaddsResult)

/-- VADDS with a scalar (R220, R224). -/
def execVaddsVx (vd va : VReg) (sb : SReg) (m : MReg) (s : State) : Host.Outcome State Fault Refusal :=
  run s (intBinary vd va m true (scalarArg sb) vaddsResult)

/-- The result of VSUBS (R224). -/
def vsubsResult : (wa wd u : Nat) → (x y : Int) → Int := fun _ _ _ x y => x - y

/-- VSUBS (R224). -/
def execVsubs (vd va vb : VReg) (_ca _cb : Bool) (m : MReg) (s : State) : Host.Outcome State Fault Refusal :=
  run s (intBinary vd va m true (intVec vb) vsubsResult)

/-- VSUBS with a scalar (R220, R224). -/
def execVsubsVx (vd va : VReg) (sb : SReg) (m : MReg) (s : State) : Host.Outcome State Fault Refusal :=
  run s (intBinary vd va m true (scalarArg sb) vsubsResult)

/-- The result of VMULS (R224). -/
def vmulsResult : (wa wd u : Nat) → (x y : Int) → Int := fun _ _ _ x y => x * y

/-- VMULS (R224). -/
def execVmuls (vd va vb : VReg) (_ca _cb : Bool) (m : MReg) (s : State) : Host.Outcome State Fault Refusal :=
  run s (intBinary vd va m true (intVec vb) vmulsResult)

/-- VMULS with a scalar (R220, R224). -/
def execVmulsVx (vd va : VReg) (sb : SReg) (m : MReg) (s : State) : Host.Outcome State Fault Refusal :=
  run s (intBinary vd va m true (scalarArg sb) vmulsResult)

/-- The result of VAVG (R224). -/
def vavgResult : (wa wd u : Nat) → (x y : Int) → Int := fun _ _ _ x y => (x + y + 1) / 2

/-- VAVG (R224). -/
def execVavg (vd va vb : VReg) (_ca _cb : Bool) (m : MReg) (s : State) : Host.Outcome State Fault Refusal :=
  run s (intBinary vd va m false (intVec vb) vavgResult)

/-- VAVG with a scalar (R220, R224). -/
def execVavgVx (vd va : VReg) (sb : SReg) (m : MReg) (s : State) : Host.Outcome State Fault Refusal :=
  run s (intBinary vd va m false (scalarArg sb) vavgResult)

/-- The result of VABSD (R224). -/
def vabsdResult : (wa wd u : Nat) → (x y : Int) → Int := fun _ _ _ x y => (x - y).natAbs

/-- VABSD (R224). -/
def execVabsd (vd va vb : VReg) (_ca _cb : Bool) (m : MReg) (s : State) : Host.Outcome State Fault Refusal :=
  run s (intBinary vd va m false (intVec vb) vabsdResult)

/-- VABSD with a scalar (R220, R224). -/
def execVabsdVx (vd va : VReg) (sb : SReg) (m : MReg) (s : State) : Host.Outcome State Fault Refusal :=
  run s (intBinary vd va m false (scalarArg sb) vabsdResult)

/-- VABS (R224). -/
def execVabs (vd va : VReg) (_ca : Bool) (m : MReg) (s : State) : Host.Outcome State Fault Refusal :=
  run s (intBinary vd va m false (fun a => pure (.vec a)) (fun _ _ _ x _ => x.natAbs))

/-- VPOPC (R224). -/
def execVpopc (vd va : VReg) (_ca : Bool) (m : MReg) (s : State) : Host.Outcome State Fault Refusal :=
  run s (intBinary vd va m false (fun a => pure (.vec a)) (fun wa _ u _ _ => popcount wa u))

/-- VCLZ (R224). -/
def execVclz (vd va : VReg) (_ca : Bool) (m : MReg) (s : State) : Host.Outcome State Fault Refusal :=
  run s (intBinary vd va m false (fun a => pure (.vec a)) (fun wa _ u _ _ => wa - bitLength wa u))

/-- The mould of the integer forms of R226: vd is the third source. -/
def intFused (vd va vb : VReg) (m : MReg) (saturating : Bool) (r : (x y d : Int) → Int) : Act Unit := do
  beginV vd
  let d ← readVec vd
  let a ← readVec va
  let b ← readVec vb
  operand (d.isInt && a.isInt && b.isInt)
  elementwise d m false fun _ _ e =>
    intResult d.fmt saturating (r (a.fmt.int (a.elem e)) (b.fmt.int (b.elem e)) (d.fmt.int (d.elem e)))

/-- VMADD (R226). -/
def execVmadd (vd va vb : VReg) (_ca _cb : Bool) (m : MReg) (s : State) : Host.Outcome State Fault Refusal :=
  run s (intFused vd va vb m false fun x y d => x * y + d)

/-- VMADDS (R226). -/
def execVmadds (vd va vb : VReg) (_ca _cb : Bool) (m : MReg) (s : State) : Host.Outcome State Fault Refusal :=
  run s (intFused vd va vb m true fun x y d => x * y + d)

/-- VNMSUB (R226). -/
def execVnmsub (vd va vb : VReg) (_ca _cb : Bool) (m : MReg) (s : State) : Host.Outcome State Fault Refusal :=
  run s (intFused vd va vb m false fun x y d => d - x * y)

end Sys2Proof.Machine
end

