-- ==== Sys2Proof/Machine/VecFloat.lean ====
section
/-! DEFINITION. Vector floating instructions: majors 0x19 and 0x1B (R225), the floating forms of 0x1C (R226), and the compares of
0x1D (R227, R228). -/

namespace Sys2Proof.Machine

/-- The mould of R225: one rounding of the exact result, from the values, y's stored sign bit and the mode. -/
def floatBinary (vd va : VReg) (m : MReg) (src : Vec → Act Src)
    (r : (mode : Nat) → (x y : Val) → (ySign : Bool) → Res × Nat) : Act Unit := do
  beginV vd
  let h ← hart
  let d ← readVec vd
  let a ← readVec va
  let b ← src a
  let n := h.gl.toNat
  operand (a.isFloat n && b.fmt.isFloat)
  match d.floatDest? with
  | none => reservedOperand
  | some f =>
    let mode := h.rmode
    elementwise d m (mode == 5) fun h draw e =>
      let (x, fx) := a.value h e
      let (y, fy) := b.value h e
      let sign := b.fmt.isSigned && b.enc e / 2 ^ (b.fmt.width - 1) % 2 == 1
      let (z, fz) := r mode x y sign
      let (c, fc) := f.round mode draw z
      (c, fx ||| fy ||| fz ||| fc)

/-- The second source of a VV form of the floating class. -/
def floatVec (vb : VReg) (_ : Vec) : Act Src := do
  let h ← hart
  let b ← readVec vb
  operand (b.isFloat h.gl.toNat)
  pure (.vec b)

/-- |v| with a sign. -/
def Val.withSign (v : Val) (neg : Bool) : Val :=
  match v with
  | .nan s => .nan s
  | .inf _ => .inf neg
  | .fin _ m e => .fin neg m e

/-- A value passed on: a signalling NaN sets NV (R71). -/
def passRes (v : Val) : Res × Nat := (v.toRes, v.sigFlag)

/-- A pair of a value and flags as a result to round. -/
def toResult (p : Val × Nat) : Res × Nat := (p.1.toRes, p.2)

/-- The result of VFADD (R225). -/
def vfaddResult : (mode : Nat) → (x y : Val) → (ySign : Bool) → Res × Nat := fun mode x y _ => addRes mode x y

/-- VFADD (R225). -/
def execVfadd (vd va vb : VReg) (_ca _cb : Bool) (m : MReg) (s : State) : Host.Outcome State Fault Refusal :=
  run s (floatBinary vd va m (floatVec vb) vfaddResult)

/-- VFADD with a scalar (R220, R225). -/
def execVfaddVx (vd va : VReg) (sb : SReg) (m : MReg) (s : State) : Host.Outcome State Fault Refusal :=
  run s (floatBinary vd va m (scalarArg sb) vfaddResult)

/-- The result of VFSUB (R225). -/
def vfsubResult : (mode : Nat) → (x y : Val) → (ySign : Bool) → Res × Nat := fun mode x y _ => addRes mode x y.neg

/-- VFSUB (R225). -/
def execVfsub (vd va vb : VReg) (_ca _cb : Bool) (m : MReg) (s : State) : Host.Outcome State Fault Refusal :=
  run s (floatBinary vd va m (floatVec vb) vfsubResult)

/-- VFSUB with a scalar (R220, R225). -/
def execVfsubVx (vd va : VReg) (sb : SReg) (m : MReg) (s : State) : Host.Outcome State Fault Refusal :=
  run s (floatBinary vd va m (scalarArg sb) vfsubResult)

/-- The result of VFRSUB (R225). -/
def vfrsubResult : (mode : Nat) → (x y : Val) → (ySign : Bool) → Res × Nat := fun mode x y _ => addRes mode y x.neg

/-- VFRSUB (R225). -/
def execVfrsub (vd va vb : VReg) (_ca _cb : Bool) (m : MReg) (s : State) : Host.Outcome State Fault Refusal :=
  run s (floatBinary vd va m (floatVec vb) vfrsubResult)

/-- VFRSUB with a scalar (R220, R225). -/
def execVfrsubVx (vd va : VReg) (sb : SReg) (m : MReg) (s : State) : Host.Outcome State Fault Refusal :=
  run s (floatBinary vd va m (scalarArg sb) vfrsubResult)

/-- The result of VFMUL (R225). -/
def vfmulResult : (mode : Nat) → (x y : Val) → (ySign : Bool) → Res × Nat := fun _ x y _ => mulRes x y

/-- VFMUL (R225). -/
def execVfmul (vd va vb : VReg) (_ca _cb : Bool) (m : MReg) (s : State) : Host.Outcome State Fault Refusal :=
  run s (floatBinary vd va m (floatVec vb) vfmulResult)

/-- VFMUL with a scalar (R220, R225). -/
def execVfmulVx (vd va : VReg) (sb : SReg) (m : MReg) (s : State) : Host.Outcome State Fault Refusal :=
  run s (floatBinary vd va m (scalarArg sb) vfmulResult)

/-- The result of VFDIV (R225). -/
def vfdivResult : (mode : Nat) → (x y : Val) → (ySign : Bool) → Res × Nat := fun _ x y _ => divRes x y

/-- VFDIV (R225). -/
def execVfdiv (vd va vb : VReg) (_ca _cb : Bool) (m : MReg) (s : State) : Host.Outcome State Fault Refusal :=
  run s (floatBinary vd va m (floatVec vb) vfdivResult)

/-- VFDIV with a scalar (R220, R225). -/
def execVfdivVx (vd va : VReg) (sb : SReg) (m : MReg) (s : State) : Host.Outcome State Fault Refusal :=
  run s (floatBinary vd va m (scalarArg sb) vfdivResult)

/-- The result of VFMIN (R225). -/
def vfminResult : (mode : Nat) → (x y : Val) → (ySign : Bool) → Res × Nat := fun _ x y _ => toResult (minVal x y)

/-- VFMIN (R225). -/
def execVfmin (vd va vb : VReg) (_ca _cb : Bool) (m : MReg) (s : State) : Host.Outcome State Fault Refusal :=
  run s (floatBinary vd va m (floatVec vb) vfminResult)

/-- VFMIN with a scalar (R220, R225). -/
def execVfminVx (vd va : VReg) (sb : SReg) (m : MReg) (s : State) : Host.Outcome State Fault Refusal :=
  run s (floatBinary vd va m (scalarArg sb) vfminResult)

/-- The result of VFMAX (R225). -/
def vfmaxResult : (mode : Nat) → (x y : Val) → (ySign : Bool) → Res × Nat := fun _ x y _ => toResult (maxVal x y)

/-- VFMAX (R225). -/
def execVfmax (vd va vb : VReg) (_ca _cb : Bool) (m : MReg) (s : State) : Host.Outcome State Fault Refusal :=
  run s (floatBinary vd va m (floatVec vb) vfmaxResult)

/-- VFMAX with a scalar (R220, R225). -/
def execVfmaxVx (vd va : VReg) (sb : SReg) (m : MReg) (s : State) : Host.Outcome State Fault Refusal :=
  run s (floatBinary vd va m (scalarArg sb) vfmaxResult)

/-- The result of VFSGNJ (R225). -/
def vfsgnjResult : (mode : Nat) → (x y : Val) → (ySign : Bool) → Res × Nat := fun _ x y sgn => ((x.withSign sgn).toRes, x.sigFlag ||| y.sigFlag)

/-- VFSGNJ (R225). -/
def execVfsgnj (vd va vb : VReg) (_ca _cb : Bool) (m : MReg) (s : State) : Host.Outcome State Fault Refusal :=
  run s (floatBinary vd va m (floatVec vb) vfsgnjResult)

/-- VFSGNJ with a scalar (R220, R225). -/
def execVfsgnjVx (vd va : VReg) (sb : SReg) (m : MReg) (s : State) : Host.Outcome State Fault Refusal :=
  run s (floatBinary vd va m (scalarArg sb) vfsgnjResult)

/-- VFSQRT (R225). -/
def execVfsqrt (vd va : VReg) (_ca : Bool) (m : MReg) (s : State) : Host.Outcome State Fault Refusal :=
  run s (floatBinary vd va m (fun a => pure (.vec a)) fun _ x _ _ => sqrtRes x)

/-- VFABS (R225). -/
def execVfabs (vd va : VReg) (_ca : Bool) (m : MReg) (s : State) : Host.Outcome State Fault Refusal :=
  run s (floatBinary vd va m (fun a => pure (.vec a)) fun _ x _ _ => passRes (x.withSign false))

/-- VFNEG (R225). -/
def execVfneg (vd va : VReg) (_ca : Bool) (m : MReg) (s : State) : Host.Outcome State Fault Refusal :=
  run s (floatBinary vd va m (fun a => pure (.vec a)) fun _ x _ _ => passRes x.neg)

/-- The mould of the floating forms of R226. -/
def floatFused (vd va vb : VReg) (m : MReg) (r : (mode : Nat) → (x y d : Val) → Res × Nat) : Act Unit := do
  beginV vd
  let h ← hart
  let d ← readVec vd
  let a ← readVec va
  let b ← readVec vb
  let n := h.gl.toNat
  operand (a.isFloat n && b.isFloat n)
  match d.floatDest? with
  | none => reservedOperand
  | some f =>
    let mode := h.rmode
    elementwise d m (mode == 5) fun h draw e =>
      let (x, fx) := a.value h e
      let (y, fy) := b.value h e
      let (z, fz) := r mode x y (f.decode (d.elem e))
      let (c, fc) := f.round mode draw z
      (c, fx ||| fy ||| fz ||| fc)

/-- VFMA (R226). -/
def execVfma (vd va vb : VReg) (_ca _cb : Bool) (m : MReg) (s : State) : Host.Outcome State Fault Refusal :=
  run s (floatFused vd va vb m fun mode x y d => fmaRes mode x y d)

/-- VFMS (R226). -/
def execVfms (vd va vb : VReg) (_ca _cb : Bool) (m : MReg) (s : State) : Host.Outcome State Fault Refusal :=
  run s (floatFused vd va vb m fun mode x y d => fmaRes mode x y d.neg)

/-- VFNMA (R226). -/
def execVfnma (vd va vb : VReg) (_ca _cb : Bool) (m : MReg) (s : State) : Host.Outcome State Fault Refusal :=
  run s (floatFused vd va vb m fun mode x y d => fmaRes mode x.neg y d)

/-- VFNMS (R226). -/
def execVfnms (vd va vb : VReg) (_ca _cb : Bool) (m : MReg) (s : State) : Host.Outcome State Fault Refusal :=
  run s (floatFused vd va vb m fun mode x y d => fmaRes mode x.neg y d.neg)

/-- The relations of R227. -/
inductive Rel where
  | eq
  | ne
  | lt
  | le
  | gt
  | ge
  | un
deriving DecidableEq, Repr

/-- Whether a relation holds of an ordering. -/
def Rel.holds : Rel → Ordering → Bool
  | .eq, o => o == .eq
  | .ne, o => o != .eq
  | .lt, o => o == .lt
  | .le, o => o != .gt
  | .gt, o => o == .gt
  | .ge, o => o != .lt
  | .un, _ => false

/-- Whether a relation signals a quiet NaN (R227). -/
def Rel.signals : Rel → Bool
  | .lt => true
  | .le => true
  | .gt => true
  | .ge => true
  | _ => false

/-- One comparison of floating values: the bit and its flags (R227). -/
def Rel.compare (r : Rel) (x y : Val) : Bool × Nat :=
  if x.isNan || y.isNan then
    (r == .ne || r == .un, (if r.signals then flNV else 0) ||| x.sigFlag ||| y.sigFlag)
  else (r.holds (x.cmp y), 0)

/-- The mould of R227. DESIGN CHOICE (assumption 75): a scaled source of an integer class traps, as R219 has it where an entry requires that
class. -/
def compareOp (md : MReg) (va : VReg) (m : MReg) (src : Vec → Act Src) (rel : Rel) : Act Unit := do
  begin false (.masked .mask)
  let h ← hart
  let a ← readVec va
  let b ← src a
  let n := h.gl.toNat
  let bOk := match b with
    | .vec o => o.scaleOk n
    | .scalar _ _ => true
  let bScaled := match b with
    | .vec o => o.scale.isSome
    | .scalar _ _ => false
  operand ((a.isInt && b.fmt.isInt && !bScaled) || (a.isFloat n && b.fmt.isFloat && bOk))
  let es := h.lanesOf m
  skew es a.w
  let (bits, fl) := es.foldl (fun (acc : List Nat × Nat) e =>
    let (hit, fe) :=
      if a.fmt.isInt then (rel.holds (Ord.compare (a.fmt.int (a.elem e)) (b.fmt.int (b.enc e))), 0)
      else
        let (x, fx) := a.value h e
        let (y, fy) := b.value h e
        let (c, fc) := rel.compare x y
        (c, fx ||| fy ||| fc)
    (if hit then e :: acc.1 else acc.1, acc.2 ||| fe)) ([], 0)
  maskResult md bits fl

/-- The second source of a VV compare. -/
def anyVec (vb : VReg) (_ : Vec) : Act Src := do
  let b ← readVec vb
  pure (.vec b)

/-- VCMP.eq (R227). -/
def execVcmpEq (md : MReg) (va vb : VReg) (_ca _cb : Bool) (m : MReg) (s : State) : Host.Outcome State Fault Refusal :=
  run s (compareOp md va m (anyVec vb) .eq)

/-- VCMP.eq with a scalar (R220, R227). -/
def execVcmpEqVx (md : MReg) (va : VReg) (sb : SReg) (m : MReg) (s : State) : Host.Outcome State Fault Refusal :=
  run s (compareOp md va m (scalarArg sb) .eq)

/-- VCMP.ne (R227). -/
def execVcmpNe (md : MReg) (va vb : VReg) (_ca _cb : Bool) (m : MReg) (s : State) : Host.Outcome State Fault Refusal :=
  run s (compareOp md va m (anyVec vb) .ne)

/-- VCMP.ne with a scalar (R220, R227). -/
def execVcmpNeVx (md : MReg) (va : VReg) (sb : SReg) (m : MReg) (s : State) : Host.Outcome State Fault Refusal :=
  run s (compareOp md va m (scalarArg sb) .ne)

/-- VCMP.lt (R227). -/
def execVcmpLt (md : MReg) (va vb : VReg) (_ca _cb : Bool) (m : MReg) (s : State) : Host.Outcome State Fault Refusal :=
  run s (compareOp md va m (anyVec vb) .lt)

/-- VCMP.lt with a scalar (R220, R227). -/
def execVcmpLtVx (md : MReg) (va : VReg) (sb : SReg) (m : MReg) (s : State) : Host.Outcome State Fault Refusal :=
  run s (compareOp md va m (scalarArg sb) .lt)

/-- VCMP.le (R227). -/
def execVcmpLe (md : MReg) (va vb : VReg) (_ca _cb : Bool) (m : MReg) (s : State) : Host.Outcome State Fault Refusal :=
  run s (compareOp md va m (anyVec vb) .le)

/-- VCMP.le with a scalar (R220, R227). -/
def execVcmpLeVx (md : MReg) (va : VReg) (sb : SReg) (m : MReg) (s : State) : Host.Outcome State Fault Refusal :=
  run s (compareOp md va m (scalarArg sb) .le)

/-- VCMP.gt (R227). -/
def execVcmpGt (md : MReg) (va vb : VReg) (_ca _cb : Bool) (m : MReg) (s : State) : Host.Outcome State Fault Refusal :=
  run s (compareOp md va m (anyVec vb) .gt)

/-- VCMP.gt with a scalar (R220, R227). -/
def execVcmpGtVx (md : MReg) (va : VReg) (sb : SReg) (m : MReg) (s : State) : Host.Outcome State Fault Refusal :=
  run s (compareOp md va m (scalarArg sb) .gt)

/-- VCMP.ge (R227). -/
def execVcmpGe (md : MReg) (va vb : VReg) (_ca _cb : Bool) (m : MReg) (s : State) : Host.Outcome State Fault Refusal :=
  run s (compareOp md va m (anyVec vb) .ge)

/-- VCMP.ge with a scalar (R220, R227). -/
def execVcmpGeVx (md : MReg) (va : VReg) (sb : SReg) (m : MReg) (s : State) : Host.Outcome State Fault Refusal :=
  run s (compareOp md va m (scalarArg sb) .ge)

/-- VCMP.un (R227). -/
def execVcmpUn (md : MReg) (va vb : VReg) (_ca _cb : Bool) (m : MReg) (s : State) : Host.Outcome State Fault Refusal :=
  run s (compareOp md va m (anyVec vb) .un)

/-- VCMP.un with a scalar (R220, R227). -/
def execVcmpUnVx (md : MReg) (va : VReg) (sb : SReg) (m : MReg) (s : State) : Host.Outcome State Fault Refusal :=
  run s (compareOp md va m (scalarArg sb) .un)

/-- Whether an encoding counts as nonzero (R88). -/
def Fmt.nonzero (f : Fmt) (x : Nat) : Bool :=
  match f with
  | .float g => x % 2 ^ (g.expW + g.manW) != 0
  | .e8 => true
  | f => x % 2 ^ f.width != 0

/-- VNZ (R228). -/
def execVnz (md : MReg) (va : VReg) (m : MReg) (s : State) : Host.Outcome State Fault Refusal :=
  run s do
    begin false (.masked .mask)
    let h ← hart
    let a ← readVec va
    let es := h.lanesOf m
    skew es a.w
    maskResult md (es.filter fun e => a.fmt.nonzero (a.elem e)) 0

end Sys2Proof.Machine
end

