-- ==== Sys2Proof/Machine/VecMask.lean ====
section
/-! DEFINITION. Mask operations, reductions and group combinations of major 0x1E (R229 to R232, R84). -/

namespace Sys2Proof.Machine

/-! ### Masks -/

/-- Whether the lent predicate holds at e; true when none is lent (R229). -/
def Hart.lendBit (h : Hart) (e : Nat) : Bool := !h.lent || ((h.rm h.lentMask).getLsbD e != h.lentInv)

/-- Positions below GL where a predicate and the lent predicate hold. -/
def Hart.positions (h : Hart) (p : Nat → Bool) : List Nat :=
  (List.range h.gl.toNat).filter fun e => p e && h.lendBit e

/-- The mould of the mask-to-mask instructions (R229). DESIGN CHOICE (assumption 77): the Skew pass compares nothing in an instruction that has
mask operands only, for which R400 names no reference operand. -/
def maskLogic (md : MReg) (f : Hart → Nat → Bool) : Act Unit := do
  begin false (.masked .mask)
  let h ← hart
  maskResult md (h.positions (f h)) 0

/-- MAND (R229). -/
def execMand (md ma mb : MReg) (s : State) : Host.Outcome State Fault Refusal :=
  run s (maskLogic md fun h e => (h.rm ma).getLsbD e && (h.rm mb).getLsbD e)

/-- MOR (R229). -/
def execMor (md ma mb : MReg) (s : State) : Host.Outcome State Fault Refusal :=
  run s (maskLogic md fun h e => (h.rm ma).getLsbD e || (h.rm mb).getLsbD e)

/-- MXOR (R229). -/
def execMxor (md ma mb : MReg) (s : State) : Host.Outcome State Fault Refusal :=
  run s (maskLogic md fun h e => (h.rm ma).getLsbD e != (h.rm mb).getLsbD e)

/-- MANDN (R229). -/
def execMandn (md ma mb : MReg) (s : State) : Host.Outcome State Fault Refusal :=
  run s (maskLogic md fun h e => (h.rm ma).getLsbD e && !(h.rm mb).getLsbD e)

/-- MNOT (R229). -/
def execMnot (md ma : MReg) (s : State) : Host.Outcome State Fault Refusal :=
  run s (maskLogic md fun h e => !(h.rm ma).getLsbD e)

/-- The mould of MPOPC and MFIRST: no write when GL is 0 (R29, R229). The Skew pass compares nothing here (assumption 77). -/
def maskScalar (sd : SReg) (ma : MReg) (f : List Nat → Nat → Nat) : Act Unit := do
  begin false (.masked .scalar)
  let h ← hart
  if h.gl == 0 then pure ()
  else writeD sd (BitVec.ofNat 64 (f (h.positions fun e => (h.rm ma).getLsbD e) h.gl.toNat))

/-- MPOPC (R229). -/
def execMpopc (sd : SReg) (ma : MReg) (s : State) : Host.Outcome State Fault Refusal :=
  run s (maskScalar sd ma fun es _ => es.length)

/-- MFIRST (R229). -/
def execMfirst (sd : SReg) (ma : MReg) (s : State) : Host.Outcome State Fault Refusal :=
  run s (maskScalar sd ma fun es gl => es.headD gl)

/-- The mould of VEXIT (R230): GL shortened to the first position found, plus `keep`. The Skew pass compares nothing here (assumption 77). -/
def exitAt (ma : MReg) (keep : Nat) : Act Unit := do
  begin false (.masked .none)
  updCur fun h =>
    match h.positions fun e => (h.rm ma).getLsbD e with
    | [] => h
    | f :: _ => { h with gl := BitVec.ofNat 15 (f + keep) }

/-- VEXIT (R230). -/
def execVexit (ma : MReg) (s : State) : Host.Outcome State Fault Refusal := run s (exitAt ma 0)

/-- VEXIT.incl (R230). -/
def execVexitIncl (ma : MReg) (s : State) : Host.Outcome State Fault Refusal := run s (exitAt ma 1)

/-! ### Reductions -/

/-- The least power of two that is at least n: its exponent, found below a bound. -/
def log2Up (n : Nat) : Nat := (firstBelow (fun k => n ≤ 2 ^ k) 16).getD 16

/-- A node of the tree of R84: empty, or a value with the flags raised below it. -/
abbrev Node := Option Val × Nat

/-- Two nodes combined: an empty one contributes nothing; otherwise one rounding to the accumulation format (R84). -/
def joinNodes (acc : FloatFmt) (mode : Nat) (op : Nat → Val → Val → Res × Nat) (x y : Node) : Node :=
  match x, y with
  | (none, _), y => y
  | x, (none, _) => x
  | (some a, fa), (some b, fb) =>
    let (r, f) := op mode a b
    let (c, g) := acc.round mode 0 r
    (some (acc.decode c), fa ||| fb ||| f ||| g)

/-- The tree of R84 over the 2^k positions from i up. -/
def reduceTree (acc : FloatFmt) (mode : Nat) (op : Nat → Val → Val → Res × Nat) (leaf : Nat → Node) : Nat → Nat → Node
  | 0, i => leaf i
  | k + 1, i => joinNodes acc mode op (reduceTree acc mode op leaf k i) (reduceTree acc mode op leaf k (i + 2 ^ k))

/-- Whether a format is FP64. -/
def Fmt.isFp64 (f : Fmt) : Bool := f == .float fp64

/-- A floating reduction (R84, R231). -/
def floatReduce (d a b : Vec) (f : FloatFmt) (m : MReg) (op : Nat → Val → Val → Res × Nat) : Act Unit := do
  let h ← hart
  let gl := h.gl.toNat
  let acc := if d.fmt.isFp64 || a.fmt.isFp64 || b.fmt.isFp64 then fp64 else fp32
  let rm := h.rmode
  let inner := if rm == 5 then 0 else rm
  let es := h.lanesOf m
  skew es a.w
  if gl == 0 then pure ()
  else
    let leaf (i : Nat) : Node :=
      if i < gl && h.maskBit m i then let (v, fl) := a.value h i; (some v, fl) else (none, 0)
    let (node, fn) := reduceTree acc inner op leaf (log2Up gl) 0
    let (seed, fs) := b.value h 0
    let (draw, h1) := if rm == 5 then h.draw else (0, h)
    let (c, fl) : Nat × Nat :=
      match node with
      | none =>
        if b.scale.isNone && b.fmt == d.fmt then (b.elem 0, 0)
        else let (c, g) := f.round rm draw seed.toRes; (c, fs ||| seed.sigFlag ||| g)
      | some v =>
        if f == acc then
          let (r, g) := op rm seed v
          let (c, k) := f.round rm draw r
          (c, fs ||| fn ||| g ||| k)
        else
          let (r, g) := op inner seed v
          let (c, k) := acc.round inner 0 r
          let (c', k') := f.round rm draw (acc.decode c).toRes
          (c', fs ||| fn ||| g ||| k ||| k')
    updCur fun _ => (h1.writeElems d [(0, c)]).flag fl

/-- An integer reduction (R231): exact, then wrapped or clamped. -/
def intReduce (d a b : Vec) (m : MReg) (saturating : Bool) (op : Int → Int → Int) : Act Unit := do
  let h ← hart
  let es := h.lanesOf m
  skew es a.w
  if h.gl == 0 then pure ()
  else
    let acc := es.foldl (fun x e => op x (a.fmt.int (a.elem e))) (b.fmt.int (b.elem 0))
    let (c, fl) := intResult d.fmt saturating acc
    updCur fun h => (h.writeElems d [(0, c)]).flag fl

/-- The mould of R231: integer operands, or floating operands where the form has a floating operation. A scaled source of an integer class
traps (assumption 75). -/
def reduceOp (vd va vb : VReg) (m : MReg) (saturating : Bool) (op : Int → Int → Int)
    (fop : Option (Nat → Val → Val → Res × Nat)) : Act Unit := do
  beginV vd
  let h ← hart
  let d ← readVec vd
  let a ← readVec va
  let b ← readVec vb
  let n := h.gl.toNat
  if d.isInt && a.isInt && b.isInt then intReduce d a b m saturating op
  else
    operand (a.isFloat n && b.isFloat n)
    match d.floatDest?, fop with
    | some f, some g => floatReduce d a b f m g
    | _, _ => reservedOperand

/-- VREDSUM (R231). -/
def execVredsum (vd va vb : VReg) (m : MReg) (s : State) : Host.Outcome State Fault Refusal :=
  run s (reduceOp vd va vb m false (· + ·) (some fun mode x y => addRes mode x y))

/-- VREDSUMS (R231). -/
def execVredsums (vd va vb : VReg) (m : MReg) (s : State) : Host.Outcome State Fault Refusal :=
  run s (reduceOp vd va vb m true (· + ·) none)

/-- VREDMIN (R231). -/
def execVredmin (vd va vb : VReg) (m : MReg) (s : State) : Host.Outcome State Fault Refusal :=
  run s (reduceOp vd va vb m false min (some fun _ x y => toResult (minVal x y)))

/-- VREDMAX (R231). -/
def execVredmax (vd va vb : VReg) (m : MReg) (s : State) : Host.Outcome State Fault Refusal :=
  run s (reduceOp vd va vb m false max (some fun _ x y => toResult (maxVal x y)))

/-- VREDAND (R231). -/
def execVredand (vd va vb : VReg) (m : MReg) (s : State) : Host.Outcome State Fault Refusal :=
  run s (reduceOp vd va vb m false intAnd none)

/-- VREDOR (R231). -/
def execVredor (vd va vb : VReg) (m : MReg) (s : State) : Host.Outcome State Fault Refusal :=
  run s (reduceOp vd va vb m false intOr none)

/-- VREDXOR (R231). -/
def execVredxor (vd va vb : VReg) (m : MReg) (s : State) : Host.Outcome State Fault Refusal :=
  run s (reduceOp vd va vb m false intXor none)

/-- The mould of VGMAX, VGMIN and VGOR: one result a block of B elements (R232). -/
def groupOp (vd va : VReg) (sb : SReg) (m : MReg) (op : Int → Int → Int) : Act Unit := do
  beginV vd
  let h ← hart
  let d ← readVec vd
  let a ← readVec va
  let B := (h.rs sb).toNat
  operand (d.isInt && a.isInt)
  operand ((rangeFrom 1 14).any fun k => B == 2 ^ k)
  let gl := h.gl.toNat
  let es := h.lanesOf m
  skew es d.w
  let one (j : Nat) : Nat × Nat :=
    match (es.filter fun e => j * B ≤ e && e < (j + 1) * B).map fun e => a.fmt.int (a.elem e) with
    | [] => (j, 0)
    | x :: xs => (j, wrap d.w (xs.foldl op x))
  updCur fun h => h.writeElems d ((List.range (ceilDiv gl B)).map one)

/-- VGMAX (R232). -/
def execVgmax (vd va : VReg) (sb : SReg) (m : MReg) (s : State) : Host.Outcome State Fault Refusal :=
  run s (groupOp vd va sb m max)

/-- VGMIN (R232). -/
def execVgmin (vd va : VReg) (sb : SReg) (m : MReg) (s : State) : Host.Outcome State Fault Refusal :=
  run s (groupOp vd va sb m min)

/-- VGOR (R232). -/
def execVgor (vd va : VReg) (sb : SReg) (m : MReg) (s : State) : Host.Outcome State Fault Refusal :=
  run s (groupOp vd va sb m intOr)

end Sys2Proof.Machine
end

