-- ==== Sys2Proof/Machine/VecPerm.lean ====
section
/-! DEFINITION. Permutes, slides, compress and expand, conflict detection and funnel shifts of major 0x1F (R233 to R241). -/

namespace Sys2Proof.Machine

/-- The destination of an encoding move is not scaled (R219). -/
def Vec.moveDest (d : Vec) : Bool := d.scale.isNone

/-- Results at chosen elements without flags. -/
def moveElems (d : Vec) (es : List Nat) (f : Nat → Nat) : Act Unit := do
  skew es d.w
  updCur fun h => h.writeElems d (es.map fun e => (e, f e))

/-- The mould of an encoding move of va under the mask (R233). -/
def moveOp (vd va : VReg) (m : MReg) (f : Hart → Vec → Vec → Nat → Option Nat) : Act Unit := do
  beginV vd
  let h ← hart
  let d ← readVec vd
  let a ← readVec va
  operand (d.moveDest && d.w == a.w)
  let es := (h.lanesOf m).filter fun e => (f h d a e).isSome
  moveElems d es fun e => (f h d a e).getD 0

/-- VMOV (R234). -/
def execVmov (vd va : VReg) (_ca : Bool) (m : MReg) (s : State) : Host.Outcome State Fault Refusal :=
  run s (moveOp vd va m fun _ _ a e => some (a.elem e))

/-- VMERGE (R235): the mask selects, and every element below GL is written. -/
def execVmerge (vd va vb : VReg) (_ca _cb : Bool) (m : MReg) (s : State) : Host.Outcome State Fault Refusal :=
  run s do
    beginV vd
    let h ← hart
    let d ← readVec vd
    let a ← readVec va
    let b ← readVec vb
    operand (d.moveDest && d.w == a.w && d.w == b.w)
    moveElems d (List.range h.gl.toNat) fun e => if h.maskBit m e then a.elem e else b.elem e

/-- VBCAST (R234). -/
def execVbcast (vd : VReg) (sb : SReg) (m : MReg) (s : State) : Host.Outcome State Fault Refusal :=
  run s do
    beginV vd
    let h ← hart
    let d ← readVec vd
    operand d.moveDest
    moveElems d (h.lanesOf m) fun _ => (h.rs sb).toNat % 2 ^ d.w

/-- VIDX (R234). -/
def execVidx (vd : VReg) (m : MReg) (s : State) : Host.Outcome State Fault Refusal :=
  run s do
    beginV vd
    let h ← hart
    let d ← readVec vd
    operand d.isInt
    moveElems d (h.lanesOf m) fun e => e % 2 ^ d.w

/-- VEXTR (R236): nothing is written when GL is 0. DESIGN CHOICE (assumption 76): an element of which the group holds only a part is beyond its
capacity, and 0 is written. -/
def execVextr (sd : SReg) (va : VReg) (sb : SReg) (s : State) : Host.Outcome State Fault Refusal :=
  run s do
    begin false (.masked .scalar)
    let h ← hart
    let a ← readVec va
    let i := (h.rs sb).toNat
    if h.gl == 0 then pure ()
    else writeD sd (if a.capacity ≤ i then 0
      else match a.fmt with
      | .sint w => BitVec.ofInt 64 (sext w (a.elem i))
      | _ => BitVec.ofNat 64 (a.elem i))

/-- VPERM (R237). -/
def execVperm (vd va vb : VReg) (m : MReg) (s : State) : Host.Outcome State Fault Refusal :=
  run s do
    beginV vd
    let h ← hart
    let d ← readVec vd
    let a ← readVec va
    let b ← readVec vb
    operand (d.moveDest && d.w == a.w && b.isInt)
    moveElems d (h.lanesOf m) fun e =>
      let i := b.fmt.int (b.elem e)
      if 0 ≤ i && i < h.gl.toNat then a.elem i.toNat else 0

/-- A source position of a slide: the all-zero encoding at and above GL (R238). -/
def Vec.below (a : Vec) (gl i : Nat) : Nat := if i < gl then a.elem i else 0

/-- VSLUP (R238). -/
def execVslup (vd va : VReg) (sb : SReg) (m : MReg) (s : State) : Host.Outcome State Fault Refusal :=
  run s (moveOp vd va m fun h _ a e =>
    let k := (h.rs sb).toNat
    if k ≤ e then some (a.elem (e - k)) else none)

/-- VSLDN (R238). -/
def execVsldn (vd va : VReg) (sb : SReg) (m : MReg) (s : State) : Host.Outcome State Fault Refusal :=
  run s (moveOp vd va m fun h _ a e => some (a.below h.gl.toNat (e + (h.rs sb).toNat)))

/-- VSL1UP (R238). -/
def execVsl1up (vd va : VReg) (sb : SReg) (m : MReg) (s : State) : Host.Outcome State Fault Refusal :=
  run s (moveOp vd va m fun h d a e => some (if e = 0 then (h.rs sb).toNat % 2 ^ d.w else a.elem (e - 1)))

/-- VSL1DN (R238). -/
def execVsl1dn (vd va : VReg) (sb : SReg) (m : MReg) (s : State) : Host.Outcome State Fault Refusal :=
  run s (moveOp vd va m fun h d a e =>
    some (if e + 1 = h.gl.toNat then (h.rs sb).toNat % 2 ^ d.w else a.below h.gl.toNat (e + 1)))

/-- The mould of VCOMPRESS and VEXPAND: pairs of destination and source positions from the selected positions (R239). -/
def packOp (vd va : VReg) (m : MReg) (f : Nat × Nat → Nat × Nat) : Act Unit := do
  beginV vd
  let h ← hart
  let d ← readVec vd
  let a ← readVec va
  operand (d.moveDest && d.w == a.w)
  let es := h.lanesOf m
  skew es d.w
  let moves := (es.zip (List.range es.length)).map f
  updCur fun h => h.writeElems d (moves.map fun p => (p.1, a.elem p.2))

/-- VCOMPRESS (R239). -/
def execVcompress (vd va : VReg) (m : MReg) (s : State) : Host.Outcome State Fault Refusal := run s (packOp vd va m fun p => (p.2, p.1))

/-- VEXPAND (R239). -/
def execVexpand (vd va : VReg) (m : MReg) (s : State) : Host.Outcome State Fault Refusal := run s (packOp vd va m id)

/-- Earlier elements of a list with the encoding of element e (R240). -/
def Vec.earlier (a : Vec) (es : List Nat) (e : Nat) : Nat :=
  (es.filter fun j => j < e && a.elem j == a.elem e).length

/-- VCONFM (R240). -/
def execVconfm (md : MReg) (va : VReg) (m : MReg) (s : State) : Host.Outcome State Fault Refusal :=
  run s do
    begin false (.masked .mask)
    let h ← hart
    let a ← readVec va
    let es := h.lanesOf m
    skew es a.w
    maskResult md (es.filter fun e => a.earlier es e == 0) 0

/-- VCONFC (R240). -/
def execVconfc (vd va : VReg) (m : MReg) (s : State) : Host.Outcome State Fault Refusal :=
  run s do
    beginV vd
    let h ← hart
    let d ← readVec vd
    let a ← readVec va
    operand d.isInt
    let es := h.lanesOf m
    moveElems d es fun e => a.earlier es e % 2 ^ d.w

/-- The mould of the funnel shifts: the pair of neighbours and the shift amount (R241). -/
def funnelOp (vd va : VReg) (m : MReg) (right : Bool) (amount : Act (Nat → Nat → Nat)) : Act Unit := do
  beginV vd
  let h ← hart
  let d ← readVec vd
  let a ← readVec va
  let n ← amount
  operand (d.isInt && a.isInt && d.w == a.w)
  let w := d.w
  moveElems d (h.lanesOf m) fun e =>
    let k := n w e
    if right then (a.below h.gl.toNat (e + 1) * 2 ^ w + a.elem e) / 2 ^ k % 2 ^ w
    else (a.elem e * 2 ^ w + (if e = 0 then 0 else a.elem (e - 1))) * 2 ^ k / 2 ^ w % 2 ^ w

/-- The amount of VFSR and VFSL: s[sb] mod w. -/
def scalarAmount (sb : SReg) : Act (Nat → Nat → Nat) := do
  let h ← hart
  pure fun w _ => (h.rs sb).toNat % w

/-- The amount of VFSRV and VFSLV: value(vb, e) mod w. -/
def vectorAmount (vb : VReg) : Act (Nat → Nat → Nat) := do
  let b ← readVec vb
  operand b.isInt
  pure fun w e => (b.fmt.int (b.elem e) % w).toNat

/-- VFSR (R241). -/
def execVfsr (vd va : VReg) (sb : SReg) (m : MReg) (s : State) : Host.Outcome State Fault Refusal := run s (funnelOp vd va m true (scalarAmount sb))

/-- VFSL (R241). -/
def execVfsl (vd va : VReg) (sb : SReg) (m : MReg) (s : State) : Host.Outcome State Fault Refusal := run s (funnelOp vd va m false (scalarAmount sb))

/-- VFSRV (R241). -/
def execVfsrv (vd va vb : VReg) (m : MReg) (s : State) : Host.Outcome State Fault Refusal := run s (funnelOp vd va m true (vectorAmount vb))

/-- VFSLV (R241). -/
def execVfslv (vd va vb : VReg) (m : MReg) (s : State) : Host.Outcome State Fault Refusal := run s (funnelOp vd va m false (vectorAmount vb))

end Sys2Proof.Machine
end

