-- ==== Sys2Proof/Machine/Convert.lean ====
section
/-! DEFINITION. VCFG and the conversions of major 0x20 (R242 to R245). -/

namespace Sys2Proof.Machine

/-- Whether two register ranges overlap. -/
def overlaps (a n b m : Nat) : Bool := a < b + m && b < a + n

/-- The type tag that VCFG accepts for vd (R243). -/
def cfgOk (vd : VReg) (t : Word) : Bool :=
  let x := t.toNat
  let g := tagGroup t
  tagSlen t == 0 && fld x 47 32 == 0 && fld x 23 10 == 0 && fld x 7 5 == 0
  && (tagFmt t < 0x12 || 0x18 ≤ tagFmt t)
  && vd.val % g == 0
  && !(tagSblk t != 0 && vd.val ≤ tagScale t && tagScale t < vd.val + g)
  && !(tagSparse t && tagSblk t != 0)

/-- The tags after VCFG: vd's group tagged, every other register whose group overlapped it unconfigured (R58, R243). -/
def Hart.configure (h : Hart) (vd : VReg) (t : Word) : Hart :=
  let g := tagGroup t
  { h with tag := Vector.ofFn fun q =>
      let old := h.tag[q]
      let gq := tagGroup old
      if vd.val ≤ q.val && q.val < vd.val + g then t
      else if overlaps (q.val / gq * gq) gq vd.val g then old &&& ~~~0x1F#64
      else old }

/-- VCFG (R243): it acts whatever GL holds. -/
def execVcfg (vd : VReg) (sb : SReg) (s : State) : Host.Outcome State Fault Refusal :=
  run s do
    begin false (.masked .none)
    let h ← hart
    let t := h.rs sb
    operand (cfgOk vd t)
    updCur fun h => h.configure vd t

/-- One converted element (R244). -/
def convert (d a : Vec) (mode : Nat) (h : Hart) (draw e : Nat) : Nat × Nat :=
  let (x, fx) := a.value h e
  match d.fmt with
  | .float f =>
    let (c, g) := f.round mode draw x.toRes
    (c, fx ||| x.sigFlag ||| g)
  | .uint w => toInt false w x fx
  | .sint w => toInt true w x fx
  | .e8 => (0, 0)
where
  /-- The conversion to an integer format (R69). -/
  toInt (signed : Bool) (w : Nat) (x : Val) (fx : Nat) : Nat × Nat :=
    if a.isInt then
      let (c, sat) := clampInt signed w (a.fmt.int (a.elem e))
      (wrap w c, if sat then flSAT else 0)
    else
      let (c, g) := roundToInt signed w mode draw x.toRes
      (c, fx ||| g)

/-- The mould of VCVT (R244): it begins at ERIX and writes 0 there when it completes; an unresolved mismatch of the Skew pass stops
it at the element (R375). -/
def convertOp (vd va : VReg) (m : MReg) (mode : Hart → Nat) : Act Unit := do
  beginV vd
  let h ← hart
  let d ← readVec vd
  let a ← readVec va
  operand (d.scale.isNone && d.fmt != .e8 && a.scaleOk h.gl.toNat)
  let md := mode h
  let es := h.active m h.erix.toNat h.gl.toNat
  let stop ← elementStop es d.w
  let h ← hart
  let (rs, fl, h') := mapElems h (md == 5) (convert d a md) (es.filter (belowStop (stop.map Stop.elem)))
  updCur fun _ => (h'.writeElems d rs).flag fl
  endStop stop (updCur fun h => { h with erix := 0 })

/-- VCVT (R242, R244). -/
def execVcvt (vd va : VReg) (_ca : Bool) (m : MReg) (s : State) : Host.Outcome State Fault Refusal :=
  run s (convertOp vd va m (fun h => h.rmode))

/-- VCVT.rne (R242, R244). -/
def execVcvtRne (vd va : VReg) (_ca : Bool) (m : MReg) (s : State) : Host.Outcome State Fault Refusal :=
  run s (convertOp vd va m (fun _ => 0))

/-- VCVT.rtz (R242, R244). -/
def execVcvtRtz (vd va : VReg) (_ca : Bool) (m : MReg) (s : State) : Host.Outcome State Fault Refusal :=
  run s (convertOp vd va m (fun _ => 1))

/-- VCVT.rdn (R242, R244). -/
def execVcvtRdn (vd va : VReg) (_ca : Bool) (m : MReg) (s : State) : Host.Outcome State Fault Refusal :=
  run s (convertOp vd va m (fun _ => 2))

/-- VCVT.rup (R242, R244). -/
def execVcvtRup (vd va : VReg) (_ca : Bool) (m : MReg) (s : State) : Host.Outcome State Fault Refusal :=
  run s (convertOp vd va m (fun _ => 3))

/-- VCVT.rna (R242, R244). -/
def execVcvtRna (vd va : VReg) (_ca : Bool) (m : MReg) (s : State) : Host.Outcome State Fault Refusal :=
  run s (convertOp vd va m (fun _ => 4))

/-- VCVT.sr (R242, R244). -/
def execVcvtSr (vd va : VReg) (_ca : Bool) (m : MReg) (s : State) : Host.Outcome State Fault Refusal :=
  run s (convertOp vd va m (fun _ => 5))

/-- The largest finite magnitude of a destination: n × 2^q (R245). -/
def Fmt.largest (f : Fmt) : Nat × Int :=
  match f with
  | .float g => g.largest
  | .uint w => (2 ^ w - 1, 0)
  | .sint w => (2 ^ (w - 1) - 1, 0)
  | .e8 => (1, 127)

/-- ⌈log2(a / L)⌉ for a = m × 2^e and L = n × 2^q, all nonzero (R245). -/
def ceilLog2Ratio (m : Nat) (e : Int) (n : Nat) (q : Int) : Int :=
  let guess : Int := (e + bitLen m) - (q + bitLen n)
  if !bigger m e n (q + (guess - 1)) then guess - 1
  else if !bigger m e n (q + guess) then guess
  else guess + 1

/-- The largest of some magnitudes. -/
def maxMagnitude (vs : List Val) : Nat × Int :=
  vs.foldl (fun acc v =>
    match v with
    | .fin _ m e => if bigger m e acc.1 acc.2 then (m, e) else acc
    | _ => acc) (0, 0)

/-- Whether a value is a NaN or an infinity. -/
def Val.special : Val → Bool
  | .fin _ _ _ => false
  | _ => true

/-- The scale of a block: 0xFF for a block with a special value, else as R245 clamps it. -/
def blockScale (d : Fmt) (vs : List Val) : Nat :=
  if vs.any Val.special then 0xFF
  else
    let (m, e) := maxMagnitude vs
    let (n, q) := d.largest
    if m == 0 then 127
    else if n == 0 then 254
    else (max 0 (min 254 (127 + ceilLog2Ratio m e n q))).toNat

/-- One element of VQNT under its block's scale (R245). -/
def quantise (d : Fmt) (scale mode draw : Nat) (x : Val) : Nat × Nat :=
  if scale == 0xFF then
    match d with
    | .float f => let (c, g) := f.nanCode; (c, g ||| flNV)
    | _ => (0, flNV)
  else
    let y : Res := match x with
      | .fin n m e => .ex ⟨n, m, e - ((scale : Int) - 127), false⟩
      | v => v.toRes
    match d with
    | .float f => f.round mode draw y
    | .uint w => roundToInt false w mode draw y
    | .sint w => roundToInt true w mode draw y
    | .e8 => (0, 0)

/-- VQNT (R245). -/
def execVqnt (vd va : VReg) (m : MReg) (s : State) : Host.Outcome State Fault Refusal :=
  run s do
    beginV vd
    let h ← hart
    let d ← readVec vd
    let a ← readVec va
    match d.scale with
    | none => reservedOperand
    | some (B, sr, sf) =>
      let gl := h.gl.toNat
      operand (sf == .e8 && d.fmt != .e8 && a.scale.isNone
        && !overlaps sr 1 d.reg d.group && !overlaps sr 1 a.reg a.group
        && h.erix.toNat % B == 0 && ceilDiv gl B ≤ 2048)
      let es := h.active m h.erix.toNat gl
      let stop := (← elementStop es d.w).map fun (x : Stop) => { x with elem := x.elem / B * B }
      let h ← hart
      let limit := match stop with
        | none => gl
        | some x => x.elem
      let blocks := (List.range (ceilDiv limit B)).filter fun j => h.erix.toNat < (j + 1) * B
      let members (j : Nat) : List Nat := (es.filter fun e => j * B ≤ e && e < (j + 1) * B)
      let scales := blocks.map fun j => (j, blockScale d.fmt ((members j).map fun e => (a.value h e).1))
      let mode := h.rmode
      let (rs, fl, h') := mapElems h (mode == 5)
        (fun h draw e => quantise d.fmt ((scales.find? fun p => p.1 == e / B).map Prod.snd |>.getD 127) mode draw
          (a.value h e).1) (es.filter (· < limit))
      let nv := if scales.any fun p => p.2 == 0xFF then flNV else 0
      updCur fun _ =>
        let h2 := (h'.writeElems d rs).flag (fl ||| nv)
        h2.putGroup sr 1 (putElems 8 (h2.groupBits sr 1) scales)
      endStop stop (updCur fun h => { h with erix := 0 })

end Sys2Proof.Machine
end

