-- ==== Sys2Proof/Machine/Residency.lean ====
section
/-! DEFINITION. Residency registers and windows (R90 to R112): declared sets, differences, fetch and release, and the instructions of
majors 0x29 and 0x2A (R264 to R268). Transfers read and write memory at the instruction that causes them, which is their position in
program order (R106), unless their page or a lessor makes them wait; the fetch lists in flight say what KCFG.ST reads. -/

namespace Sys2Proof.Machine

/-! ### Fields -/

/-- Fields of a dimension pair (R90). -/
def KReg.bound (k : KReg) (d : Fin 4) : Nat := fld k.dimA[d].toNat 31 0
def KReg.ext (k : KReg) (d : Fin 4) : Nat := fld k.dimB[d].toNat 63 48

/-- KCFG with ST (R90, R101). -/
def KReg.st (k : KReg) : Nat := if k.phase == .valid then 1 + k.inflight else 0
def KReg.cfgWord (k : KReg) : Word := BitVec.ofNat 64 (putFld k.cfg.toNat 1 0 k.st)

/-- The origin of a dimension at counter values (R93). -/
def KReg.origin (k : KReg) (cs : Vector (BitVec 32) 8) (d : Fin 4) : Int :=
  let b := k.dimB[d].toNat
  let ci := cs[fld b 31 29 % 8]'(Nat.mod_lt _ (by decide))
  let cj := cs[fld b 28 26 % 8]'(Nat.mod_lt _ (by decide))
  sext 8 (fld b 47 40) * ci.toNat + sext 8 (fld b 39 32) * cj.toNat + sext 24 (fld b 23 0)

/-- A box: the interval [lo, hi) of each dimension, dimension 0 first. -/
abbrev Box := List (Int × Int)

/-- Whether a box holds nothing (R93). -/
def Box.isEmpty (b : Box) : Bool := b.any fun p => p.2 ≤ p.1

/-- The declared set (R93). -/
def KReg.box (k : KReg) (c : Vector (BitVec 32) 8) : Box :=
  k.dims.map fun d =>
    let o := k.origin c d
    (max o 0, min (o + k.ext d) (k.bound d))

/-- The pseudocode of R96 over the dimensions that remain: `done` are the dimensions of cur already clipped, innermost first. -/
def diffFrom (done : Box) : Box → Box → List Box
  | a :: as, b :: bs =>
    let below := if a.1 < b.1 then [done ++ (a.1, min a.2 b.1) :: as] else []
    let above := if b.2 < a.2 then [done ++ (max a.1 b.2, a.2) :: as] else []
    let cut := (max a.1 b.1, min a.2 b.2)
    below ++ above ++ (if cut.2 ≤ cut.1 then [] else diffFrom (done ++ [cut]) as bs)
  | _, _ => []

/-- The boxes of A that are not in B (R96). -/
def diff (a b : Box) : List Box :=
  if a.isEmpty then [] else if b.isEmpty then [a] else diffFrom [] a b

/-- The elements of a box in ascending relative order, dimension 0 innermost (R96). -/
def Box.elements : Box → List (List Nat)
  | [] => [[]]
  | p :: ps =>
    (Box.elements ps).flatMap fun rest => (rangeFrom p.1.toNat (p.2 - p.1).toNat).map fun x => x :: rest

/-- Two registers describe the same tensor (R99). -/
def KReg.sameTensor (k j : KReg) : Bool :=
  k.base == j.base && fld k.cfg.toNat 31 28 == fld j.cfg.toNat 31 28 && k.esz == j.esz && k.ndim == j.ndim
    && k.dims.all fun d => k.stride d == j.stride d

/-! ### The window pool -/

/-- Register i of a hart. -/
def Hart.kr (h : Hart) (i : KIdx) : KReg := h.k[i]

/-- The hart with register i set. -/
def Hart.putK (h : Hart) (i : KIdx) (k : KReg) : Hart := { h with k := h.k.set i k }

/-- Whether a copy belongs to the tensor that a register describes. -/
def Hart.copyOf (h : Hart) (k : KReg) (e : WinElem) : Bool :=
  (List.finRange 16).any fun j => e.holders.getLsbD j.val && (h.k[j]).sameTensor k

/-- The copy of an element in the tensor of a register. -/
def Hart.copy? (h : Hart) (k : KReg) (x : List Nat) : Option WinElem :=
  h.win.find? fun e => e.x == x && h.copyOf k e

/-- The pool with the copy of an element changed, or dropped. -/
def Hart.updCopy (h : Hart) (k : KReg) (x : List Nat) (f : WinElem → Option WinElem) : Hart :=
  { h with win := h.win.filterMap fun e => if e.x == x && h.copyOf k e then f e else some e }

/-- KCNT with FETCHED or RELEASED one higher (R90). -/
def KReg.countFetch (k : KReg) : KReg :=
  { k with cnt := BitVec.ofNat 64 (putFld k.cnt.toNat 63 32 (fld k.cnt.toNat 63 32 + 1)) }
def KReg.countRelease (k : KReg) : KReg :=
  { k with cnt := BitVec.ofNat 64 (putFld k.cnt.toNat 31 0 (fld k.cnt.toNat 31 0 + 1)) }

/-- The hart frozen by a refused engine transfer, unless it is frozen already: the record is of the first refusal, whose element is the
lowest (R334, R335). -/
def State.freezeEngine (s : State) (h : Hart) (t : Target) (kind stream elem va : Nat) : State × Hart :=
  if h.frozen then (s, h) else (s.signalFreeze h.id h.part.val, h.freeze t.tid t.tgt kind true true stream elem va)

/-- The translation of an access by the Chuck: its location or why not, and the translation that the Chuck then holds with the element,
also where a table refuses the fetch (R364). -/
def State.reachHeld (s : State) (r : Req) (a : Acc) (va n : Nat) : Except Miss Loc × Option Held × State :=
  if apertureBase ≤ va || va % n != 0 then
    let (l, s) := s.probed r a false va n
    (l, none, s)
  else match s.walk r va with
  | (.error e, s) => (.error e, none, s.tagWalk r va)
  | (.ok leaf, s) =>
    let (l, s) := (s.tagWalk r va).reachLeaf r a va leaf
    let pa := leaf.pa va
    (l, match l, placeOf pa with
      | .ok l, _ => some ⟨leaf.entry, pa, l⟩
      | .error (.refused _ _), .dram u => some ⟨leaf.entry, pa, .dram u pa (fld leaf.entry 62 59) (bitOf leaf.entry 63)⟩
      | _, _ => none, s)

/-- What a fetch of the Chuck comes to. A transfer of the Chuck belongs to no element of an instruction, and its freeze records ELEM = 0:
DEDUCED from the scout pass (R374, assumption 35). -/
inductive Fetched where
  /-- The class and the data, and the address that a trap for them records (R130). -/
  | data (cls x errAt : Nat)
  /-- Its probe fails, or a table refuses it, which freezes the hart (R334, R365). -/
  | gone
  | later (a : Arrival)
deriving DecidableEq, Repr

/-- Whether a transfer of the Chuck for an element may be made as far as the hart's Mandrel commands and collectives go: those issued
before it are performed that R133 and R134 order before it. -/
def State.inTurn (s : State) (h : Hart) (k : KReg) (x : List Nat) (store : Bool) : Bool :=
  s.cleared h (.ahead k.strm store) && !(s.postedBy h).any (fun j => j.meets (k.address x) k.esz)

/-- The read of one element by the Chuck (R102, R105, R106). -/
def State.chuckRead (s : State) (h : Hart) (k : KReg) (va : Nat) (cache : SectorCache) :
    Fetched × Option Held × SectorCache × State × Hart :=
  match s.reachHeld h.req .load va k.esz with
  | (.ok l, t, s) =>
    let at' := s.errorAddress l va k.esz
    match s.readCached (chuckId h.id) h.id cache va l k.esz with
    | (.data c x, cache, s) => (.data c x at', t, cache, s, h)
    | (.wait (.peer _), cache, s) => (.later (.lessor l.key), t, cache, s, h)
    | (.wait _, cache, s) => (.later .page, t, cache, s, h)
  | (.error (.refused g kind), t, s) =>
    let (s, h) := s.freezeEngine h g kind k.strm 0 va
    (.gone, t, cache, s, h)
  | (.error (.stall _), t, s) => (.later .page, t, cache, s, h)
  | (.error _, t, s) => (.gone, t, cache, s.forgetRefused h.part.val, h)

/-- An element with what a fetch came to; one that is gone is stale (R365, R366). DESIGN CHOICE (assumption 68): an advance counts one
that is gone as arrived, since R101 says nothing of an element that cannot arrive. -/
def WinElem.fetched (e : WinElem) (t : Option Held) : Fetched → WinElem
  | .data c x at' => { e with data := BitVec.ofNat 64 x, cls := c, errAt := at', stale := false, arrival := .arrived, held := t }
  | .gone => { e with stale := true, arrival := .arrived, held := t }
  | .later a => { e with stale := false, arrival := a, held := t }

/-- Whether the fetches of an instruction have to wait in line, behind those of earlier instructions in the stream (R133). -/
def Hart.inLine (h : Hart) (k : KReg) : Bool := h.fetching fun j _ => j.strm == k.strm

/-- One element entering the set of register i: a reference to a copy that is there, or a fetch by the lowest-numbered of the registers
that it enters (R99, R105, R106, R313), which waits when it is `queued`. -/
def State.enterElem (s : State) (h : Hart) (i : KIdx) (queued : Bool) (cache : SectorCache) (x : List Nat) : SectorCache × State × Hart :=
  let k := h.kr i
  match h.copy? k x with
  | some _ => (cache, s, h.updCopy k x fun e => some { e with holders := e.holders ||| (1#16 <<< i.val) })
  | none =>
    let e : WinElem := ⟨1#16 <<< i.val, x, 0, false, 0, 0, false, .page, none⟩
    if queued then (cache, s, { h with win := h.win ++ [e] }.putK i k.countFetch)
    else
      let (r, t, cache, s, h) := s.chuckRead h k (k.address x) cache
      (cache, s, { h with win := h.win ++ [e.fetched t r] }.putK i k.countFetch)

/-- A store at a location that a held translation gives, by the rules of a probe: the access table, or the lease (R332, R371). -/
def State.writeHeld (s : State) (h : Hart) (k : KReg) (e : WinElem) (l : Loc) : State × Hart :=
  let put := ((s.storeAt h.id l k.esz e.data.toNat k.strm (chuckId h.id)).2, h)
  match l with
  | .dram u _ _ _ =>
    match s.denied (.mem u) h.id .wr with
    | some kind => s.freezeEngine h (.mem u) kind k.strm 0 (k.address e.x)
    | none => put
  | .lease pa _ => if s.leaseOk ((pa - 2 ^ 51) / 2 ^ 40) ((pa - 2 ^ 51) % 2 ^ 40) .wr then put else (s, h)
  | _ => put

/-- The write-back of a dirty element (R103, R106), under the translation that the Chuck holds with it (R364, R365). One whose probe
fails is not written (assumption 12). -/
def State.chuckWrite (s : State) (h : Hart) (k : KReg) (e : WinElem) : State × Hart :=
  match e.held with
  | some t => if Leaf.permits ⟨t.entry, 0, 0⟩ h.prv .store then s.writeHeld h k e t.loc else (s, h)
  | none =>
    match s.probed h.req .store false (k.address e.x) k.esz with
    | (.ok l, s) => ((s.storeAt h.id l k.esz e.data.toNat k.strm (chuckId h.id)).2, h)
    | (.error (.refused t kind), s) => s.freezeEngine h t kind k.strm 0 (k.address e.x)
    | (.error _, s) => (s, h)

/-- One element leaving the set of register i: written back when dirty and freed when no register holds it (R99, R103). -/
def State.leaveElem (s : State) (h : Hart) (i : KIdx) (x : List Nat) : State × Hart :=
  let k := h.kr i
  match h.copy? k x with
  | none => (s, h)
  | some e =>
    let rest := e.holders &&& ~~~(1#16 <<< i.val)
    if rest != 0 then (s, (h.updCopy k x fun e => some { e with holders := rest }).putK i k.countRelease)
    else
      let (s, h) := if e.dirty then s.chuckWrite h k e else (s, h)
      (s, (h.updCopy k x fun _ => none).putK i k.countRelease)

/-- Elements of a list of boxes in order (R96). -/
def boxElements (bs : List Box) : List (List Nat) := bs.flatMap Box.elements

/-- A register entering and leaving elements. -/
def State.enterAll (s : State) (h : Hart) (i : KIdx) (queued : Bool) (xs : List (List Nat)) : State × Hart :=
  (xs.foldl (fun (p : SectorCache × State × Hart) x => p.2.1.enterElem p.2.2 i queued p.1 x) ([], s, h)).2
def State.leaveAll (s : State) (h : Hart) (i : KIdx) (xs : List (List Nat)) : State × Hart :=
  xs.foldl (fun (p : State × Hart) x => p.1.leaveElem p.2 i x) (s, h)

/-- The bytes of a window left unspecified when its register becomes invalid (R92, R107). -/
def State.loseWindow (s : State) (h : Hart) (k : KReg) : State :=
  { s with lost := s.lost ++ [(coreOf h.id, k.window.1, k.window.2)] }

/-- A valid register released: dirty elements written back, the set released, the register invalid (R101). -/
def State.releaseK (s : State) (h : Hart) (i : KIdx) : State × Hart :=
  let k := h.kr i
  match k.phase with
  | .invalid => (s, h)
  | .configuring => (s, h.putK i { k with phase := .invalid })
  | .valid =>
    let b := k.box h.c
    let (s, h) := if b.isEmpty then (s, h) else s.leaveAll h i b.elements
    (s.loseWindow h k, h.putK i { h.kr i with phase := .invalid, flights := [] })

/-- A release waits for the collectives whose buffers the dirty elements that it writes back meet (R108, R134). -/
def waitBack (k : KReg) : List (List Nat) → Act Unit
  | [] => pure ()
  | x :: xs => do
    let h ← hart
    if ((h.copy? k x).map WinElem.dirty).getD false then waitFor (.buffer (k.address x) k.esz)
    waitBack k xs

/-- KREL and KSET of a valid register wait until it is settled, and for the hart's earlier accesses of its stream (R101, R106). -/
def waitRelease (i : KIdx) : Act Unit := do
  let h ← hart
  let k := h.kr i
  if k.phase == .valid then
    waitFor (.settled i)
    waitStream k.strm true
    waitBack k (if (k.box h.c).isEmpty then [] else (k.box h.c).elements)

/-- Every register of a hart released (R202). -/
def State.releaseAllK (s : State) (h : Hart) : State × Hart :=
  (List.finRange 16).foldl (fun (p : State × Hart) i => p.1.releaseK p.2 i) (s, h)

/-! ### The scout pass -/

/-- The probe of the elements of one register's fetch list: the first that fails ends the instruction (R97, R374). Refusals by an
access table are found when the transfer is made. -/
def scout (i : KIdx) (k : KReg) : List (List Nat) → Act Unit
  | [] => pure ()
  | x :: xs => do
    match ← locateAgain .load { stream := k.strm, kreg := i.val, eng := true } (k.address x) k.esz with
    | _ => scout i k xs

/-! ### KSET and KDIM -/

/-- The checks of R91 on the window: its place, and the overlap with any other window or claimed region of the core. -/
def State.windowFree (s : State) (i : KIdx) (off len : Nat) : Bool :=
  let core := coreOf s.cur.id
  (s.harts.all fun h => coreOf h.id != core || h.wait == .vacant || (List.finRange 16).all fun j =>
      let k := h.k[j]
      k.phase == .invalid || (h.id == s.cur.id && j == i) || !overlaps off len k.window.1 k.window.2)
  && s.regions.all fun r => r.core != core || !overlaps off len r.off (2 ^ r.log2)

/-- The residency instructions of a forked child raise the reserved-operand trap (R43, R268). -/
def notChild : Act Unit := do
  let h ← hart
  operand h.parent.isNone

/-- KSET (R265, R91, R92). -/
def execKset (k : KIdx) (sa : SReg) (s : State) : Host.Outcome State Fault Refusal :=
  run s do
    begin false (.masked .none)
    notChild
    operand (sa.val ≤ 30)
    let h ← hart
    let base := (h.rs sa).toNat
    let cfg := (h.rs (Fin.ofNat 32 (sa.val + 1))).toNat
    operand (fld base 63 57 == 0 && fld cfg 34 32 == 0 && fld cfg 27 26 == 0 && fld cfg 23 20 == 0 && fld cfg 15 0 == 0)
    let esz := 2 ^ fld cfg 19 16
    let off := fld cfg 63 51 * 256
    let len := fld cfg 50 38 * 256
    operand (fld cfg 19 16 < 4 && base % esz == 0)
    operand (0 < len && off + len ≤ spadBytes && 3 * esz ≤ len)
    let s ← get
    operand (s.windowFree k off len)
    waitRelease k
    let s ← get
    let (s, h) := if (h.kr k).phase == .valid then s.releaseK h k else (s, h)
    set { s with cur := h.putK k { KReg.launch with
      base := BitVec.ofNat 64 base, cfg := BitVec.ofNat 64 cfg, phase := .configuring } }

/-- The product of the extents declared so far (R91). -/
def KReg.extents (k : KReg) (got : BitVec 4) : Nat :=
  (List.finRange 4).foldl (fun p d => if got.getLsbD d.val then p * k.ext d else p) 1

/-- CTRS with the counters of a pair (R266). -/
def ctrsOf (b : Nat) : Nat :=
  (if fld b 47 40 != 0 then 2 ^ fld b 31 29 else 0) ||| (if fld b 39 32 != 0 then 2 ^ fld b 28 26 else 0)

/-- The register after a KDIM of dimension d (R266). -/
def KReg.withDim (k : KReg) (d : Fin 4) (a b : Word) : KReg :=
  let k' := { k with dimA := k.dimA.set d a, dimB := k.dimB.set d b, got := k.got ||| (1#4 <<< d.val) }
  let ctrs := (List.finRange 4).foldl (fun c j =>
    if k'.got.getLsbD j.val then c ||| ctrsOf k'.dimB[j].toNat else c) 0
  { k' with cfg := BitVec.ofNat 64 (putFld k'.cfg.toNat 15 8 ctrs) }

/-- KDIM (R266, R91, R92, R97). -/
def execKdim (k : KIdx) (sa : SReg) (dim : BitVec 2) (s : State) : Host.Outcome State Fault Refusal :=
  run s do
    begin false (.masked .none)
    let h ← hart
    legal ((h.kr k).phase != .valid)
    notChild
    operand (sa.val ≤ 30)
    let r := h.kr k
    operand (r.phase == .configuring)
    let d : Fin 4 := dim.toFin
    let a := h.rs sa
    let b := h.rs (Fin.ofNat 32 (sa.val + 1))
    operand (d.val ≤ r.ndim && fld b.toNat 63 48 != 0 && fld b.toNat 25 24 == 0)
    let r' := r.withDim d a b
    operand (3 * r'.extents r'.got * r'.esz ≤ r'.window.2)
    if !r'.dims.all fun j => r'.got.getLsbD j.val then updCur fun h => h.putK k r'
    else
      let box := r'.box h.c
      let xs := if box.isEmpty then [] else box.elements
      waitFor (.ahead r'.strm false)
      scout k r' xs
      let s ← get
      let queued := s.cur.inLine r'
      let (s, h) := s.enterAll (s.cur.putK k { r' with phase := .valid }) k queued xs
      set { s with cur := h.putK k { h.kr k with flights := if xs.isEmpty then [] else [xs] } }

/-! ### Advances -/

/-- The registers that an advance affects: valid, with a changed counter in CTRS (R96, R267). -/
def Hart.affected (h : Hart) (changed : Nat) : List KIdx :=
  (List.finRange 16).filter fun i => (h.k[i]).phase == .valid && (h.k[i]).ctrs &&& changed != 0

/-- The stalls of an advance: fewer than two advances in flight at every affected register (R101, R267), and the hart's earlier accesses
in their streams (R106). -/
def waitAdvance (changed : Nat) : List KIdx → Act Unit
  | [] => waitFor (.advances changed)
  | i :: is => do
    let h ← hart
    waitFor (.ahead (h.kr i).strm true)
    waitAdvance changed is

/-- What the release list of an advance waits for: the arrival of its elements, which the advances that fetch them still await (R101);
and, where it writes back, the earlier accesses of its stream and the collectives in its way (R106, R134). -/
def waitLeave (i : KIdx) (xs : List (List Nat)) : Act Unit := do
  let h ← hart
  let k := h.kr i
  waitFor (.landed i xs)
  if xs.any fun x => ((h.copy? k x).map WinElem.dirty).getD false then waitStream k.strm true
  waitBack k xs

/-- An advance to new counters (R96, R97, R101, R267): every fetch list is probed; then the counters change, every register enters
its new elements in ascending number, and every register leaves its old ones, the lowest-numbered last, so that it writes back what
all of them leave (R313). An advance that moves nothing at a register leaves its advances in flight as they are, whatever their number:
the table of R101 shows another state after one, and no advance whose completion would end it (assumption 24). -/
def advance (changed : Nat) (f : Vector (BitVec 32) 8 → Vector (BitVec 32) 8) : Act Unit := do
  let h ← hart
  let c := h.c
  let c' := f c
  let regs := h.affected changed
  waitAdvance changed regs
  let fetches := regs.map fun i => (i, boxElements (diff ((h.kr i).box c') ((h.kr i).box c)))
  let releases := regs.map fun i => (i, boxElements (diff ((h.kr i).box c) ((h.kr i).box c')))
  fetches.forM fun p => scout p.1 (h.kr p.1) p.2
  releases.forM fun p => waitLeave p.1 p.2
  let s ← get
  let old := s.cur
  let (s, h) := fetches.foldl (fun (p : State × Hart) q => p.1.enterAll p.2 q.1 (old.inLine (old.kr q.1)) q.2) (s, { s.cur with c := c' })
  let (s, h) := releases.reverse.foldl (fun (p : State × Hart) q => p.1.leaveAll p.2 q.1 q.2) (s, h)
  let h := (fetches.zip releases).foldl (fun h q =>
    if q.1.2.isEmpty && q.2.2.isEmpty then h
    else h.putK q.1.1 { h.kr q.1.1 with flights := (h.kr q.1.1).flights ++ [q.1.2] }) h
  set { s with cur := h }

/-- KADV (R267). -/
def execKadv (c : CIdx) (imm : BitVec 11) (s : State) : Host.Outcome State Fault Refusal :=
  run s do
    begin false (.masked .none)
    advance (2 ^ c.val) fun v => v.set c (v[c] + imm.signExtend 32)

/-- KADVZ (R267). -/
def execKadvz (c cz : CIdx) (imm : BitVec 8) (s : State) : Host.Outcome State Fault Refusal :=
  run s do
    legal (c != cz)
    begin false (.masked .none)
    advance (2 ^ c.val ||| 2 ^ cz.val) fun v => (v.set c (v[c] + imm.signExtend 32)).set cz 0

/-- KSETC (R267). -/
def execKsetc (c : CIdx) (sa : SReg) (s : State) : Host.Outcome State Fault Refusal :=
  run s do
    begin false (.masked .none)
    let h ← hart
    let x := (h.rs sa).setWidth 32
    advance (2 ^ c.val) fun v => v.set c x

/-- KREL (R268, R101). -/
def execKrel (k : KIdx) (s : State) : Host.Outcome State Fault Refusal :=
  run s do
    begin false (.masked .none)
    notChild
    waitRelease k
    let s ← get
    let (s, h) := s.releaseK s.cur k
    set { s with cur := h }

/-- KWAIT (R268, R101): it stalls until every advance in flight has completed. -/
def execKwait (k : KIdx) (s : State) : Host.Outcome State Fault Refusal :=
  run s do
    begin false (.masked .none)
    notChild
    waitFor (.settled k)

/-- A word of KQRY (R268). -/
def KReg.word (k : KReg) (w : Nat) : Word :=
  match w with
  | 0 => k.base
  | 1 => k.cfgWord
  | 2 => k.cnt
  | w =>
    let d := (w - 3) / 2
    if h : d < 4 then
      if k.ndim < d then 0 else if (w - 3) % 2 == 0 then k.dimA[d] else k.dimB[d]
    else 0

/-- KQRY (R268). -/
def execKqry (k : KIdx) (sa : SReg) (word : BitVec 4) (s : State) : Host.Outcome State Fault Refusal :=
  run s do
    legal (word.toNat < 11)
    begin false (.masked .scalar)
    notChild
    let h ← hart
    writeD sa ((h.kr k).word word.toNat)

/-- Whether every element that the oldest advance of a register fetches has arrived (R101). -/
def Hart.arrived (h : Hart) (k : KIdx) : Bool :=
  match (h.kr k).flights with
  | [] => true
  | xs :: _ => xs.all fun x => ((h.copy? (h.kr k) x).map fun e => e.arrival == .arrived).getD true

/-- ADVANCE_COMPLETE (R101): the oldest advance of a register completes, once every element of its fetch list has arrived. -/
def State.advanceComplete (s : State) (id : HartId) (k : KIdx) : State :=
  s.updHart id fun h => if h.arrived k then h.putK k { h.kr k with flights := (h.kr k).flights.drop 1 } else h

/-- Whether the Chuck has to fetch an element (again): it waits for its page or for its place in line, or an invalidation has made it
stale; one whose probe has failed is fetched by the next instruction that meets it (R365). -/
def WinElem.toFetch (e : WinElem) : Bool := e.arrival == .page

/-- Whether an element that two fetch lists of a register do not share has to be read after another: the one entered first (R133). -/
def Hart.behind (h : Hart) (i : KIdx) (x : List Nat) : Bool :=
  let k := h.kr i
  (h.win.takeWhile fun e => !(e.x == x && h.copyOf k e)).any fun e =>
    e.arrival != .arrived && (List.finRange 16).any fun j =>
      e.holders.getLsbD j.val && (h.kr j).strm == k.strm && !(j == i && k.flights.any fun f => f.contains e.x && f.contains x)

/-- An element fetched (again): FETCHED counts it once more where it had become stale (R110, R365). -/
def State.refetchElem (s : State) (h : Hart) (i : KIdx) (x : List Nat) (cache : SectorCache) : SectorCache × State × Hart :=
  let k := h.kr i
  let (r, t, cache, s, h) := s.chuckRead h k (k.address x) cache
  let again := ((h.copy? k x).map WinElem.stale).getD false && r != .gone && r != .later .page
  let keep := r == .later .page
  let h := h.updCopy k x fun e => if keep then some e else some (e.fetched t r)
  (cache, s, if again then h.putK i (h.kr i).countFetch else h)

/-- The elements of a register that are to be fetched, fetched (R365): one whose probe fails stays stale. -/
def State.refetch (s : State) (h : Hart) (i : KIdx) : State × Hart :=
  ((h.win.filter fun e => e.toFetch && e.holders.getLsbD i.val).foldl (fun (p : SectorCache × State × Hart) e =>
    if p.2.2.behind i e.x || !s.inTurn h (h.kr i) e.x false then p else p.2.1.refetchElem p.2.2 i e.x p.1) ([], s, h)).2

/-- STALE_REFETCH (R365). -/
def State.staleRefetch (s : State) (id : HartId) (k : KIdx) : State :=
  match s.hart? id with
  | none => s
  | some h =>
    if !s.maySend id then s
    else
      let (s, h) := s.refetch h k
      s.updHart id fun _ => h

/-- A lessor's answer to a fetch of the Chuck: the elements of the sector that wait for it arrive (R102, R105). -/
def Hart.arrive (h : Hart) (sector cls data : Nat) : Hart :=
  { h with win := h.win.map fun e =>
      match e.arrival, (List.finRange 16).find? fun i => e.holders.getLsbD i.val with
      | .lessor pa, some i =>
        if pa / 64 * 64 == sector then
          e.fetched e.held (.data cls (data / 2 ^ (8 * (pa % 64)) % 2 ^ (8 * (h.kr i).esz)) ((h.kr i).address e.x / 64 * 64))
        else e
      | _, _ => e }

/-- KSTAT: two bits a register, and SHR for registers that hold a shared element (R63, R100). -/
def Hart.kstat (h : Hart) : Word :=
  let st := (List.finRange 16).foldl (fun n i => n + (h.k[i]).st * 2 ^ (2 * i.val)) 0
  let shr := h.win.foldl (fun (b : BitVec 16) e => if 2 ≤ popcount 16 e.holders.toNat then b ||| e.holders else b) 0
  BitVec.ofNat 64 (shr.toNat * 2 ^ 32 + st)

end Sys2Proof.Machine
end

