-- ==== Sys2Proof/Machine/VMem.lean ====
section
/-! DEFINITION. Vector memory instructions of majors 0x22 to 0x26 (R246 to R258): addresses, the probe of a whole instruction (R125),
loads by sector (R122, R128), stores by sector (R123, R129), first-fault trimming (R255), windows (R94, R95, R102), and scatters
(R149, R257, R258). -/

namespace Sys2Proof.Machine

/-! ### Probing -/

/-- One piece of an access: its element, its address, its length in bytes, the element's address and, for a store, the value and, where
it writes only part of a byte, the bits that it writes. -/
structure Piece where
  elem : Nat
  va : Nat
  n : Nat
  x : Nat := 0
  mask : Nat := 0
  addr : Nat := va
deriving DecidableEq, Repr

/-- A piece that has been located. -/
structure Placed where
  piece : Piece
  loc : Loc
deriving DecidableEq, Repr

/-- A piece that an access table refuses. -/
structure Refused where
  piece : Piece
  target : Target
  kind : Nat
deriving DecidableEq, Repr

/-- The order in which the causes of one element decide (R377 item 6). A probe that stalls has yet to find the causes of its walk. -/
def Miss.rank : Miss → Nat
  | .fault 0 => 0
  | .fault 4 => 1
  | .fault 5 => 2
  | .align => 3
  | .stall _ => 4
  | .fault 3 => 6
  | .fault 6 => 7
  | .fault _ => 5
  | .residency => 8
  | .unbacked => 9
  | .refused _ _ => 10

/-- Of what the pieces of one element come to, the cause that decides; refusals by an access table decide nothing here (R377). -/
def worstMiss : List (Piece × Except Miss Loc) → Option (Piece × Miss)
  | [] => none
  | (p, r) :: rest =>
    match r, worstMiss rest with
    | .error (.refused _ _), x => x
    | .error m, some (q, n) => if n.rank < m.rank then some (q, n) else some (p, m)
    | .error m, none => some (p, m)
    | .ok _, x => x

/-- Consecutive pieces of one element together. -/
def byElem {α : Type} (elem : α → Nat) : List α → List (List α)
  | [] => []
  | p :: ps =>
    match byElem elem ps with
    | (q :: qs) :: rest => if elem q == elem p then (p :: q :: qs) :: rest else [p] :: (q :: qs) :: rest
    | rest => [p] :: rest

/-- The probes of the pieces of one element, with the pages probed so far. -/
def State.probePieces (a : Acc) : List Piece → List Nat → State → List (Piece × Except Miss Loc) × List Nat × State
  | [], seen, s => ([], seen, s)
  | p :: ps, seen, s =>
    let (r, s) := s.probeAgain s.cur.req a (seen.contains (p.va / 4096)) p.va p.n
    let (rs, seen, s) := State.probePieces a ps (if seen.contains (p.va / 4096) then seen else p.va / 4096 :: seen) s
    ((p, r) :: rs, seen, s)

/-- The probe of every element in ascending order: the lowest that fails raises the fault of the whole instruction, by the cause that
decides within it, with its address; refusals are collected (R125, R332, R377). -/
def probeElems (a : Acc) (stream kreg : Nat) : List (List Piece) → List Nat → Act (List Placed × List Refused)
  | [], _ => pure ([], [])
  | ps :: rest, seen => do
    ps.forM fun p => waitFor (.buffer p.va p.n)
    let s ← get
    let (rs, seen, s) := State.probePieces a ps seen s
    match worstMiss rs with
    | some (p, m) => do
      let _ ← settle a { stream := stream, elem := p.elem, kreg := kreg, addr := some p.addr } p.va (.error m, s)
      pure ([], [])
    | none => do
      set s
      let (ok, no) ← probeElems a stream kreg rest seen
      pure ((rs.filterMap fun x => match x.2 with | .ok l => some ⟨x.1, l⟩ | _ => none) ++ ok,
        (rs.filterMap fun x => match x.2 with | .error (.refused t k) => some ⟨x.1, t, k⟩ | _ => none) ++ no)

/-- The probe of every piece (R125). -/
def probeAll (a : Acc) (stream kreg : Nat) (ps : List Piece) : Act (List Placed × List Refused) :=
  probeElems a stream kreg (byElem Piece.elem ps) []

/-! ### Loads -/

/-- How a load of several elements ends. -/
inductive LoadEnd where
  | done
  /-- Class 3 or 4 at an element: what TDETA records, and the class (R128, R130). -/
  | error (elem deta cls : Nat)
  | wait (w : Wait)
deriving DecidableEq, Repr

/-- The value of one located piece; `op` says how a lessor is asked. -/
def State.readPiece (s : State) (cache : SectorCache) (p : Placed) (op : PeerOp) : Got × SectorCache × State :=
  s.readCached s.cur.id s.cur.id cache p.piece.va p.loc p.piece.n op

/-- The values of located pieces in ascending order, up to the first error or wait (R128). -/
def State.readPieces (s : State) (cache : SectorCache) (op : PeerOp) :
    List Placed → List (Nat × Nat) × LoadEnd × SectorCache × State
  | [] => ([], .done, cache, s)
  | p :: ps =>
    match s.readPiece cache p op with
    | (.wait w, cache, s) => ([], .wait w, cache, s)
    | (.data c x, cache, s) =>
      if 3 ≤ c then ([], .error p.piece.elem (s.errorAddress p.loc p.piece.va p.piece.n) c, cache, s)
      else
        let (xs, e, cache, s) := s.readPieces cache op ps
        ((p.piece.elem, x) :: xs, e, cache, s)

/-! ### Stores -/

/-- Bytes of one sector of main or leased memory to be written through one page (R122), and the elements that write them. `partly`:
some byte is written only in part, so the store is a read-modify-write whatever bytes it enables (R247, R393). -/
structure SectorWrite where
  page : Nat
  base : Nat
  loc : Loc
  data : Nat
  enable : Nat
  partly : Bool
  elems : List Nat
deriving DecidableEq, Repr

/-- The byte of memory of this device that a partial store merges into: one that an earlier piece writes, or the stored one (R247). -/
def State.oldByte (s : State) (ws : List SectorWrite) (l : Loc) : Nat :=
  match l with
  | .dram u pa layout _ =>
    (match ws.reverse.find? fun w => w.base == pa / 64 * 64 && bitOf w.enable (pa % 64) with
      | some w => w.data
      | none => (s.decodeSector u (pa / 64 * 64) layout).data) / 2 ^ (8 * (pa % 64)) % 256
  | .spad c o => (s.spadByte c o).toNat
  | l => (Memory.read s.mem l.key).toNat

/-- What a piece stores at a location: its value, or the byte with its bits put in. -/
def State.merged (s : State) (ws : List SectorWrite) (l : Loc) (p : Piece) : Nat :=
  if p.mask == 0 then p.x else (s.oldByte ws l &&& (255 - p.mask)) ||| (p.x &&& p.mask)

/-- Whether a piece writes only some bits of its byte. -/
def Piece.partly (p : Piece) : Bool := p.mask != 0 && p.mask != 255

/-- The location of the first byte of a sector. -/
def Loc.sector : Loc → Loc
  | .dram u pa layout ns => .dram u (pa / 64 * 64) layout ns
  | .lease pa ns => .lease (pa / 64 * 64) ns
  | l => l

/-- A piece added to the writes of its sector; later pieces overwrite earlier ones (R149, R253). -/
def addWrite (l : Loc) (p : Piece) (x : Nat) : List SectorWrite → List SectorWrite
  | [] =>
    let o := l.key % 64
    [⟨sectorOf p.va, l.sector.key, l.sector, x % 2 ^ (8 * p.n) * 2 ^ (8 * o), (2 ^ p.n - 1) * 2 ^ o, p.partly, [p.elem]⟩]
  | w :: ws =>
    if w.page == sectorOf p.va && w.base == l.sector.key then
      let o := l.key % 64
      { w with
        data := w.data - w.data / 2 ^ (8 * o) % 2 ^ (8 * p.n) * 2 ^ (8 * o) + x % 2 ^ (8 * p.n) * 2 ^ (8 * o)
        enable := w.enable ||| ((2 ^ p.n - 1) * 2 ^ o)
        partly := w.partly || p.partly
        elems := w.elems ++ [p.elem] } :: ws
    else w :: addWrite l p x ws

/-- Who performs the stores of an instruction or a command: the master, its identity for lessors, the stream, whether each request takes a
sequence tag of its own (R403, R404), and the physical lanes of the scatter elements that an element stands for (R35). -/
structure Writer where
  mid : Nat
  id : HartId
  stream : Nat
  tagged : Bool := true
  lanes : Nat → List Nat := fun _ => []

/-- A gathered sector stored; whether it was performed (R129). One to a lessor is posted. -/
def State.storeGathered (s : State) (u : Writer) (w : SectorWrite) : Bool × State :=
  match w.loc with
  | .dram unit pa layout _ =>
    let (ok, s) := if w.partly then s.storePart u.mid unit pa layout w.data w.enable
      else s.storeSector u.mid unit pa layout w.data w.enable
    (ok, if u.tagged then s.request u.mid unit 0 else s)
  | l =>
    (true, s.postLessor { s.toLessor u.id u.stream l.key 64 (.write (BitVec.ofNat 512 w.data) (BitVec.ofNat 64 w.enable)) with
      lanes := w.elems.flatMap u.lanes })

/-- Some bits of a byte stored at its lessor (R247). -/
def State.mergeAtLessor (s : State) (u : Writer) (pa : Nat) (p : Piece) : State :=
  s.postLessor (s.toLessor u.id u.stream pa p.n (.merge (BitVec.ofNat 64 p.x) (BitVec.ofNat 64 p.mask)))

/-- The scratchpad words that some pieces of one element touch but do not write whole (R120). -/
def partWords (ps : List Placed) : List (Nat × Nat) :=
  let touched := ps.flatMap fun p => match p.loc with
    | .spad c o => (wordsOf o p.piece.n).map fun w => (c, w)
    | _ => []
  touched.eraseDups.filter fun cw => !(List.range 4).all fun i => ps.any fun p => match p.loc with
    | .spad c o => c == cw.1 && o ≤ 4 * cw.2 + i && 4 * cw.2 + i < o + p.piece.n && !p.piece.partly
    | _ => false

/-- Reads of scratchpad words: the first that is severe. -/
def State.touchWords (s : State) (mid : Nat) : List (Nat × Nat) → Option (Nat × Nat) × State
  | [] => (none, s)
  | cw :: rest =>
    match s.spadWordRead mid cw.1 cw.2 with
    | (true, s) => s.touchWords mid rest
    | (false, s) => (some cw, s)

/-- Where a store stops for a scratchpad word that cannot be rebuilt (R121): the element and the word. -/
structure Severe where
  elem : Nat
  core : Nat
  word : Nat
deriving DecidableEq, Repr

/-- What TDETA records of it (R130). -/
def Severe.deta (x : Severe) : Nat := apertureBase + x.core % 96 * 0x200000 + 4 * x.word

/-- How a store of several pieces ends. -/
structure StoreEnd where
  severe : Option Severe := none
  /-- The elements lost at their controller (R129). -/
  lost : List Nat := []
deriving DecidableEq, Repr

/-- The element boundary at which a store stopped. -/
def StoreEnd.boundary (e : StoreEnd) : Option Nat := e.severe.map Severe.elem

/-- One piece of an element whose scratchpad words have been read: gathered, or stored in its place. -/
def State.putPiece (s : State) (u : Writer) (ws : List SectorWrite) (p : Placed) : List SectorWrite × State :=
  match p.loc with
  | .spad c o => (ws, s.spadPut c o p.piece.n (s.merged ws p.loc p.piece))
  | .lease pa _ => if p.piece.partly then (ws, s.mergeAtLessor u pa p.piece) else (addWrite p.loc p.piece p.piece.x ws, s)
  | .dram .. => (addWrite p.loc p.piece (s.merged ws p.loc p.piece) ws, s)
  | l => (ws, (s.storeAt u.mid l p.piece.n (s.merged ws l p.piece) u.stream u.id).2)

/-- The pieces of one element: its scratchpad words that it writes in part are read first, and nothing of it is stored when one is severe
(R121, R126). Its scratchpad stores are one request. -/
def State.putElem (s : State) (u : Writer) (ws : List SectorWrite) (ps : List Placed) : Option Severe × List SectorWrite × State :=
  match s.touchWords u.mid (partWords ps) with
  | (some cw, s) => (some ⟨(ps.head?.map fun p => p.piece.elem).getD 0, cw.1, cw.2⟩, ws, s)
  | (none, s) =>
    let (ws, s) := ps.foldl (fun (acc : List SectorWrite × State) p => acc.2.putPiece u acc.1 p) (ws, s)
    (none, ws, match ps.findSome? (fun p => match p.loc with | .spad c _ => some c | _ => none) with
      | some c => if u.tagged then s.request u.mid (spadTarget c) 0 else s
      | none => s)

/-- Elements in ascending order: their pieces of main and leased memory gathered by sector, the others stored at once, up to the first
element that stops the instruction (R122, R126). -/
def State.gatherElems (s : State) (u : Writer) (ws : List SectorWrite) : List (List Placed) → Option Severe × List SectorWrite × State
  | [] => (none, ws, s)
  | ps :: rest =>
    match s.putElem u ws ps with
    | (some x, ws, s) => (some x, ws, s)
    | (none, ws, s) => s.gatherElems u ws rest

/-- The stores of located pieces: main and leased memory by sector, every other place element by element (R122, R123, R129). -/
def State.writePieces (s : State) (u : Writer) (ps : List Placed) : StoreEnd × State :=
  let (sev, ws, s) := s.gatherElems u [] (byElem (fun p => p.piece.elem) ps)
  ws.foldl (fun (acc : StoreEnd × State) w =>
    let (ok, s) := acc.2.storeGathered u w
    (if ok then acc.1 else { acc.1 with lost := acc.1.lost ++ w.elems }, s)) ({ severe := sev }, s)

/-- The stores of an instruction whose pieces below a boundary `cut` gives: when a scratchpad word stops it, exactly those of the elements
below are performed, and the word's error is reported (R121, R126). -/
def State.writeBelow (s : State) (u : Writer) (stop : Option Nat) (cut : Option Nat → List Placed) : StoreEnd × State :=
  match s.writePieces u (cut stop) with
  | (⟨some x, _⟩, _) =>
    let (e, s) := s.writePieces u (cut (some x.elem))
    ({ e with severe := some x }, (s.spadWordRead u.mid x.core x.word).2)
  | r => r

/-! ### Elements as pieces -/

/-- Whole elements of w ≥ 8 bits, as naturally aligned pieces. -/
def elemPieces (w : Nat) (addr : Nat → Nat) (val : Nat → Nat) (es : List Nat) : List Piece :=
  es.map fun e => { elem := e, va := addr e, n := w / 8, x := val e }

/-- Bytes that a sub-byte element lies in: one, or two where it crosses a byte boundary (R55). -/
def byteSpan (w e : Nat) : Nat := if e * w % 8 + w ≤ 8 then 1 else 2

/-- Bits of one byte added to the bytes of a store: with the last byte's, or as the next byte (R247). -/
def addByte (ps : List Piece) (p : Piece) : List Piece :=
  match ps.getLast? with
  | some l => if l.va == p.va then ps.dropLast ++ [{ l with x := l.x + p.x, mask := l.mask ||| p.mask }] else ps ++ [p]
  | none => [p]

/-- Sub-byte elements as bytes: each byte with the bits of its active elements, at the first element that touches it (R247). -/
def bytePieces (w start : Nat) (val : Nat → Nat) (es : List Nat) : List Piece :=
  es.foldl (fun (ps : List Piece) e =>
    let x := val e % 2 ^ w * 2 ^ (e * w % 8)
    let m := (2 ^ w - 1) * 2 ^ (e * w % 8)
    (List.range (byteSpan w e)).foldl (fun ps i =>
      addByte ps { elem := e, va := (start + e * w / 8 + i) % 2 ^ 64, n := 1, x := x / 256 ^ i % 256, mask := m / 256 ^ i % 256
                   addr := (start + e * w / 8) % 2 ^ 64 }) ps) []

/-- Unaligned elements as single bytes, which a store gathers again by word or sector (R254). -/
def unalignedPieces (w : Nat) (addr : Nat → Nat) (val : Nat → Nat) (es : List Nat) : List Piece :=
  es.flatMap fun e =>
    if addr e % (w / 8) == 0 then [{ elem := e, va := addr e, n := w / 8, x := val e }]
    else (List.range (w / 8)).map fun i =>
      { elem := e, va := (addr e + i) % 2 ^ 64, n := 1, x := val e / 256 ^ i % 256, addr := addr e }

/-- The address of element e of a unit-stride form from a start (R247). -/
def unitAddr (start w e : Nat) : Nat := (start + e * w / 8) % 2 ^ 64

/-! ### The end of a memory instruction -/

/-- ERIX cleared on completion (R62). With GL = 0 too: R62 is stated for every completion, and R29's words that no register is written
are read as being about the instruction's own results: DEDUCED (assumption 33). -/
def clearErix : Act Unit := updCur fun h => { h with erix := 0 }

/-- A refused load or read-modify-write freezes the hart precisely at its element (R334). -/
def freezeRefused {α : Type} (stream : Nat) (r : Refused) : Act α :=
  freezeAt r.target r.kind { stream := stream, elem := r.piece.elem } (some r.piece.elem) r.piece.addr

/-- A refused store freezes the hart, not precisely: at its next instruction boundary (R334). -/
def State.freezePosted (s : State) (stream : Nat) : List Refused → State
  | [] => s
  | r :: _ => s.freezeCur r.target r.kind false true stream r.piece.elem r.piece.addr

/-- The elements of a load put in place: probe, refusal, data, and the stops of R126, R128, R334 and R375. `join` makes element values
of piece values; `trim` acts with the data; `finish` runs on completion. -/
def loadElems (d : Vec) (es : List Nat) (stream : Nat) (pieces : List Nat → List Piece)
    (join : List (Nat × Nat) → List (Nat × Nat)) (finish : Act Unit) (trim : Hart → Hart := id) : Act Unit := do
  waitStream stream false
  let (ok, no) ← probeAll .load stream 0 (pieces es)
  let stop ← elementStop es d.w
  let below := belowStop (stop.map Stop.elem)
  let refusedAt := no.head?.map fun r => r.piece.elem
  let live := ok.filter fun p => below p.piece.elem && belowStop refusedAt p.piece.elem
  let s ← get
  let (xs, e, _, s') := s.readPieces [] .read live
  match e with
  | .wait w => fun _ => .error (.stay (s.waitOn s' w))
  | .error b deta cls =>
    set s'
    updCur fun h => (trim h).writeElems d (join (xs.filter fun p => p.1 < b))
    stopAt b { code := 0x08, deta := deta, cls := cls, stream := stream, elem := b }
  | .done =>
    set s'
    updCur fun h => (trim h).writeElems d (join xs)
    match no.filter fun r => below r.piece.elem with
    | r :: _ => freezeRefused stream r
    | [] => endStop stop finish

/-- The end of a store whose elements below its stop are done: a hart that a refusal has frozen stays at the boundary. -/
def endPosted (refused : List Refused) (stop : Option Stop) : Act Unit :=
  match refused, stop with
  | _ :: _, some x => fun s => .error (.stay { s with cur.erix := BitVec.ofNat 14 x.elem })
  | _, _ => endStop stop clearErix

/-- Located elements of a store performed: every piece that no table refuses, up to the stop; a refusal freezes the hart at its next
boundary (R334). `count` sees the elements below the boundary, those of them that were not performed, and those posted to a lessor. -/
def storePlaced (es : List Nat) (stream : Nat) (stop : Option Stop) (cut : Option Nat → List Placed) (no : List Refused)
    (lanes : Nat → List Nat) (count : List Nat → List Nat → List Nat → Act Unit) : Act Unit := do
  let s ← get
  let (e, s) := s.writeBelow { mid := s.cur.id, id := s.cur.id, stream := stream, lanes := lanes } (stop.map Stop.elem) cut
  set s
  let live (x : Nat) : Bool := belowStop (stop.map Stop.elem) x && belowStop e.boundary x
  let refused := no.filter fun r => live r.piece.elem
  let posted := ((cut none).filter fun p => p.loc.leased).map fun p => p.piece.elem
  count (es.filter live) (e.lost ++ refused.map fun r => r.piece.elem) (posted.filter live)
  modify fun s => s.freezePosted stream refused
  match e.severe with
  | some x => do
    updCur fun h => { h with erix := BitVec.ofNat 14 x.elem }
    match refused with
    | [] => raise { code := 0x08, deta := x.deta, cls := 3, acc := 1, stream := stream, elem := x.elem }
    | _ => fun s => .error (.stay s)
  | none => endPosted refused stop

/-- No count of scatter elements. -/
def noCount (_ _ _ : List Nat) : Act Unit := pure ()

/-- Pieces at the locations that the probe has given their addresses. -/
def place (ps : List Piece) (ok : List Placed) : List Placed :=
  ps.filterMap fun p => (ok.find? fun q => q.piece.va == p.va && q.piece.n == p.n).map fun q => ⟨p, q.loc⟩

/-- The elements of a store performed: probe, then every piece, or the last of those that address the same bytes. A stop leaves the bits
that elements from its boundary up share with a byte as they were (R126). -/
def storeElems (w : Nat) (es : List Nat) (stream : Nat) (pieces : List Nat → List Piece) (once : List Placed → List Placed := id)
    (count : List Nat → List Nat → List Nat → Act Unit := noCount) : Act Unit := do
  waitStream stream true
  let (ok, no) ← probeAll .store stream 0 (pieces es)
  let stop ← elementStop es w
  let cut (b : Option Nat) : List Placed := once (if b.isNone then ok else place (pieces (es.filter (belowStop b))) ok)
  storePlaced es stream stop cut no (fun _ => []) count

/-- Of the located pieces that address the same bytes, the last (R149, R253). -/
def keepLast : List Placed → List Placed
  | [] => []
  | p :: ps => if ps.any fun q => q.loc.key == p.loc.key then keepLast ps else p :: keepLast ps

/-! ### Forms -/

/-- Start address of the immediate and register offsets (R247). -/
def immStart (h : Hart) (base : AReg) (imm : BitVec 5) : Nat := (h.ra base + BitVec.ofNat 64 (256 * imm.toNat)).toNat
def regStart (h : Hart) (base : AReg) (sx : SReg) : Nat := (h.ra base + h.rs sx).toNat

/-- The element pieces of a unit-stride load. -/
def loadPieces (w start : Nat) (es : List Nat) : List Piece :=
  if w < 8 then es.flatMap fun e =>
    (List.range (byteSpan w e)).map fun i =>
      { elem := e, va := (unitAddr start w e + i) % 2 ^ 64, n := 1, addr := unitAddr start w e }
  else elemPieces w (unitAddr start w) (fun _ => 0) es

/-- The two bytes of an element that crosses a byte boundary as one value. -/
def joinBytes : List (Nat × Nat) → List (Nat × Nat)
  | [] => []
  | [p] => [p]
  | p :: q :: rest => if p.1 == q.1 then (p.1, p.2 + 256 * q.2) :: joinBytes rest else p :: joinBytes (q :: rest)

/-- Sub-byte values cut from the bytes that hold them. -/
def cutBits (w : Nat) (xs : List (Nat × Nat)) : List (Nat × Nat) :=
  if w < 8 then (joinBytes xs).map fun p => (p.1, p.2 / 2 ^ (p.1 * w % 8) % 2 ^ w) else xs

/-- The mould of a unit-stride load (R253). -/
def loadUnit (vd : VReg) (m : MReg) (st : Stream) (start : Hart → Nat) : Act Unit := do
  beginV vd
  let h ← hart
  let d ← readVec vd
  let es := h.active m h.erix.toNat h.gl.toNat
  loadElems d es st.val (loadPieces d.w (start h)) (cutBits d.w) clearErix

/-- The mould of a strided load: w ≥ 8 (R247). -/
def loadStrided (vd : VReg) (m : MReg) (st : Stream) (base : AReg) (sx : SReg) : Act Unit := do
  beginV vd
  let h ← hart
  let d ← readVec vd
  operand (8 ≤ d.w)
  let es := h.active m h.erix.toNat h.gl.toNat
  loadElems d es st.val (elemPieces d.w (fun e => (h.ra base + BitVec.ofNat 64 e * h.rs sx).toNat) fun _ => 0) id clearErix

/-- The pieces of a unit-stride store (R247, R253). -/
def storePieces (d : Vec) (start : Nat) (es : List Nat) : List Piece :=
  if d.w < 8 then bytePieces d.w start d.elem es else elemPieces d.w (unitAddr start d.w) d.elem es

/-- Checks before a vector store, whose vd is a source (R174). -/
def beginStore : Act Unit := begin false (.masked .none)

/-- The mould of a unit-stride store (R253). -/
def storeUnit (vd : VReg) (m : MReg) (st : Stream) (start : Hart → Nat) : Act Unit := do
  beginStore
  let h ← hart
  let d ← readVec vd
  let es := h.active m h.erix.toNat h.gl.toNat
  storeElems d.w es st.val (storePieces d (start h))

/-! ### Windows -/

/-- The element width of a window access and whether it counts bytes (R94). -/
def windowWidth (w : Nat) : Nat := max w 8

/-- The register of a window access: configured, with the element size of the data register (R92, R94, R43). -/
def windowReg (k : KIdx) (w : Nat) : Act KReg := do
  let h ← hart
  operand h.parent.isNone
  let r := h.kr k
  operand (r.phase == .valid && windowWidth w == 8 * r.esz)
  pure r

/-- The coordinates that a relative index names; none when it is out of range (R94). DEDUCED (assumption 40): the view is the one the
registers hold now, so a handler's own advance moves it (R312). -/
def KReg.locate (k : KReg) (cs : Vector (BitVec 32) 8) (r : Nat) : Option (List Nat) :=
  let (xs, rest) := k.dims.foldl (fun (acc : List Int × Nat) d =>
    (acc.1 ++ [k.origin cs d + (acc.2 % k.ext d : Nat)], acc.2 / k.ext d)) ([], r)
  if rest == 0 && ((k.dims.zip xs).all fun p =>
      max (k.origin cs p.1) 0 ≤ p.2 && p.2 < min (k.origin cs p.1 + k.ext p.1) (k.bound p.1))
  then some (xs.map Int.toNat) else none

/-- The residency fault of an out-of-range element (R95, R374). -/
def residencyFault {α : Type} (k : KIdx) (stream e r acc : Nat) : Act α :=
  raise { code := 0x07, deta := r, elem := e, stream := stream, kreg := k.val, acc := acc }

/-- An element that an access meets and that has not arrived is waited for (R102, R365). One whose probe has failed is probed again: a
probe that still fails raises its fault (R95). One that an access table refuses freezes the hart, once, as an engine transfer does (R334,
R335), and leaves the element stale with the data it holds, 0 for one never fetched: the specification says no more of its value
(assumption 25). -/
def refreshStale (k : KIdx) (r : KReg) (stream e : Nat) (x : List Nat) : Act Unit := do
  let h ← hart
  match h.copy? r x with
  | none => pure ()
  | some c =>
    match c.arrival with
    | .lessor pa => stall (.peer (pa / 64 * 64))
    | .page => waitFor (.landed k [x])
    | .arrived =>
      if !c.stale then pure ()
      else do
        waitStream r.strm false
        match ← locateAgain .load { stream := stream, elem := e, kreg := k.val, eng := true } (r.address x) r.esz with
        | .error (t, kind) => modify fun s =>
          let (s, h) := s.freezeEngine s.cur t kind r.strm 0 (r.address x)
          { s with cur := h }
        | .ok _ => do
          let s ← get
          let (_, s, h) := s.refetchElem s.cur k x []
          let s := { s with cur := h }
          match (h.copy? r x).map WinElem.arrival with
          | some (.lessor pa) => fun _ => .error (.stay { s with cur.wait := .peer (pa / 64 * 64) })
          | some .page => fun _ => .error (.stay (s.stallOn .sectors))
          | _ => set s

/-- The check of every active element (R95), and what each that is in range waits for: coordinates by element. The lowest element that
fails decides (R377). -/
def checkWindow (k : KIdx) (r : KReg) (stream acc : Nat) (idx : Nat → Nat) : List Nat → Act (List (Nat × List Nat))
  | [] => pure []
  | e :: es => do
    let h ← hart
    match r.locate h.c (idx e) with
    | none => residencyFault k stream e (idx e) acc
    | some x =>
      refreshStale k r stream e x
      let xs ← checkWindow k r stream acc idx es
      pure ((e, x) :: xs)

/-- The data register's elements as a window access counts them: bytes below 8 bits (R94). -/
def windowVec (d : Vec) : Vec := if d.w < 8 then { d with fmt := .uint 8 } else d

/-- The data register of a window access, with the length check of R58 on what GL counts (R94). -/
def readWindowVec (vd : VReg) : Act Vec := do
  let h ← hart
  match h.vec? vd with
  | none => reservedOperand
  | some o =>
    operand (h.gl.toNat ≤ (windowVec o).capacity && o.lengthOk 0)
    pure o

/-- What a load of a window element tells the hart's own fetch of the bytes in memory (R201): a clean copy has been read from there. -/
def Hart.hasRead (h : Hart) (r : KReg) (x : List Nat) : Hart :=
  if h.view.isEmpty then h
  else match h.copy? r x with
  | some ⟨_, _, data, false, _, _, _, _, some t⟩ => h.sawBytes t.loc.key r.esz data.toNat
  | _ => h

/-- The loads of checked window elements (R105, R126, R128, R375). -/
def readWindow (r : KReg) (d : Vec) (stream : Nat) (xs : List (Nat × List Nat)) (finish : Act Unit) : Act Unit := do
  let stop ← elementStop (xs.map Prod.fst) d.w
  let h ← hart
  let cls (x : List Nat) : Nat := ((h.copy? r x).map WinElem.cls).getD 0
  let live := xs.filter fun p => belowStop (stop.map Stop.elem) p.1
  let bad := live.find? fun p => 3 ≤ cls p.2
  let vals := (live.filter fun p => belowStop (bad.map Prod.fst) p.1).map fun p =>
    (p.1, ((h.copy? r p.2).map fun e => e.data.toNat).getD 0)
  updCur fun h => (vals.foldl (fun h p => h.hasRead r ((xs.find? fun q => q.1 == p.1).map Prod.snd |>.getD [])) h).writeElems d vals
  match bad with
  | some p => stopAt p.1 { code := 0x08, deta := ((h.copy? r p.2).map WinElem.errAt).getD 0, cls := cls p.2, stream := stream, elem := p.1 }
  | none => endStop stop finish

/-- The mould of VLDK and VGATHK (R94, R95, R102). -/
def loadWindow (vd : VReg) (k : KIdx) (m : MReg) (st : Stream) (idx : Hart → Act (Nat → Nat)) : Act Unit := do
  beginV vd
  let h ← hart
  let d ← readWindowVec vd
  let ix ← idx h
  let r ← windowReg k d.w
  let es := h.active m h.erix.toNat h.gl.toNat
  let xs ← checkWindow k r st.val 0 ix es
  readWindow r (windowVec d) st.val xs clearErix

/-- The stores of checked window elements: each makes its copy dirty and clears its error (R103, R105). -/
def writeWindow (r : KReg) (d : Vec) (xs : List (Nat × List Nat)) : Act Unit :=
  updCur fun h => xs.foldl (fun h p => h.updCopy r p.2 fun e =>
    some { e with data := BitVec.ofNat 64 (d.elem p.1), dirty := true, cls := 0, stale := false, arrival := .arrived }) h

/-- The mould of VSTK and VSCATK (R94, R95, R103, R149): an element that has not arrived is waited for (R102). -/
def storeWindow (vd : VReg) (k : KIdx) (m : MReg) (st : Stream) (idx : Hart → Act (Nat → Nat))
    (pick : List (Nat × List Nat) → Act (List (Nat × List Nat))) : Act Unit := do
  beginStore
  let h ← hart
  let d ← readWindowVec vd
  let ix ← idx h
  let r ← windowReg k d.w
  let es := h.active m h.erix.toNat h.gl.toNat
  let xs ← checkWindow k r st.val 1 ix es
  let stop ← elementStop es (windowVec d).w
  let ys ← pick (xs.filter fun p => belowStop (stop.map Stop.elem) p.1)
  writeWindow r (windowVec d) ys
  endStop stop clearErix

/-- The relative index of the residency form (R94, R247). -/
def offsetIndex (sx : SReg) (h : Hart) : Act (Nat → Nat) := pure fun e => ((h.rs sx).toNat + e) % 2 ^ 64

/-! ### First-fault loads -/

/-- The lowest active element after the first that fails a check or lies on a no-speculation page (R255). -/
def trimAt (check : Nat → State → Bool × State) : List Nat → State → Option Nat × State
  | [], s => (none, s)
  | e :: es, s =>
    match check e s with
    | (true, s) => trimAt check es s
    | (false, s) => (some e, s)

/-- Whether an address lies on a no-speculation page, whatever else stands in the way of its access (R124). -/
def State.leafNs (s : State) (r : Req) (va : Nat) : Bool :=
  if apertureBase ≤ va then false
  else match (s.walk r va).1 with
  | .ok leaf => bitOf leaf.entry 63
  | .error _ => false

/-- Whether a location lies on a no-speculation page (R124); scratchpad has none. -/
def Loc.ns : Loc → Bool
  | .spad _ _ => false
  | .dram _ _ _ ns => ns
  | .host _ ns => ns
  | .lease _ ns => ns
  | .doorbell _ _ ns => ns

/-- Whether an element after the first may be read ahead: it probes and lies on no NS page (R38, R124). A refusal by an access
table is no check of R125 and stops the load itself, where the page may be read ahead. -/
def speculable (p : Piece) (s : State) : Bool × State :=
  match s.probe s.cur.req .load false p.va p.n with
  | (.ok l, s) => (!l.ns, s)
  | (.error (.fault _), s) => (false, s)
  | (.error .align, s) => (false, s)
  | (.error .residency, s) => (false, s)
  | (.error _, s) => (!s.leafNs s.cur.req p.va, s)

/-- The same for every piece of an element. -/
def speculableAll : List Piece → State → Bool × State
  | [], s => (true, s)
  | p :: ps, s =>
    match speculable p s with
    | (true, s) => speculableAll ps s
    | (false, s) => (false, s)

/-- The end of a first-fault load: SLEN of a sparse group, and of its copy, becomes GL (R250, R255, R173), unless GL is 0 (R29). -/
def trimmed (vd : VReg) (d : Vec) : Act Unit := do
  clearErix
  updCur fun h =>
    if d.sparse && h.gl != 0 then
      let t := BitVec.ofNat 64 (putFld d.tag.toNat 63 48 h.gl.toNat)
      let h' := h.putTags vd.val t d.group
      if h.lent && h.copyClass == 2 then h'.putTags h.copyIndex t d.group else h'
    else h

/-- GL cut at an element. -/
def Hart.trimTo (g : Option Nat) (h : Hart) : Hart :=
  match g with
  | some e => { h with gl := BitVec.ofNat 15 e }
  | none => h

/-- The mould of VLDF (R255): trimming, then the load of the elements below the new GL. -/
def loadFirstFault (vd : VReg) (m : MReg) (st : Stream) (wide : Bool) (pieces : Hart → Nat → List Nat → List Piece) :
    Act Unit := do
  beginV vd
  let h ← hart
  let d ← readVec vd
  operand (!wide || 8 ≤ d.w)
  waitStream st.val false
  let es := h.active m h.erix.toNat h.gl.toNat
  let ps := pieces h d.w es
  let _ ← probeAll .load st.val 0 (ps.filter fun p => some p.elem == es.head?)
  let s ← get
  let (g, s) := trimAt (fun e s => speculableAll (ps.filter fun p => p.elem == e) s) (es.drop 1) s
  set s
  loadElems d (es.filter (belowStop g)) st.val (pieces h d.w) (cutBits d.w) (trimmed vd d) (Hart.trimTo g)

/-- Whether a window element after the first may be read: in range, and not a stale one whose probe fails (R95, R255). -/
def windowReadable (r : KReg) (ix : Nat → Nat) (e : Nat) (s : State) : Bool × State :=
  match r.locate s.cur.c (ix e) with
  | none => (false, s)
  | some x =>
    match s.cur.copy? r x with
    | some c =>
      if c.stale && c.arrival == .arrived then
        match s.probe s.cur.req .load false (r.address x) r.esz with
        | (.error (.fault _), s) => (false, s)
        | (.error .align, s) => (false, s)
        | (.error .residency, s) => (false, s)
        | (_, s) => (true, s)
      else (true, s)
    | none => (true, s)

/-- VLDKF (R95, R255): elements after the first that are out of range, or stale with a probe that fails, trim GL. -/
def loadWindowFirst (vd : VReg) (k : KIdx) (m : MReg) (st : Stream) (sx : SReg) : Act Unit := do
  beginV vd
  let h ← hart
  let d ← readWindowVec vd
  let r ← windowReg k d.w
  let ix ← offsetIndex sx h
  let es := h.active m h.erix.toNat h.gl.toNat
  let _ ← checkWindow k r st.val 0 ix (es.take 1)
  let s ← get
  let (g, s) := trimAt (windowReadable r ix) (es.drop 1) s
  set s
  let xs ← checkWindow k r st.val 0 ix (es.filter (belowStop g))
  updCur (Hart.trimTo g)
  readWindow r (windowVec d) st.val xs (trimmed vd d)

/-! ### Indexed forms -/

/-- The index operand (R246, R250): of the integer class, read under its own signedness, not sparse. A scaled one raises the trap that
R219 gives scaled sources where an entry requires the integer class: DEDUCED (assumption 18). -/
def readIndex (vi : VReg) : Act Vec := do
  let i ← readVec vi
  operand (i.isInt && !i.sparse)
  pure i

/-- The address of an indexed form, scaled by the element size or in bytes (R247). -/
def indexAddr (h : Hart) (base : AReg) (i : Vec) (scale : Nat) (e : Nat) : Nat :=
  wrap 64 ((h.ra base).toNat + i.fmt.int (i.elem e) * scale)

/-- The mould of VGATH (R257). -/
def gather (vd : VReg) (base : AReg) (vi : VReg) (m : MReg) (st : Stream) (bytes : Bool) : Act Unit := do
  beginV vd
  let h ← hart
  let d ← readVec vd
  let i ← readIndex vi
  operand (8 ≤ d.w && !d.sparse)
  let es := h.active m h.erix.toNat h.gl.toNat
  loadElems d es st.val
    (elemPieces d.w (indexAddr h base i (if bytes then 1 else d.w / 8)) fun _ => 0) id clearErix

/-- Of the pieces that address the same bytes, one keeps its value in an unordered scatter: a free choice (R149, assumption 3). -/
def pickOne (same : Nat → Nat → Bool) : List Nat → Act (List Nat)
  | [] => pure []
  | e :: es => do
    let rest ← pickOne same es
    match rest.find? fun j => same e j with
    | none => pure (e :: rest)
    | some j =>
      let b ← freeValue 1
      pure (if b == 0 then rest else rest.map fun x => if x == j then e else x)

/-- The physical lane that processes an element (R55, R440). -/
def Hart.laneOf (h : Hart) (w e : Nat) : Nat := h.laneBase + e * w / 128 % h.grant.lanes

/-- Scatter elements counted (R35, R36, R258): every active one as sent and unacknowledged, by the lane that processes it; as received
those that their target has performed, which those posted to a lessor are not yet. The answer to one that is lost or refused
acknowledges it too: the rules say only what a performed one does (assumption 26). -/
def countScatter (w : Nat) (es lost posted : List Nat) : Act Unit := fun s =>
  let h := es.foldl (fun (h : Hart) e =>
    let l := h.laneOf w e % 16
    { h with unacked := h.unacked.set l (h.unacked[l]'(Nat.mod_lt _ (by decide)) + 1) (Nat.mod_lt _ (by decide)) }) s.cur
  let done := (es.filter fun e => !lost.contains e && !posted.contains e).length
  .ok ((), { s with
    cur := h
    gangs := s.gangs.map fun g =>
      if some g.id == s.cur.gang then
        { g with sent := g.sent + BitVec.ofNat 64 es.length, received := g.received + BitVec.ofNat 64 done }
      else g })

/-- The elements whose bytes some elements name, among all that address the same bytes. -/
def alike (addr : Nat → Nat) (es some' : List Nat) : List Nat := es.filter fun e => some'.any fun x => addr x == addr e

/-- The pieces of a scatter that it writes below a boundary: of those that address the same bytes one, and none where the boundary divides
them, so that they are written once (R149). -/
def scatterCut (ok kept : List Placed) (b : Option Nat) : List Placed :=
  kept.filter fun p => ok.all fun q => q.loc.key != p.loc.key || belowStop b q.piece.elem

/-- The mould of VSCAT (R257, R149). -/
def scatter (vd : VReg) (base : AReg) (vi : VReg) (m : MReg) (st : Stream) (bytes ordered : Bool) : Act Unit := do
  beginStore
  let h ← hart
  let d ← readVec vd
  let i ← readIndex vi
  operand (8 ≤ d.w && !d.sparse)
  let es := h.active m h.erix.toNat h.gl.toNat
  let addr := indexAddr h base i (if bytes then 1 else d.w / 8)
  waitStream st.val true
  let (ok, no) ← probeAll .store st.val 0 (elemPieces d.w addr d.elem es)
  let stop ← elementStop es d.w
  let key (e : Nat) : Nat := ((ok.find? fun p => p.piece.elem == e).map fun p => p.loc.key).getD 0
  let kept ← if ordered then pure (keepLast ok)
    else do
      let ks ← pickOne (fun a b => key a == key b) (ok.map fun p => p.piece.elem)
      pure (ok.filter fun p => ks.contains p.piece.elem)
  storePlaced es st.val stop (scatterCut ok kept) no (fun e => (alike addr es [e]).map fun x => h.laneOf d.w x % 16)
    fun es lost posted => countScatter d.w es (alike addr es lost) (alike addr es posted)

/-- The relative index of VGATHK and VSCATK (R247). -/
def vectorIndex (vi : VReg) (_ : Hart) : Act (Nat → Nat) := do
  let i ← readIndex vi
  pure fun e => wrap 64 (i.fmt.int (i.elem e))

/-- One element of each window place in an unordered scatter (R257). -/
def pickWindow (ordered : Bool) (xs : List (Nat × List Nat)) : Act (List (Nat × List Nat)) := do
  if ordered then pure xs
  else
    let place (e : Nat) : Option (List Nat) := (xs.find? fun p => p.1 == e).map Prod.snd
    let ks ← pickOne (fun a b => place a == place b) (xs.map Prod.fst)
    pure (ks.filterMap fun e => xs.find? fun p => p.1 == e)

/-- VGATHK, VSCATK: the data register may not be sparse and holds elements of 8 bits or more (R247, R250). -/
def wideVec (vd : VReg) : Act Unit := do
  let d ← readVec vd
  operand (8 ≤ d.w && !d.sparse)

/-- VLD, immediate offset (R252, R253). -/
def execVldImm (vd : VReg) (base : AReg) (imm : BitVec 5) (st : Stream) (m : MReg) (s : State) : Host.Outcome State Fault Refusal :=
  run s (loadUnit vd m st fun h => immStart h base imm)

/-- VLD, register offset (R252, R253). -/
def execVldReg (vd : VReg) (base : AReg) (sx : SReg) (st : Stream) (m : MReg) (s : State) : Host.Outcome State Fault Refusal :=
  run s (loadUnit vd m st fun h => regStart h base sx)

/-- VLD.str (R252, R253). -/
def execVldStr (vd : VReg) (base : AReg) (sx : SReg) (st : Stream) (m : MReg) (s : State) : Host.Outcome State Fault Refusal :=
  run s (loadStrided vd m st base sx)

/-- VLDK (R252, R94, R95). -/
def execVldk (vd : VReg) (k : KIdx) (sx : SReg) (st : Stream) (m : MReg) (s : State) : Host.Outcome State Fault Refusal :=
  run s (loadWindow vd k m st (offsetIndex sx))

/-- VST, immediate offset (R252, R253). -/
def execVstImm (vd : VReg) (base : AReg) (imm : BitVec 5) (_ca : Bool) (st : Stream) (m : MReg) (s : State) : Host.Outcome State Fault Refusal :=
  run s (storeUnit vd m st fun h => immStart h base imm)

/-- VST, register offset (R252, R253). -/
def execVstReg (vd : VReg) (base : AReg) (sx : SReg) (_ca : Bool) (st : Stream) (m : MReg) (s : State) : Host.Outcome State Fault Refusal :=
  run s (storeUnit vd m st fun h => regStart h base sx)

/-- VST.str (R252, R253): w ≥ 8; the highest-numbered element of a byte wins. -/
def execVstStr (vd : VReg) (base : AReg) (sx : SReg) (_ca : Bool) (st : Stream) (m : MReg) (s : State) :
    Host.Outcome State Fault Refusal :=
  run s do
    beginStore
    let h ← hart
    let d ← readVec vd
    operand (8 ≤ d.w)
    let es := h.active m h.erix.toNat h.gl.toNat
    storeElems d.w es st.val
      (elemPieces d.w (fun e => (h.ra base + BitVec.ofNat 64 e * h.rs sx).toNat) d.elem) keepLast

/-- VSTU (R254): w ≥ 8, no alignment requirement. -/
def execVstu (vd : VReg) (base : AReg) (sx : SReg) (_ca : Bool) (st : Stream) (m : MReg) (s : State) :
    Host.Outcome State Fault Refusal :=
  run s do
    beginStore
    let h ← hart
    let d ← readVec vd
    operand (8 ≤ d.w)
    let es := h.active m h.erix.toNat h.gl.toNat
    storeElems d.w es st.val (unalignedPieces d.w (unitAddr (regStart h base sx) d.w) d.elem)

/-- VSTK (R252, R94, R95, R103). -/
def execVstk (vd : VReg) (k : KIdx) (sx : SReg) (_ca : Bool) (st : Stream) (m : MReg) (s : State) : Host.Outcome State Fault Refusal :=
  run s (storeWindow vd k m st (offsetIndex sx) pure)

/-- VLDF, immediate offset (R255). -/
def execVldfImm (vd : VReg) (base : AReg) (imm : BitVec 5) (st : Stream) (m : MReg) (s : State) : Host.Outcome State Fault Refusal :=
  run s (loadFirstFault vd m st false fun h w => loadPieces w (immStart h base imm))

/-- VLDF, register offset (R255). -/
def execVldfReg (vd : VReg) (base : AReg) (sx : SReg) (st : Stream) (m : MReg) (s : State) : Host.Outcome State Fault Refusal :=
  run s (loadFirstFault vd m st false fun h w => loadPieces w (regStart h base sx))

/-- VLDF.str (R255). -/
def execVldfStr (vd : VReg) (base : AReg) (sx : SReg) (st : Stream) (m : MReg) (s : State) : Host.Outcome State Fault Refusal :=
  run s (loadFirstFault vd m st true fun h w =>
    elemPieces w (fun e => (h.ra base + BitVec.ofNat 64 e * h.rs sx).toNat) fun _ => 0)

/-- VLDKF (R95, R255). -/
def execVldkf (vd : VReg) (k : KIdx) (sx : SReg) (st : Stream) (m : MReg) (s : State) : Host.Outcome State Fault Refusal :=
  run s (loadWindowFirst vd k m st sx)

/-- VGATH (R256, R257). -/
def execVgath (vd : VReg) (base : AReg) (vi : VReg) (_ca : Bool) (st : Stream) (m : MReg) (s : State) : Host.Outcome State Fault Refusal :=
  run s (gather vd base vi m st false)

/-- VGATH.b (R256, R257). -/
def execVgathB (vd : VReg) (base : AReg) (vi : VReg) (_ca : Bool) (st : Stream) (m : MReg) (s : State) : Host.Outcome State Fault Refusal :=
  run s (gather vd base vi m st true)

/-- VGATHK (R256, R257). -/
def execVgathk (vd : VReg) (k : KIdx) (vi : VReg) (_ca : Bool) (st : Stream) (m : MReg) (s : State) :
    Host.Outcome State Fault Refusal :=
  run s do
    beginV vd
    wideVec vd
    loadWindow vd k m st (vectorIndex vi)

/-- VSCAT.o (R256, R257, R149). -/
def execVscatO (vd : VReg) (base : AReg) (vi : VReg) (_ca : Bool) (st : Stream) (m : MReg) (s : State) : Host.Outcome State Fault Refusal :=
  run s (scatter vd base vi m st false true)

/-- VSCAT (R256, R257, R149). -/
def execVscat (vd : VReg) (base : AReg) (vi : VReg) (_ca : Bool) (st : Stream) (m : MReg) (s : State) : Host.Outcome State Fault Refusal :=
  run s (scatter vd base vi m st false false)

/-- VSCAT.o.b (R256, R257, R149). -/
def execVscatOB (vd : VReg) (base : AReg) (vi : VReg) (_ca : Bool) (st : Stream) (m : MReg) (s : State) : Host.Outcome State Fault Refusal :=
  run s (scatter vd base vi m st true true)

/-- VSCAT.b (R256, R257, R149). -/
def execVscatB (vd : VReg) (base : AReg) (vi : VReg) (_ca : Bool) (st : Stream) (m : MReg) (s : State) : Host.Outcome State Fault Refusal :=
  run s (scatter vd base vi m st true false)

/-- VSCATK.o (R256, R257). -/
def execVscatkO (vd : VReg) (k : KIdx) (vi : VReg) (_ca : Bool) (st : Stream) (m : MReg) (s : State) :
    Host.Outcome State Fault Refusal :=
  run s do
    beginStore
    wideVec vd
    storeWindow vd k m st (vectorIndex vi) (pickWindow true)

/-- VSCATK (R256, R257). -/
def execVscatk (vd : VReg) (k : KIdx) (vi : VReg) (_ca : Bool) (st : Stream) (m : MReg) (s : State) :
    Host.Outcome State Fault Refusal :=
  run s do
    beginStore
    wideVec vd
    storeWindow vd k m st (vectorIndex vi) (pickWindow false)

end Sys2Proof.Machine
end

