-- ==== Sys2Proof/Machine/Atomics.lean ====
section
/-! DEFINITION. Linked accesses and atomics of major 0x27 (R147, R148, R259 to R261), and the ordering instructions of major 0x28
(R141 to R144, R262, R263). -/

namespace Sys2Proof.Machine

/-! ### Linked accesses -/

/-- Whether fewer than 512 clk of the issuing hart's core have passed since a stamp: timing is a free value (R148, assumption 4). -/
def State.recent (s : State) (stamp : Nat) : Bool :=
  Config.clkBetween (coreOf s.cur.id) stamp (s.steps - stamp) < 512

/-- The link of one line set for a master, unless another master's unbroken recent link keeps the tag (R148 item 2). -/
def State.linkLine (s : State) (id gen line va : Nat) : State :=
  if s.links.any fun l => l.line == line && l.hart != id && s.recent l.stamp then s
  else { s with links := ⟨line, va, id, gen, s.steps⟩ :: s.links.filter fun l => l.line != line }

/-- The link of one line set for the issuing hart. -/
def State.setLink (s : State) (line va : Nat) : State := s.linkLine s.cur.id s.cur.linkGen line va

/-- The data register of major 0x27: w ≥ 8, neither sparse nor scaled (R247, R250). -/
def linkedVec (vd : VReg) : Act Vec := do
  let d ← readVec vd
  operand (8 ≤ d.w && !d.sparse && d.scale.isNone)
  pure d

/-- VGLL (R259, R148, R152): a new link generation, linked reads of the active elements, and their links. -/
def execVgll (vd : VReg) (base : AReg) (vi : VReg) (_ca : Bool) (st : Stream) (m : MReg) (s : State) :
    Host.Outcome State Fault Refusal :=
  run s do
    beginV vd
    let h ← hart
    let d ← linkedVec vd
    let i ← readIndex vi
    let es := h.active m h.erix.toNat h.gl.toNat
    waitStream st.val false
    let (ok, no) ← probeAll .rmw st.val 0 (elemPieces d.w (indexAddr h base i (d.w / 8)) (fun _ => 0) es)
    let stop ← elementStop es d.w
    let below := belowStop (stop.map Stop.elem)
    let refusedAt := no.head?.map fun r => r.piece.elem
    let live := ok.filter fun p => below p.piece.elem && belowStop refusedAt p.piece.elem
    let s ← get
    let s1 := { s.breakLinks s.cur.id with cur.linkGen := s.cur.linkGen + 1 }
    let s1 := live.foldl (fun s p => s.setLink p.loc.line p.piece.va) s1
    let (xs, e, _, s') := s1.readPieces [] .linked live
    match e with
    | .wait w => fun _ => .error (.stay (s.waitOn s' w))
    | .error b deta cls =>
      set s'
      updCur fun h => h.writeElems d (xs.filter fun p => p.1 < b)
      stopAt b { code := 0x08, deta := deta, cls := cls, acc := 2, stream := st.val, elem := b }
    | .done =>
      set s'
      updCur fun h => h.writeElems d xs
      match no.filter fun r => below r.piece.elem with
      | r :: _ => freezeRefused st.val r
      | [] => endStop stop clearErix

/-- The elements of a scatter-conditional by line, in ascending order of first element. -/
def byLine (ps : List Placed) : List (List Placed) :=
  ((ps.map fun p => p.loc.line).eraseDups).map fun l => ps.filter fun p => p.loc.line == l

/-- The unit that answers a location, as the targets of sequence tags are numbered (R403); none for memory of another device. -/
def Loc.target? (l : Loc) : Option Nat :=
  match l with
  | .dram u _ _ _ => some u
  | .spad core _ => some (spadTarget core)
  | .doorbell _ _ _ => some doorbellTarget
  | _ => none

/-- The tag of a request with its outcome (R403, R404). -/
def State.requestTo (s : State) (l : Loc) (outcome : Word) : State :=
  match l.target? with
  | some t => s.request s.cur.id t outcome
  | none => s

/-- Pieces of one leased sector as the bytes of a sector and their enables. -/
def sectorBytes (ps : List Placed) : BitVec 512 × BitVec 64 :=
  ps.foldl (fun acc p =>
    let o := p.loc.key % 64
    let m := (2 ^ (8 * p.piece.n) - 1) * 2 ^ (8 * o)
    (acc.1 &&& ~~~(BitVec.ofNat 512 m) ||| BitVec.ofNat 512 (p.piece.x % 2 ^ (8 * p.piece.n) * 2 ^ (8 * o)),
      acc.2 ||| BitVec.ofNat 64 ((2 ^ p.piece.n - 1) * 2 ^ o))) (0, 0)

/-- The conditional store of some pieces of one sector, as its lessor is asked for it. -/
def State.conditionalOf (s : State) (id stream : Nat) (ps : List Placed) : Sent :=
  let (w, en) := sectorBytes ps
  s.toLessor id stream (((ps.head?.map fun p => p.loc.key).getD 0) / 64 * 64) 64 (.conditional w en)

/-- A conditional store of some pieces of one sector at its lessor: whether it was performed, or what to wait for. -/
def State.leaseConditional (s : State) (id stream : Nat) (ps : List Placed) : Except Wait Bool × State :=
  match s.askPeer (s.conditionalOf id stream ps) with
  | (.error w, s) => (.error w, s)
  | (.ok (.conditional b), s) => (.ok b, s)
  | (.ok _, s) => (.ok false, s)

/-- Whether that conditional store has been sent: its lessor decides then, whatever becomes of the tag here. -/
def State.conditionalOut (s : State) (id stream : Nat) (ps : List Placed) : Bool :=
  let r := s.conditionalOf id stream ps
  s.link.sent.contains r || (s.answer? r).isSome

/-- Whether a line's tag holds the issuing hart's generation unbroken (R148 item 4). -/
def State.linked (s : State) (line : Nat) : Bool :=
  s.links.any fun l => l.line == line && l.hart == s.cur.id && l.gen == s.cur.linkGen

/-- One line of a scatter-conditional: performed when the tag holds (R148 items 4 and 5); the elements written, and how its store
stopped. One that a scratchpad word stops has written the elements below (R126). -/
def State.conditionalLine (s : State) (stream : Nat) (ps : List Placed) : List Nat × StoreEnd × State :=
  match ps with
  | [] => ([], {}, s)
  | p :: _ =>
    let es := ps.map fun p => p.piece.elem
    let id := s.cur.id
    if !s.linked p.loc.line && !(p.loc.leased && s.conditionalOut id stream ps) then ([], {}, s.requestTo p.loc 0)
    else if p.loc.leased then
      match s.leaseConditional id stream ps with
      | (.ok true, s) => (es, {}, s.breakLine p.loc.line)
      | (_, s) => ([], {}, s.breakLine p.loc.line)
    else
      let (e, s) := s.writeBelow { mid := id, id := id, stream := stream, tagged := false } none (scatterCut ps (keepLast ps))
      if !e.lost.isEmpty then ([], { e with lost := es }, s.requestTo p.loc 0)
      else
        let done := ((scatterCut ps (keepLast ps) e.boundary).flatMap fun k => ps.filter fun p => p.loc.key == k.loc.key).map fun p => p.piece.elem
        (done.filter (belowStop e.boundary), e, s.requestTo p.loc (if e.boundary.isNone then 1 else 0))

/-- The answers that the leased lines of a scatter-conditional need: what to wait for first. -/
def State.awaitLines (s : State) (stream : Nat) : List (List Placed) → Option Wait × State
  | [] => (none, s)
  | ps :: rest =>
    if (ps.head?.map fun p => p.loc.leased && (s.linked p.loc.line || s.conditionalOut s.cur.id stream ps)).getD false then
      match s.leaseConditional s.cur.id stream ps with
      | (.error w, s) => (some w, s)
      | (.ok _, s) => s.awaitLines stream rest
    else s.awaitLines stream rest

/-- The lines of a scatter-conditional in turn, up to one whose scratchpad word cannot be rebuilt. -/
def State.conditionalLines (s : State) (stream : Nat) : List (List Placed) → List Nat × StoreEnd × State
  | [] => ([], {}, s)
  | ps :: rest =>
    let (es, e, s) := s.conditionalLine stream ps
    if e.boundary.isSome then (es, e, s)
    else
      let (es', e', s) := s.conditionalLines stream rest
      (es ++ es', { e' with lost := e.lost ++ e'.lost }, s)

/-- The success bits of a scatter-conditional (R148 item 6, R152): those of the elements done, over the governing mask from the
boundary up where it stopped. Bits below ERIX keep what an earlier part of the instruction wrote. -/
def Hart.successMask (h : Hart) (m : MReg) (first : Nat) (done : List Nat) (boundary : Option Nat) : BitVec 16384 :=
  let old := h.m[m]
  let keepLow := (2 ^ first - 1 : Nat)
  let keepHigh := match boundary with
    | some b => 2 ^ 16384 - 2 ^ b
    | none => 0
  (old &&& BitVec.ofNat 16384 (keepLow ||| keepHigh)) ||| maskOf done

/-- VSCC (R260, R148, R152): the success mask replaces the governing mask; also with GL = 0, where it is all false. -/
def execVscc (vd : VReg) (base : AReg) (vi : VReg) (_ca : Bool) (st : Stream) (m : MReg) (s : State) :
    Host.Outcome State Fault Refusal :=
  run s do
    begin false (.masked .mask)
    legal (m != 0)
    let h ← hart
    let d ← linkedVec vd
    let i ← readIndex vi
    let es := h.active m h.erix.toNat h.gl.toNat
    waitStream st.val true
    let (ok, no) ← probeAll .rmw st.val 0 (elemPieces d.w (indexAddr h base i (d.w / 8)) d.elem es)
    let stop ← elementStop es d.w
    let below := belowStop (stop.map Stop.elem)
    let lines := byLine (ok.filter fun p => below p.piece.elem)
    let s ← get
    match s.awaitLines st.val lines with
    | (some w, s') => fun _ => .error (.stay { s.waitOn s' w with cur := { s.cur with wait := w, undivided := true } })
    | (none, s) => do
      let (done, e, s) := s.conditionalLines st.val lines
      set s
      let refused := no.filter fun r => below r.piece.elem && belowStop e.boundary r.piece.elem
      countScatter d.w (es.filter fun x => below x && belowStop e.boundary x)
        (e.lost ++ refused.map fun r => r.piece.elem) []
      modify fun s => s.freezePosted st.val refused
      let boundary := e.boundary <|> stop.map Stop.elem
      updCur fun h' => h'.wm m (h.successMask m (min h.erix.toNat h.gl.toNat) done boundary)
      match e.severe with
      | some x => stopAt x.elem { code := 0x08, deta := x.deta, cls := 3, acc := 2, stream := st.val, elem := x.elem }
      | none => endPosted refused stop

/-! ### Atomics -/

/-- One element of an atomic: the memory value read, and the value and flags it leaves. -/
structure AtomicStep where
  elem : Nat
  old : Nat
deriving DecidableEq, Repr

/-- The active elements applied in ascending order; `now` holds the bytes that earlier elements have written (R147). -/
def applyAtomic (stochastic : Bool) (f : Hart → Nat → Nat → Nat → Nat × Nat) (h : Hart) (now : List (Nat × Nat)) :
    List (Placed × Nat) → List AtomicStep × List (Placed × Nat) × Nat × Hart
  | [] => ([], [], 0, h)
  | (p, read) :: ps =>
    let key := p.loc.key
    let old := ((now.find? fun n => n.1 == key).map Prod.snd).getD read
    let (draw, h) := if stochastic then h.draw else (0, h)
    let (x, fl) := f h draw p.piece.elem old
    let (steps, ws, fls, h) := applyAtomic stochastic f h ((key, x) :: now) ps
    (⟨p.piece.elem, old⟩ :: steps, ({ p with piece := { p.piece with x := x } }, x) :: ws, fl ||| fls, h)

/-- The values that an atomic reads, in ascending order, up to the first error. A scratchpad word is read and written back by its first
element, so a later one finds it clean (R120); a sector is read once. -/
def State.readAtomics (s : State) (cache : SectorCache) : List Placed → List (Nat × Nat) × LoadEnd × SectorCache × State
  | [] => ([], .done, cache, s)
  | p :: ps =>
    match s.readPiece cache p .linked with
    | (.wait w, cache, s) => ([], .wait w, cache, s)
    | (.data c x, cache, s) =>
      if 3 ≤ c then ([], .error p.piece.elem (s.errorAddress p.loc p.piece.va p.piece.n) c, cache, s)
      else
        let s := match p.loc with
          | .spad core o => { s with spadFlips := (wordsOf o p.piece.n).foldl (fun t w => Sparse.set 0 t (core * spadWords + w) 0) s.spadFlips }
          | _ => s
        let (xs, e, cache, s) := s.readAtomics cache ps
        ((p.piece.elem, x) :: xs, e, cache, s)

/-- Whether a location is a doorbell page's. -/
def Loc.isDoorbell : Loc → Bool
  | .doorbell .. => true
  | _ => false

/-- The writes of an atomic outside leased memory, of those to the same bytes the last: their words and sectors have been read, and count
no second time (R120, R410). -/
def State.atomicWrites (s : State) (stream : Nat) (cache : SectorCache) (ps : List Placed) : State :=
  let last := keepLast ps
  let (ws, s) := (ps.filter fun p => p.loc.isDoorbell || last.contains p).foldl (fun (acc : List SectorWrite × State) p =>
    match p.loc with
    | .dram .. => (addWrite p.loc p.piece p.piece.x acc.1, acc.2)
    | .spad c o => (acc.1, acc.2.spadPut c o p.piece.n p.piece.x)
    | l => (acc.1, (acc.2.storeAt acc.2.cur.id l p.piece.n p.piece.x stream).2)) ([], s)
  ws.foldl (fun s w =>
    match cache.find? fun e => e.page == w.page && e.base == w.base with
    | some e => s.storeRead s.cur.id w.base e.data w.data w.enable
    | none => s) s

/-- What an atomic does to its elements. -/
structure AtomicOp where
  stream : Nat
  draws : Bool
  f : Hart → Nat → Nat → Nat → Nat × Nat

/-- Elements of an atomic outside leased memory: reads of every one, the results in ascending order, the writes, vd and the flags, with
one request an element and its outcome (R403, R404); what a class 3 or 4 read stops. -/
def State.atomicLocal (s : State) (d : Vec) (o : AtomicOp) (live : List Placed) : LoadEnd × State :=
  let (xs, e, cache, s1) := s.readAtomics [] live
  let s := { s1 with seqCount := s.seqCount, performed := s.performed }
  let (steps, ws, fl, h) := applyAtomic o.draws o.f s.cur [] ((live.zip xs).map fun p => (p.1, p.2.2))
  let s := { s with cur := (h.writeElems d (steps.map fun (t : AtomicStep) => (t.elem, t.old))).flag fl }
  let s := s.atomicWrites o.stream cache (ws.map Prod.fst)
  (e, (live.zip steps).foldl (fun s p => s.requestTo p.1.loc (BitVec.ofNat 64 p.2.old)) s)

/-- One element of an atomic at a lessor (R147): a linked read and a conditional store, again when the store is not performed. The state
when it is performed; what to wait for; or an error class. -/
def State.atomicLease (s : State) (d : Vec) (o : AtomicOp) (p : Placed) : Except (Wait ⊕ Nat) Unit × State :=
  let drop (s : State) : State := { s with peerData := s.peerData.filter fun e => e.1.id != s.cur.id }
  match s.readPiece [] p .linked with
  | (.wait w, _, s') => (.error (.inl w), s.waitOn s' w)
  | (.data c x, _, s1) =>
    if 3 ≤ c then (.error (.inr c), s1)
    else
      let (steps, ws, fl, h) := applyAtomic o.draws o.f s1.cur [] [(p, x)]
      match s1.leaseConditional s1.cur.id o.stream (ws.map Prod.fst) with
      | (.error w, s') => (.error (.inl w), s.waitOn s' w)
      | (.ok false, _) => (.error (.inl .run), drop s)
      | (.ok true, s') =>
        (.ok (), drop ({ s' with cur := (h.writeElems d (steps.map fun (t : AtomicStep) => (t.elem, t.old))).flag fl }.breakLine p.loc.line))

/-- The mould of the atomics (R147, R259, R261): a class 3 or 4 read, or a vote that does not settle (R375), stops it at its element.
Elements at a lessor are performed one by one in their place; the instruction stays until all are done, and pre-emption does not
divide it. -/
def atomic (vd : VReg) (base : AReg) (vi : VReg) (st : Stream) (m : MReg) (allowed : Vec → Bool)
    (draws : Hart → Vec → Bool) (f : Vec → Hart → Nat → Nat → Nat → Nat × Nat) : Act Unit := do
  beginV vd
  let h ← hart
  let d ← linkedVec vd
  let i ← readIndex vi
  operand (allowed d)
  let es := h.active m h.erix.toNat h.gl.toNat
  waitStream st.val true
  let (ok, no) ← probeAll .rmw st.val 0 (elemPieces d.w (indexAddr h base i (d.w / 8)) (fun _ => 0) es)
  let stop ← skewStop es d.w
  let below := belowStop (stop.map Stop.elem)
  let refusedAt := no.head?.map fun r => r.piece.elem
  let live := ok.filter fun p => below p.piece.elem && belowStop refusedAt p.piece.elem
  let o : AtomicOp := ⟨st.val, draws h d, f d⟩
  let fault {α : Type} (b deta cls : Nat) : Act α :=
    stopAt b { code := 0x08, deta := deta, cls := cls, acc := 2, stream := st.val, elem := b }
  let finish : Act Unit :=
    match no.filter fun r => below r.piece.elem with
    | r :: _ => freezeRefused st.val r
    | [] => endStop stop clearErix
  let first := live.find? fun p => p.loc.leased
  let here := live.filter fun p => belowStop (first.map fun p => p.piece.elem) p.piece.elem
  let s ← get
  match first, here with
  | some p, [] =>
    match s.atomicLease d o p with
    | (.error (.inl w), s) => fun _ => .error (.stay { s with cur := { s.cur with wait := w, undivided := true } })
    | (.error (.inr c), s) => do
      set s
      fault p.piece.elem (p.piece.va / 64 * 64) c
    | (.ok (), s) => do
      set s
      countScatter d.w [p.piece.elem] [] []
      match live.find? fun q => p.piece.elem < q.piece.elem with
      | some q => fun s => .error (.stay { s with cur := { s.cur with erix := BitVec.ofNat 14 q.piece.elem, undivided := true } })
      | none => finish
  | first, here => do
    let (e, s) := s.atomicLocal d o here
    set s
    countScatter d.w ((here.map fun p => p.piece.elem).filter fun x => match e with
      | .error b _ _ => x < b
      | _ => true) [] []
    match e, first with
    | .error b deta cls, _ => fault b deta cls
    | _, some p => fun s => .error (.stay { s with cur := { s.cur with erix := BitVec.ofNat 14 p.piece.elem, undivided := true } })
    | _, none => finish

/-- A vd of the integer or the floating class as the target of an atomic (R219, R259). -/
def Vec.isNumber (d : Vec) : Bool := d.isInt || d.floatDest?.isSome

/-- An arithmetic atomic: by integer values modulo 2^w, or by floating values rounded under FCS.RM (R259). -/
def atomicArith (int : Int → Int → Int) (float : Nat → Val → Val → Res × Nat) (d : Vec) (h : Hart) (draw e old : Nat) :
    Nat × Nat :=
  match d.fmt with
  | .float f =>
    let (r, fl) := float h.rmode (f.decode old) (f.decode (d.elem e))
    let (c, fc) := f.round h.rmode draw r
    (c, fl ||| fc)
  | g => (wrap d.w (int (g.int old) (g.int (d.elem e))), 0)

/-- The arithmetic atomics on a floating format draw under stochastic rounding (R83, R259); the minimum and maximum are those of R225,
rounded under FCS.RM. -/
def drawsFloat (h : Hart) (d : Vec) : Bool := d.floatDest?.isSome && h.rmode == 5

/-- No draw. -/
def drawsNone (_ : Hart) (_ : Vec) : Bool := false

/-- VAADD (R259). -/
def execVaadd (vd : VReg) (base : AReg) (vi : VReg) (_ca : Bool) (st : Stream) (m : MReg) (s : State) :
    Host.Outcome State Fault Refusal :=
  run s (atomic vd base vi st m Vec.isNumber drawsFloat (atomicArith (· + ·) addRes))

/-- VAMIN (R259, R225). -/
def execVamin (vd : VReg) (base : AReg) (vi : VReg) (_ca : Bool) (st : Stream) (m : MReg) (s : State) :
    Host.Outcome State Fault Refusal :=
  run s (atomic vd base vi st m Vec.isNumber drawsFloat (atomicArith min fun _ x y => toResult (minVal x y)))

/-- VAMAX (R259, R225). -/
def execVamax (vd : VReg) (base : AReg) (vi : VReg) (_ca : Bool) (st : Stream) (m : MReg) (s : State) :
    Host.Outcome State Fault Refusal :=
  run s (atomic vd base vi st m Vec.isNumber drawsFloat (atomicArith max fun _ x y => toResult (maxVal x y)))

/-- VAAND (R259). -/
def execVaand (vd : VReg) (base : AReg) (vi : VReg) (_ca : Bool) (st : Stream) (m : MReg) (s : State) :
    Host.Outcome State Fault Refusal :=
  run s (atomic vd base vi st m Vec.isInt drawsNone fun d _ _ e old => (old &&& d.elem e, 0))

/-- VAOR (R259). -/
def execVaor (vd : VReg) (base : AReg) (vi : VReg) (_ca : Bool) (st : Stream) (m : MReg) (s : State) :
    Host.Outcome State Fault Refusal :=
  run s (atomic vd base vi st m Vec.isInt drawsNone fun d _ _ e old => (old ||| d.elem e, 0))

/-- VAXCHG (R259). -/
def execVaxchg (vd : VReg) (base : AReg) (vi : VReg) (_ca : Bool) (st : Stream) (m : MReg) (s : State) :
    Host.Outcome State Fault Refusal :=
  run s (atomic vd base vi st m (fun _ => true) drawsNone fun d _ _ e _ => (d.elem e, 0))

/-! ### Ordering -/

/-- Whether a scope holds observers of other devices: .sys, and .dom where the device is in a domain (R138, R262, R419). -/
def State.farScope (s : State) (scope : BitVec 3) : Bool := scope == 5 || (scope == 4 && s.link.domctl.getLsbD 63)

/-- FENCE (R143, R262). -/
def execFence (scope : BitVec 3) (mask : BitVec 8) (s : State) : Host.Outcome State Fault Refusal :=
  run s do
    legal (scope.toNat < 6)
    begin false (.masked .none)
    let s ← get
    waitFor (.transfers mask (s.farScope scope))

/-- SBAR (R144, R262): a later access of the streams named waits for every engine transfer of the hart and for its posted stores; its
other accesses are performed in program order. -/
def execSbar (mask : BitVec 8) (s : State) : Host.Outcome State Fault Refusal :=
  run s do
    begin false (.masked .none)
    if mask == 0 then pure () else waitFor (.transfers 0xFF true)

/-- LDACQ (R141, R262, R263). -/
def execLdacq (sd : SReg) (scope : BitVec 3) (size : Size) (base : AReg) (st : Stream) (s : State) :
    Host.Outcome State Fault Refusal :=
  run s do
    legal (scope.toNat < 6)
    begin false (.masked .scalar)
    let h ← hart
    let x ← scalarLoad (h.ra base).toNat (2 ^ size.toNat) st.val
    writeD sd (BitVec.ofNat 64 x)

/-- STREL (R141, R262, R263): the store waits for every engine transfer of the hart and, where its scope reaches other devices, for the
stores that it has posted to them. -/
def execStrel (sa : SReg) (scope : BitVec 3) (size : Size) (base : AReg) (st : Stream) (s : State) :
    Host.Outcome State Fault Refusal :=
  run s do
    legal (scope.toNat < 6)
    begin false (.masked .none)
    let s ← get
    waitFor (.transfers 0xFF (s.farScope scope))
    let h ← hart
    scalarStore st.val (h.ra base).toNat (2 ^ size.toNat) (h.rs sa).toNat

end Sys2Proof.Machine
end

