-- ==== Sys2Proof/Machine/Queues.lean ====
section
/-! DEFINITION. The scheduler's own accesses to memory, completion counters (R344), queue registers (R337 to R341, R346, R350), the
end of a gang (R202, R336), and the fetch of instruction words. -/

namespace Sys2Proof.Machine

/-! ### Choices that the specification leaves open -/

/-- One of several, by a free choice (assumption 3). -/
def State.pick {α : Type} (s : State) : List α → Option α × State
  | [] => (none, s)
  | [x] => (some x, s)
  | xs => (xs[Config.freeNat s.free % xs.length]?, { s with free := s.free + 1 })

/-! ### Instruction fetch -/

/-- Four bytes of an instruction as the hart's fetch sees them: older bytes where it has not synchronised (R201). -/
def Hart.fetched (h : Hart) (key x : Nat) : Nat → Nat
  | 0 => 0
  | n + 1 =>
    (match h.view.find? fun e => e.key == key with
      | some e => e.old.toNat
      | none => x % 256) + 256 * h.fetched (key + 1) (x / 256) n

/-- The instruction word at an address (R8, R192): a translation fault, an alignment fault, a memory error, a freeze, or a wait, each
with ACC = 3. -/
def fetchWord (va : Nat) : Act (BitVec 32) := do
  match ← locate .fetch false {} va 4 with
  | .error (t, k) => freezeAt t k {} none va
  | .ok l =>
    let s ← get
    match s.loadAt s.cur.id s.cur.id l 4 with
    | (.wait w, s') => fun _ => .error (.stay (s.waitOn s' w))
    | (.data cls x, s') =>
      set { s' with cur.view := s.cur.view }
      if 3 ≤ cls then raise { code := 0x08, deta := va / 64 * 64, cls := cls, acc := 3 }
      else pure (BitVec.ofNat 32 (s.cur.fetched l.key x 4))

/-! ### The scheduler's accesses -/

/-- The requester that the scheduler is for a partition (assumption 13). -/
def schedReq (p : Nat) : Req := ⟨0x2000 + p, .s, p, none⟩

/-- How an access of the scheduler ends. -/
inductive SchedEnd where
  | value (x : Nat)
  | failed
  /-- The page is under migration, or waits for the host or a lessor (R369, R371, R416). -/
  | stall
deriving DecidableEq, Repr

/-- A read of n aligned bytes; `again` tells a second read of the same bytes apart at a lessor (R345). -/
def State.schedRead (s : State) (p va n : Nat) (again : Bool := false) : SchedEnd × State :=
  match s.probed (schedReq p) .load false va n with
  | (.ok l, s) =>
    match s.loadAt ((schedReq p).mid + if again then 0x20000 else 0) (schedReq p).mid l n with
    | (.data c x, s) => (if 3 ≤ c then .failed else .value x, s)
    | (.wait _, s) => (.stall, s)
  | (.error (.stall _), s) => (.stall, s)
  | (.error _, s) => (.failed, s.forgetRefused p)

/-- Words read in order, or how the first failure ended. -/
def State.schedWords (s : State) (p : Nat) : List Nat → Except SchedEnd (List Nat) × State
  | [] => (.ok [], s)
  | a :: as =>
    match s.schedRead p a 8 with
    | (.value x, s) =>
      match s.schedWords p as with
      | (.ok xs, s) => (.ok (x :: xs), s)
      | r => r
    | (e, s) => (.error e, s)

/-- The lessors' answers that a piece of the scheduler's work has used are dropped when it is done. -/
def State.schedDone (s : State) (p : Nat) : State :=
  { s with peerData := s.peerData.filter fun e => askerOf e.1.id != (schedReq p).mid }

/-- The partition whose scheduler has something left to do. -/
def Due.of : Due → Nat
  | .store p _ _ => p
  | .drop p _ => p.val

/-- A store of 8 aligned bytes: performed, or left behind what is left already; a failure makes no store. -/
def State.schedWrite (s : State) (p va x : Nat) : State :=
  if s.due.any fun d => d.of == p then { s with due := s.due ++ [.store p va (BitVec.ofNat 64 x)] }
  else match s.probed (schedReq p) .store false va 8 with
  | (.ok l, s) => (s.storeAt (schedReq p).mid l 8 x).2
  | (.error (.stall _), s) => { s with due := s.due ++ [.store p va (BitVec.ofNat 64 x)] }
  | (.error _, s) => s

/-- An indivisible update of 8 aligned bytes, to the old value plus one with the bits of a mark set. A lessor takes it as one
operation, whose refusal is reported (R344). -/
def State.schedUpdate (s : State) (p va : Nat) (mark : Nat) (report : Option (BitVec 16 × Word)) : SchedEnd × State :=
  match s.probed (schedReq p) .rmw false va 8 with
  | (.ok (.lease pa _), s) =>
    (.value 0, s.postLessor { s.toLessor (schedReq p).mid 0 pa 8 (.add 1 (BitVec.ofNat 64 mark)) with report := report })
  | (.ok l, s) =>
    match s.loadAt (schedReq p).mid (schedReq p).mid l 8 with
    | (.data c x, s) =>
      if 3 ≤ c then (.failed, s) else (.value x, (s.storeAt (schedReq p).mid l 8 ((x + 1) % 2 ^ 64 ||| mark)).2)
    | (.wait _, s) => (.stall, s)
  | (.error (.stall _), s) => (.stall, s)
  | (.error _, s) => (.failed, s.forgetRefused p)

/-! ### Queues -/

/-- Queue q's registers. -/
def State.queue? (s : State) (q : BitVec 16) : Option Queue := s.queues.find? fun x => x.q == q

/-- The same, changed. -/
def State.updQueue (s : State) (q : BitVec 16) (f : Queue → Queue) : State :=
  { s with queues := s.queues.map fun x => if x.q == q then f x else x }

/-- A queue that has no registers written yet (R346). -/
def Queue.fresh (q : BitVec 16) : Queue := ⟨q, 0, 0, 0, 0, 0, none, none, 0, 0, 0, false⟩

/-- Fields of QD0, and the header and ring addresses (R346). -/
def Queue.valid (q : Queue) : Bool := q.qd0.getLsbD 63
def Queue.part (q : Queue) : Fin 8 := (q.qd0.extractLsb' 48 3).toFin
def Queue.log2n (q : Queue) : Nat := fld q.qd0.toNat 54 51
def Queue.size (q : Queue) : Nat := 2 ^ q.log2n
def Queue.cls (q : Queue) : BitVec 2 := q.qd0.extractLsb' 57 2
def Queue.skm (q : Queue) : Nat := fld q.qd0.toNat 56 55
def Queue.prio (q : Queue) : Nat :=
  let p := fld q.qd0.toNat 61 59
  if p == 7 && !q.qd0.getLsbD 62 then 6 else p
def Queue.header (q : Queue) : Nat := fld q.qd1.toNat 56 0
def Queue.ring (q : Queue) : Nat := fld q.qd2.toNat 56 0

/-- Whether index i is announced (R340). -/
def Queue.announced (q : Queue) (i : Nat) : Bool := q.window.getLsbD (i % 256)

/-- A queue is ready while it is registered and the record at HEAD is announced (R348). -/
def Queue.ready (q : Queue) : Bool := q.valid && q.announced q.head.toNat

/-- Priority after ageing (R350). -/
def aged (prio since now : Nat) : Nat := if prio == 7 then 7 else min 6 (prio + (now - since))

/-- The epoch at which a queue reached its level. -/
def levelSince (prio since now : Nat) : Nat := since + (aged prio since now - prio)

/-- How far the current epoch has come. -/
def State.offset (s : State) : Nat := s.steps - s.epochStep

/-- Whether of two queues of one level the first reached it first (R348, R350): at an earlier epoch, or at the same one and nearer its
beginning. -/
def Queue.reachedBefore (now : Nat) (x y : Queue) : Bool :=
  let a := levelSince x.prio x.since now
  let b := levelSince y.prio y.since now
  a < b || (a == b && x.offset < y.offset)

/-- QERR written, and the scheduler's interrupt raised (R337, R349, R376). -/
def State.qerr (s : State) (q : BitVec 16) (index code : Nat) : State :=
  match s.queue? q with
  | none => s
  | some x => (s.schedWrite x.part.val (x.header + 40) (index % 2 ^ 56 * 256 + code)).signalS x.part.val 3 true

/-- HEAD set, and stored to the header (R341). -/
def State.setHead (s : State) (q : BitVec 16) (head : Nat) : State :=
  let s := s.updQueue q fun x => { x with head := BitVec.ofNat 64 head }
  match s.queue? q with
  | none => s
  | some x => s.schedWrite x.part.val (x.header + 24) (head % 2 ^ 64)

/-- An index announced (R340). -/
def State.announce (s : State) (q : BitVec 16) (i : Word) : State :=
  match s.queue? q with
  | none => s
  | some x =>
    if !x.valid then s
    else if x.head.toNat ≤ i.toNat && i.toNat < x.head.toNat + x.size then
      s.updQueue q fun x => { x with
        window := x.window ||| (1#256 <<< (i.toNat % 256))
        highest := some (match x.highest with
          | some h => if h.toNat < i.toNat then i else h
          | none => i)
        since := if !x.ready && i == x.head then s.epochs else x.since
        offset := if !x.ready && i == x.head then s.offset else x.offset }
    else s.qerr q i.toNat 5

/-- The record at HEAD taken or discarded: its bit cleared, HEAD advanced (R341). A taken one restarts the queue's age and counts for
the slot (R348, R350). -/
def State.pass (s : State) (q : BitVec 16) (taken : Bool) : State :=
  match s.queue? q with
  | none => s
  | some x =>
    let h := x.head.toNat
    let s := s.updQueue q fun x => { x with
      window := x.window &&& ~~~(1#256 <<< (h % 256))
      since := if taken then s.epochs else x.since
      offset := if taken then s.offset else x.offset
      taken := x.taken || taken }
    (s.setHead q (h + 1))

/-! ### Completion counters -/

/-- A signal performed, or left waiting for its page (R344). -/
def State.signal (s : State) (g : Signal) : State :=
  match s.schedUpdate g.part.val g.addr (if g.killed then 2 ^ 63 else 0) g.report with
  | (.value _, s) => s
  | (.stall, s) => { s with signals := s.signals ++ [g] }
  | (.failed, s) =>
    match g.report with
    | some (q, i) => s.qerr q i.toNat 3
    | none => s

/-- The signal of a gang: none for an address of 0 (R342, R344). -/
def State.signalGang (s : State) (g : Gang) (killed : Bool) : State :=
  if g.sig == 0 then s else s.signal ⟨g.part, g.sig.toNat, killed, some (g.queue, g.ring)⟩

/-- Words of a record (R342). -/
def recWord (r : List Word) (i : Nat) : Nat := (r.getD i 0).toNat

/-- An aligned canonical address. -/
def addrOk (a n : Nat) : Bool := a < 2 ^ 57 && a % n == 0

/-- The address to signal for a discarded record: none, misaligned and non-canonical ones are left out (R344). -/
def discardSignal (p : Fin 8) (r : List Word) : Option Signal :=
  let a := recWord r 3
  if a != 0 && addrOk a 8 then some ⟨p, a, true, none⟩ else none

/-- The killed signal of a discarded record, when it has one (R344). -/
def State.signalDiscard (s : State) (p : Fin 8) (r : List Word) : State :=
  match discardSignal p r with
  | some g => s.signal g
  | none => s

/-- One thing left to do, tried; false while it has to wait, its signal included, so that signals keep ring order (R347). -/
def State.tryDue (s : State) : Due → Bool × State
  | .store p va x =>
    match s.probed (schedReq p) .store false va 8 with
    | (.error (.stall _), s) => (false, s)
    | (.ok l, s) => (true, (s.storeAt (schedReq p).mid l 8 x.toNat).2)
    | (.error _, s) => (true, s)
  | .drop p va =>
    match s.schedWords p.val ((List.range 8).map fun j => va + 8 * j) with
    | (.ok ws, s) =>
      match discardSignal p (ws.map fun w => BitVec.ofNat 64 w) with
      | none => (true, s.schedDone p.val)
      | some g =>
        match s.schedUpdate p.val g.addr (2 ^ 63) none with
        | (.stall, s) => (false, s)
        | (_, s) => (true, s.schedDone p.val)
    | (.error .stall, s) => (false, s)
    | (.error _, s) => (true, s.schedDone p.val)

/-- The oldest thing that a partition's scheduler has left to do, tried again (R369). -/
def State.retryDue (s : State) (p : Nat) : State :=
  match s.due.find? fun d => d.of == p with
  | none => s
  | some d =>
    match s.tryDue d with
    | (true, s) => { s with due := s.due.erase d }
    | (false, s) => s

/-! ### Gangs -/

/-- A gang by number. -/
def State.gang? (s : State) (g : Nat) : Option Gang := s.gangs.find? fun x => x.id == g

/-- The same, changed. -/
def State.updGang (s : State) (g : Nat) (f : Gang → Gang) : State :=
  { s with gangs := s.gangs.map fun x => if x.id == g then f x else x }

/-- Whether a hart belongs to a gang. -/
def Hart.inGang (h : Hart) (g : Nat) : Bool := h.gang == some g

/-- What a context keeps of a hart that has left it (R327). -/
def Hart.left (h : Hart) : Hart :=
  { h with
    gang := none, parent := none, child := none, depth := 0, wait := .vacant, frozen := false, win := [], lane := none, view := []
    undivided := false, k := h.k.map fun k => { k with phase := .invalid, flights := [] } }

/-- The registers of a hart that leaves its context kept there. -/
def State.keepContext (s : State) (h : Hart) : State := { s with past := h.left :: s.past.filter fun x => x.id != h.id }

/-- Whether a request to a lessor is a posted store, which goes on when the hart that made it is gone. -/
def peerPosted : PeerOp → Bool
  | .write _ _ => true
  | .merge _ _ => true
  | _ => false

/-- The harts of a gang taken off their contexts, with their regions, tiles, links, matrix entries and reads of lessors. -/
def State.removeHarts (s : State) (g : Nat) : State :=
  let ids := (s.harts.filter fun h => h.inGang g).map Hart.id
  let gone := s.regions.filter fun r => r.gang == g
  { s with
    cur := if s.cur.inGang g then Hart.vacant s.cur.id else s.cur
    others := s.others.filter fun h => !h.inGang g
    past := ((s.harts.filter fun h => h.inGang g && h.wait != .ended).map Hart.left) ++ s.past.filter fun h => !ids.contains h.id
    regions := s.regions.filter fun r => r.gang != g
    lost := s.lost ++ gone.map fun r => (r.core, r.off, 2 ^ r.log2)
    links := s.links.filter fun l => !ids.contains l.hart
    link.sent := s.link.sent.filter fun r => !(ids.any fun i => r.id == i || r.id == chuckId i) || peerPosted r.op
    peerData := s.peerData.filter fun e => !(ids.any fun i => e.1.id == i || e.1.id == chuckId i)
    mxq := s.mxq.filter fun e => !ids.contains e.hart }

/-- The windows of a gang's harts left unspecified (R92). -/
def State.loseWindows (s : State) (g : Nat) : State :=
  { s with lost := s.lost ++ (s.harts.filter fun h => h.inGang g).flatMap fun h =>
      (h.k.toList.filter fun k => k.phase == .valid).map fun k => (coreOf h.id, k.window.1, k.window.2) }

/-- The end of a gang whose harts are resident: its contexts are free and it signals (R344, R336). -/
def State.endGang (s : State) (g : Nat) (killed : Bool) : State :=
  match s.gang? g with
  | none => s
  | some x =>
    let s := (s.loseWindows g).removeHarts g
    let s := match x.leaving with
      | some i => s.updPart x.part.val fun p => { p with usedSlots := p.usedSlots.filter (· != i) }
      | none => s
    ({ s with gangs := s.gangs.filter fun y => y.id != g }).signalGang x killed

/-! ### The gang barrier -/

/-- Whether a hart waits at the gang's barrier or phase end. -/
def Hart.atBarrier (h : Hart) (g : Nat) : Bool := h.inGang g && (h.wait == .barrier || h.wait == .phase)

/-- The generation completes: GEN advances, ARR returns to the ended harts, and every waiting hart departs (R33, R210). -/
def State.depart (s : State) (g : Nat) : State :=
  (s.updGang g fun x => { x with
      gen := x.gen + 1, arr := x.ended, phase := none, sweeps := 0
      sent := if x.phase.isSome then 0 else x.sent
      received := if x.phase.isSome then 0 else x.received }).mapHarts
    fun h => if h.atBarrier g then { h with wait := .run } else h

/-- The barrier completed when every hart has arrived, unless the phase still has to be swept (R33, R35, R36). -/
def State.checkBarrier (s : State) (g : Nat) : State :=
  match s.gang? g with
  | none => s
  | some x =>
    if x.arr < x.size || x.ended == x.size then s
    else match x.phase with
    | some (true, _) => s
    | _ => s.depart g

/-- One hart arrived (R33). -/
def State.arrive (s : State) (g : Nat) : State :=
  (s.updGang g fun x => { x with arr := x.arr + 1 }).checkBarrier g

/-- One hart ended: it counts as arrived, and the last one ends the gang (R202, R210, R344). -/
def State.hartEnded (s : State) (g : Nat) : State :=
  let s := s.updGang g fun x => { x with ended := x.ended + 1, arr := x.arr + 1 }
  match s.gang? g with
  | none => s
  | some x => if x.ended == x.size then s.endGang g false else s.checkBarrier g

end Sys2Proof.Machine
end

