-- ==== Sys2Proof/Machine/Gang.lean ====
section
/-! DEFINITION. STRIP and CLAIM (R24 to R31, R46, R205 to R208), barriers and phase ends (R32 to R36, R209 to R211), fork and join (R43
to R45, R212, R213, R440, R441), lane blocks (R39 to R42, R214, R215), QPOST (R216, R217, R338), DONE (R202), and the device steps
PHASE_SWEEP and SCATTER_ACKNOWLEDGE. -/

namespace Sys2Proof.Machine

/-! ### Lengths -/

/-- VLMAX for a grant, a group size and a width (R25). -/
def vlmax (g : Grant) (group w : Nat) : Nat := g.lanes * 16 * g.q * group * 8 / w

/-- Group size and width of a reference register; none where R206 traps. SPARSE and SBLK are ignored. -/
def Hart.reference? (h : Hart) (r : VReg) : Option (Nat × Nat) :=
  let t := h.tag[r]
  match fmtOf h.f (tagFmt t) with
  | none => none
  | some f => if r.val % tagGroup t == 0 then some (tagGroup t, f.width) else none

/-- The reference register of STRIP or CLAIM. -/
def reference (r : VReg) : Act (Nat × Nat) := do
  let h ← hart
  match h.reference? r with
  | none => reservedOperand
  | some x => pure x

/-- A hart's share of a gang grant: halved at each fork above it, and again while it has a child; at least 4 lanes (R45). -/
def Hart.share (h : Hart) (lanes : Nat) : Nat :=
  max 4 (lanes / 2 ^ (h.depth + if h.child.isSome then 1 else 0))

/-- The hart's pending grant adopted (R30, R45); the grant that a child's LJOIN returns is the share without that child (R44). -/
def Hart.adopt (h : Hart) : Hart :=
  match h.pending with
  | none => h
  | some g => { h with
      grant := ⟨h.share g.lanes, g.q⟩, forkGrant := ⟨max 4 (g.lanes / 2 ^ h.depth), g.q⟩, pending := none }

/-- A gang's pending grant that no hart has left to adopt is the grant in force. -/
def State.settleGrant (s : State) (g : Nat) : State :=
  match (s.gang? g).bind Gang.pending with
  | none => s
  | some p =>
    if s.harts.all fun h => !h.inGang g || h.pending.isNone || h.wait == .ended then
      s.updGang g fun x => { x with grant := p, pending := none }
    else s

/-- The same for the gang of the issuing hart. -/
def settleCur : Act Unit := modify fun s =>
  match s.cur.gang with
  | some g => s.settleGrant g
  | none => s

/-- Width in bits of a pointer's elements by its code (R205). -/
def pointerWidth (c : BitVec 3) : Nat := 2 ^ c.toNat

/-- A pointer register advanced (R28, R205). -/
def Hart.advancePointer (h : Hart) (i : Fin 16) (c : BitVec 3) (gl : Nat) : Hart :=
  if c == 0 then h else h.wa i (h.ra i + BitVec.ofNat 64 (ceilDiv (gl * pointerWidth c) 8))

/-- The length that STRIP sets (R28). For a reference width of 3, 5, 6 or 7 the rule's 8 / w is no whole number: the model takes it
rounded down (assumption 29). -/
def stripLength (req vmax w : Nat) : Nat :=
  let gl := min (min req vmax) 16384
  if gl < req && w < 8 then gl - gl % (8 / w) else gl

/-- STRIP (R28, R30, R205, R206). -/
def execStrip (sa : SReg) (vref : VRef) (w3 w2 w1 w0 : BitVec 3) (s : State) : Host.Outcome State Fault Refusal :=
  run s do
    legal (w0 != 7 && w1 != 7 && w2 != 7 && w3 != 7)
    begin false .never
    let (group, w) ← reference (vref.castLE (by decide))
    updCur fun h =>
      let h := h.adopt
      let gl := stripLength (h.rs sa).toNat (vlmax h.grant group w) w
      (((({ h with gl := BitVec.ofNat 15 gl }).advancePointer 0 w0 gl).advancePointer 1 w1 gl).advancePointer 2 w2
        gl).advancePointer 3 w3 gl
    settleCur

/-- The store part of CLAIM (R46): at a lessor a conditional store, after which CLAIM reads again when it is not performed. -/
def claimStore (s s1 : State) (stream : Nat) (l : Loc) (va x : Nat) : Act Unit :=
  if !l.leased then set (s1.storeAt s1.cur.id l 8 x stream).2
  else match s1.leaseConditional s1.cur.id stream [⟨{ elem := 0, va := va, n := 8, x := x }, l⟩] with
  | (.error w, s') => fun _ => .error (.stay { s.waitOn s' w with cur := { s.cur with wait := w, undivided := true } })
  | (.ok false, _) => fun _ => .error (.stay { s with peerData := s.peerData.filter fun e => e.1.id != s.cur.id })
  | (.ok true, s') => set (s'.breakLine l.line)

/-- CLAIM (R46, R207, R208). -/
def execClaim (sd sa : SReg) (base : AReg) (vref : VReg) (st : Stream) (s : State) : Host.Outcome State Fault Refusal :=
  run s do
    begin false .never
    let (group, w) ← reference vref
    let h ← hart
    let va := (h.ra base).toNat
    waitStream st.val true
    match ← locate .rmw false { stream := st.val } va 16 with
    | .error (t, k) => freezeAt t k { stream := st.val } none va
    | .ok l =>
      let s ← get
      match s.readPiece [] ⟨{ elem := 0, va := va, n := 16 }, l⟩ .linked with
      | (.wait w, _, s') => fun _ => .error (.stay (s.waitOn s' w))
      | (.data cls x, _, s1) =>
        if 3 ≤ cls then do
          set s1
          raise { code := 0x08, deta := s1.errorAddress l va 16, cls := cls, acc := 2, stream := st.val }
        else do
          let n := x % 2 ^ 64
          let lim := x / 2 ^ 64
          let g := if lim ≤ n then 0 else min (min (h.rs sa).toNat (vlmax h.grant group w)) (min (lim - n) 16384)
          if g == 0 then set s1 else claimStore s s1 st.val l va (n + g)
          updCur fun h => { h.ws sd (BitVec.ofNat 64 n) with gl := BitVec.ofNat 15 g }

/-! ### Barrier and phase end -/

/-- The checks of R34 and R209: a launched hart without a live child. A launched hart's child stays live in the model, for GBAR, PHEND,
LFORK and DONE, until the parent's own LJOIN has taken its lanes back; the specification ends it at its LJOIN and says no more
(assumption 28). -/
def barrierLegal : Act Nat := do
  begin false .never
  let h ← hart
  legal (h.child.isNone && h.parent.isNone)
  match h.gang with
  | some g => pure g
  | none => illegal

/-- The hart past its instruction, arrived and waiting. -/
def arriveAt (g : Nat) (w : Wait) : Act Unit := endAs fun s => ({ s with cur := { s.cur.retire with wait := w } }).arrive g

/-- GBAR (R33, R145, R209 to R211). -/
def execGbar (s : State) : Host.Outcome State Fault Refusal :=
  run s do
    let g ← barrierLegal
    waitFor (.transfers 0xFF false)
    arriveAt g .barrier

/-- The mode and sweep limit of a phase: what PHCTL holds at its first arrival (R329). -/
def State.phaseMode (s : State) (p : Nat) : Bool × Nat :=
  let w := (s.partAt p).phctl.toNat
  (bitOf w 16, if fld w 7 0 == 0 then 256 else fld w 7 0)

/-- PHEND (R35, R36, R209): in normal service it waits until the hart's scatter elements are acknowledged; in two-sweep mode the sweeps
take the place of that wait. -/
def execPhend (s : State) : Host.Outcome State Fault Refusal :=
  run s do
    let g ← barrierLegal
    waitFor (.transfers 0xFF false)
    let s ← get
    let mode := ((s.gang? g).bind Gang.phase).getD (s.phaseMode s.cur.part.val)
    if !mode.1 then waitFor .acknowledged
    modify fun s => s.updGang g fun x => { x with phase := some mode }
    arriveAt g .phase

/-- A hart frozen by a phase imbalance (R329, R335). -/
def Hart.freezeImbalance (h : Hart) : Hart := h.freeze 0 7 0 false false 0 0 0

/-- Whether a hart is frozen by a phase imbalance. -/
def Hart.imbalanced (h : Hart) : Bool := h.frozen && fld h.frzst.toNat 31 29 == 7

/-- PHASE_SWEEP (R36, R329): two sweeps of the sent and received counts, once every hart has arrived. -/
def State.phaseSweep (s : State) (g : Nat) : State :=
  match s.gang? g with
  | none => s
  | some x =>
    match x.phase with
    | some (true, limit) =>
      if x.arr < x.size || (s.harts.any fun h => h.inGang g && h.imbalanced) then s
      else if x.sent == x.received then s.depart g
      else if x.sweeps + 1 < limit then s.updGang g fun x => { x with sweeps := x.sweeps + 1 }
      else ((s.updGang g fun x => { x with sweeps := 0 }).mapHarts fun h =>
          if h.atBarrier g then h.freezeImbalance else h).signalS x.part.val 1 true
    | _ => s

/-- The scatter elements of a lane of a hart that lessors have yet to perform. -/
def State.lanesOut (s : State) (id : HartId) (lane : Fin 16) : Nat :=
  (s.link.sent.map fun r => if r.id == id then r.lanes.count lane.val else 0).sum

/-- SCATTER_ACKNOWLEDGE (R35): one element of a lane acknowledged that its target has performed; the answer of a lessor acknowledges
those that it performs. -/
def State.scatterAcknowledge (s : State) (id : HartId) (lane : Fin 16) : State :=
  s.updHart id fun h =>
    if h.unacked[lane] ≤ s.lanesOut id lane then h else { h with unacked := h.unacked.set lane (h.unacked[lane] - 1) }

/-! ### Burl handles -/

/-- Fields of a handle (R300). -/
def handleValid (w : Word) : Bool := w.getLsbD 63
def handleOff (w : Word) : Nat := fld w.toNat 21 13 * 4096

/-- The region that a valid handle of a hart reaches. -/
def State.regionOf (s : State) (id : HartId) (w : Word) : Option Region :=
  if handleValid w then s.regions.find? fun r => r.core == coreOf id && r.off == handleOff w else none

/-- A handle's attachment dropped: the region is freed with its last one (R299, R310). -/
def State.detach (s : State) (id : HartId) (w : Word) : State :=
  match s.regionOf id w with
  | none => s
  | some r =>
    if r.refs ≤ 1 then
      { s with
        regions := s.regions.filter fun x => !(x.core == r.core && x.off == r.off)
        lost := s.lost ++ [(r.core, r.off, 2 ^ r.log2)] }
    else { s with regions := s.regions.map fun x =>
        if x.core == r.core && x.off == r.off then { x with refs := x.refs - 1 } else x }

/-- Every handle of the issuing hart released (R202, R320). -/
def releaseHandles : Act Unit := fun s =>
  let s' := s.cur.h.toList.foldl (fun s w => s.detach s.cur.id w) s
  .ok ((), { s' with cur.h := Vector.replicate 4 0 })

/-! ### Fork and join -/

/-- The contexts of the issuing hart's core that hold no hart. -/
def State.freeContexts (s : State) : List HartId :=
  if isMgmt s.cur.id then [] else
    ((List.range 4).map fun c => 4 * coreOf s.cur.id + c).filter fun id =>
      s.harts.all fun h => h.id != id || h.wait == .vacant || h.wait == .ended

/-- The trap registers of a forked child (R441). -/
def TrapSet.forked (t : TrapSet) : TrapSet :=
  { TrapSet.launch with
    tbase := t.tbase
    tframe := t.tframe + 512
    tstate := BitVec.ofNat 64 (0x60 + fld t.tstate.toNat 15 8 * 256) }

/-- The child of a fork: copies, lanes and the rest of its state (R43, R440, R441). -/
def Hart.forkChild (h : Hart) (id : HartId) (sd : SReg) (target : Word) : Hart :=
  let half := h.grant.lanes / 2
  ({ Hart.vacant id with
    gang := h.gang, parent := some h.id, depth := h.depth + 1, wait := .run, prv := h.prv, part := h.part, skew := h.skew
    pc := target, s := h.s, a := h.a, c := h.c, v := h.v, tag := h.tag, m := h.m, f := h.f
    gl := h.gl, fcs := h.fcs, gseedLo := h.gseedLo, gseedHi := h.gseedHi
    grant := ⟨half, h.grant.q⟩, forkGrant := ⟨half, h.grant.q⟩, pending := h.pending
    laneBase := h.laneBase + half
    sset := h.sset.forked, mset := h.mset.forked
    view := h.view }.draw.2).ws sd 2

/-- LFORK (R43, R212, R440, R441). A child counts as live until its parent has joined it: DESIGN CHOICE (assumption 28). -/
def execLfork (sd : SReg) (off : BitVec 14) (s : State) : Host.Outcome State Fault Refusal :=
  run s do
    begin false .never
    let s ← get
    let h := s.cur
    if h.child.isSome || h.grant.lanes < 8 then updCur fun h => h.ws sd 0
    else
      let (id, s) := s.pick s.freeContexts
      match id with
      | none => updCur fun h => h.ws sd 0
      | some id =>
        let child := h.forkChild id sd (h.pc + 4 * off.signExtend 64)
        set { s with
          others := child :: s.others.filter fun x => x.id != id
          cur := { h.ws sd 1 with
            child := some id, forkGrant := h.grant, grant := ⟨h.grant.lanes / 2, h.grant.q⟩ } }

/-- Whether a child has executed its LJOIN: it is gone from its context. -/
def State.childEnded (s : State) (parent : Hart) (id : HartId) : Bool :=
  s.harts.all fun h => h.id != id || h.parent != some parent.id || h.wait == .ended

/-- The parent past a join: the lanes that it held before LFORK, or its share of a pending grant (R44). Its length cap stays as it is
until its next STRIP (R30). DESIGN CHOICE (assumption 69): the pending grant stays pending until that STRIP adopts it, since R44 does not
say that a join ends it. -/
def Hart.joined (h : Hart) : Hart :=
  let h := { h with child := none, wait := .run }
  let lanes := match h.pending with
    | some g => h.share g.lanes
    | none => h.forkGrant.lanes
  { h with grant := ⟨lanes, h.grant.q⟩ }

/-- Whether a hart has no child that is still to end (R213). -/
def State.childless (s : State) (h : Hart) : Bool :=
  match h.child with
  | none => true
  | some id => s.childEnded h id

/-- A child's end at its parent (R44): a launched parent that waits at its LJOIN goes on; a parent that is a child itself, and so
never waits at an LJOIN, takes its lanes back at once (assumption 28). -/
def Hart.childLeft (p : Hart) : Hart :=
  if p.parent.isSome then { p.joined with wait := p.wait } else if p.wait == .join then { p with wait := .run } else p

/-- LJOIN of a child: its handles and its context released, and its lanes returned (R44, R320). -/
def childJoin : Act Unit := do
  let h ← hart
  let s ← get
  legal (s.childless h)
  waitFor (.transfers 0xFF false)
  releaseHandles
  endAs fun s =>
    let s := { (s.breakLinks s.cur.id).keepContext s.cur with others := s.others.filter fun x => !(x.wait == Wait.ended && x.parent == some s.cur.id) }
    let id := s.cur.id
    let parent := s.cur.parent
    let away := (parent.bind s.hart?).any fun p => p.parent.isSome
    let s := { s with cur := { Hart.vacant id with parent := if away then none else parent, wait := if away then .vacant else .ended } }
    match parent with
    | some p => s.updHart p Hart.childLeft
    | none => s

/-- LJOIN (R44, R213): a child ends; a parent waits for its child. -/
def execLjoin (s : State) : Host.Outcome State Fault Refusal :=
  run s do
    begin false .never
    let h ← hart
    if h.parent.isSome then childJoin
    else match h.child with
    | none => illegal
    | some id =>
      let s ← get
      if s.childEnded h id then
        set { s with others := s.others.filter fun x => !(x.id == id && x.parent == some h.id) }
        updCur Hart.joined
        settleCur
      else stall .join

/-! ### Lane blocks -/

/-- The word of LBEND (R212). -/
def lbendWord : BitVec 32 := 0x5000C000#32

/-- The address of the first LBEND among the words that remain (R214, R215). -/
def findLbend : Nat → Word → Act Word
  | 0, _ => illegal
  | n + 1, pc => do
    let w ← fetchWord pc.toNat
    if w == lbendWord then pure pc else findLbend n (pc + 4)

/-- Element e of va as s30 receives it (R39, R214). -/
def laneInput (d : Vec) (e : Nat) : Word :=
  if d.fmt.isInt && d.fmt.isSigned then BitVec.ofNat 64 (wrap 64 (sext d.w (d.elem e))) else BitVec.ofNat 64 (d.elem e)

/-- The lane-thread of an element started (R39). -/
def Hart.startLane (h : Hart) (b : LaneBlock) (d : Vec) (e : Nat) : Hart :=
  { h with
    lane := some { b with elem := e }
    s := (b.saved.set 30 (laneInput d e)).set 31 (BitVec.ofNat 64 e)
    pc := b.fetchPc + 4 }

/-- The hart past a lane block (R62, R214). -/
def Hart.endLane (h : Hart) (saved : Vector Word 32) (endPc : Word) : Hart :=
  { h with lane := none, s := saved, pc := endPc + 4, erix := 0 }

/-- The end of a lane block, unless an operand fails: a block without an LBEND is illegal before any operand is looked at (R215,
R377). DESIGN CHOICE (assumption 74): a bad operand is raised before a fetch fault of the scan; R215 does not rank the two. -/
def blockEnd (operandsOk : Bool) : Act Word := fun s =>
  match findLbend 256 (s.cur.pc + 4) s with
  | .ok r => if operandsOk then .ok r else reservedOperand s
  | .error (.trap t s') => if operandsOk || t.code == 0x01 then .error (.trap t s') else reservedOperand s
  | .error e => .error e

/-- VFETCH (R39 to R42, R214, R215): lane-threads run one after another in ascending element order. -/
def execVfetch (vd va : VReg) (m : MReg) (s : State) : Host.Outcome State Fault Refusal :=
  run s do
    begin false .never
    let h ← hart
    legal (!tagSparse h.tag[vd] && !tagSparse h.tag[va])
    let ok (r : VReg) : Bool := (h.vec? r).any fun o => o.lengthOk h.gl.toNat
    let endPc ← blockEnd (ok vd && ok va)
    let a ← readVec va
    match h.active m h.erix.toNat h.gl.toNat with
    | [] => endAs fun s => { s with cur := s.cur.endLane s.cur.s endPc }
    | e :: _ => endAs fun s => { s with cur := s.cur.startLane ⟨s.cur.pc, endPc, vd, va, m, e, s.cur.s⟩ a e }

/-- LBEND (R39, R42, R214, R215): the lane-thread's element is committed, and the next one starts. -/
def execLbend (s : State) : Host.Outcome State Fault Refusal :=
  run s do
    let h ← hart
    match h.lane with
    | none => illegal
    | some b =>
      let d ← readVec b.vd
      let a ← readVec b.va
      compareLane
      updCur fun h => h.writeElems d [(b.elem, (h.rs 30).toNat % 2 ^ d.w)]
      match h.active b.m (b.elem + 1) h.gl.toNat with
      | [] => endAs fun s => { s with cur := s.cur.endLane b.saved b.endPc }
      | e :: _ => endAs fun s => { s with cur := s.cur.startLane b a e }

/-! ### QPOST -/

/-- The header of a queue as QPOST reads it (R337): five words, each valid as R217 asks. -/
structure Header where
  rbase : Nat
  log2n : Nat
  tail : Nat
  head : Nat
  dbaddr : Nat
deriving DecidableEq, Repr

/-- The words of a header that pass the checks (R217, R337). DESIGN CHOICE (assumption 73): a DBADDR with a set bit in [63:57] fails them;
R217 names only the multiple of 4,096. -/
def headerOf (x : Nat) : Option Header :=
  let w (i : Nat) : Nat := x / 2 ^ (64 * i) % 2 ^ 64
  if w 0 < 2 ^ 57 && w 0 % 64 == 0 && w 1 / 16 == 0 && 4 ≤ w 1 && w 1 ≤ 8 && w 4 < 2 ^ 57 && w 4 % 4096 == 0 then
    some ⟨w 0, w 1, w 2, w 3, w 4⟩
  else none

/-- The header's sector with TAIL advanced (R338 item 1): performed at its controller, or conditionally at a lessor, where a
reservation that another master's broke is tried again; pre-emption does not divide it (R355). A header that the controller has lost
stays as it was. -/
def reserve (hd : Header) (l : Loc) : Act Unit := do
  let s ← get
  match l with
  | .lease pa _ =>
    let w := BitVec.ofNat 512 ((hd.tail + 1) % 2 ^ 64 * 2 ^ 128)
    match s.askPeer (s.toLessor s.cur.id 0 pa 64 (.conditional w 0xFF0000)) with
    | (.error w, s') => fun _ => .error (.stay { s.waitOn s' w with cur := { s.cur with wait := w, undivided := true } })
    | (.ok (.conditional true), s) => set s
    | (.ok _, s) => fun _ => .error (.stay s.dropPeerData)
  | l => set (s.storeAt s.cur.id (l.plus 16) 8 (hd.tail + 1)).2

/-- The record placed and the doorbell rung (R216, R338). -/
def postRecord (hd : Header) (l : Loc) (x : Nat) (sd : SReg) : Act Unit := do
  let entry := hd.rbase + 64 * (hd.tail % 2 ^ hd.log2n)
  match ← locate .store false {} entry 64 with
  | .error (t, k) => modify fun s => s.freezeCur t k false true 0 0 entry
  | .ok slot =>
    match ← locate .store false {} hd.dbaddr 8 with
    | .error (t, k) => modify fun s => s.freezeCur t k false true 0 0 hd.dbaddr
    | .ok bell =>
      waitFor .sectors
      reserve hd l
      modify fun s =>
        let s := (s.storeLine s.cur.id slot x).2
        (s.storeAt s.cur.id bell 8 hd.tail).2
      updCur fun h => h.ws sd 1

/-- The register of a launch record: R58 but for its length checks, since the record is taken whatever GL (R216, R217): DEDUCED
(assumption 20). -/
def recordReg (va : VReg) : Act Vec := do
  let h ← hart
  match h.vec? va with
  | none => reservedOperand
  | some o => pure o

/-- QPOST (R48, R216, R217, R338, R145). Its release holds back the whole instruction. -/
def execQpost (sd : SReg) (base : AReg) (va : VReg) (s : State) : Host.Outcome State Fault Refusal :=
  run s do
    begin false .never
    let v ← recordReg va
    waitFor (.transfers 0xFF false)
    waitStream 0 true
    let h ← hart
    let addr := (h.ra base).toNat
    match ← locate .rmw false {} addr 64 with
    | .error (t, k) => freezeAt t k {} none addr
    | .ok l =>
      let s ← get
      let (got, s') := match l with
        | .lease pa _ => match s.leaseSector s.cur.id .linked pa with
          | (.error w, s) => (Got.wait w, s)
          | (.ok (c, d), s) => (.data c d, s)
        | l => s.loadAt s.cur.id s.cur.id l 64
      match got with
      | .wait w => fun _ => .error (.stay (s.waitOn s' w))
      | .data cls x =>
        set s'
        if 3 ≤ cls then raise { code := 0x08, deta := s'.errorAddress l addr 64, cls := cls, acc := 2 }
        else match headerOf x with
        | none => reservedOperand
        | some hd =>
          if hd.tail - hd.head < 2 ^ hd.log2n then postRecord hd l (v.bits % 2 ^ 512) sd
          else updCur fun h => h.ws sd 0

/-! ### DONE -/

/-- DONE (R202, R344): at U, by a launched hart without a live child. -/
def execDone (s : State) : Host.Outcome State Fault Refusal :=
  run s do
    begin false .never
    let h ← hart
    legal (h.prv == .u && h.child.isNone && h.parent.isNone)
    waitFor .entries
    waitFor (.transfers 0xFF true)
    let s ← get
    let (s, h) := s.releaseAllK s.cur
    set { s with cur := h }
    releaseHandles
    waitFor (.transfers 0xFF true)
    endAs fun s =>
      let s := (s.breakLinks s.cur.id).keepContext s.cur
      let s := { s with cur := { Hart.vacant s.cur.id with gang := s.cur.gang, wait := .ended } }
      match s.cur.gang with
      | some g => s.hartEnded g
      | none => s

end Sys2Proof.Machine
end

