-- ==== Sys2Proof/Machine/Matrix.lean ====
section
/-! DEFINITION. The matrix queue and the instructions of majors 0x30 and 0x31 (R86, R280 to R291, R354): checks and captures at issue,
and what an entry does to its tile when it completes. -/

namespace Sys2Proof.Machine

/-! ### Exact sums -/

/-- A result that is still exact, as a value. -/
def Res.val : Res → Val
  | .nan => .nan false
  | .inf n => .inf n
  | .ex x => .fin x.neg x.m x.e

/-- The exact sum of values, and its flags. -/
def sumVals (vs : List Val) : Val × Nat :=
  match vs with
  | [] => (.fin false 0 0, 0)
  | v :: vs => vs.foldl (fun acc v => let (r, f) := addRes 0 acc.1 v; (r.val, acc.2 ||| f)) (v, 0)

/-- |v|. -/
def Val.abs : Val → Val
  | .nan s => .nan s
  | .inf _ => .inf false
  | .fin _ m e => .fin false m e

/-- A value rounded to FP32 (RNE is mode 0, RUP is mode 3). -/
def toFp32 (mode : Nat) (v : Val) : Nat := (fp32.round mode 0 v.toRes).1

/-- x ± p rounded once to FP32: encoding and flags. -/
def accumulate (mode : Nat) (x : Nat) (p : Val) : Nat × Nat :=
  let (r, f) := addRes 0 (fp32.decode x) p
  let (c, g) := fp32.round mode 0 r
  (c, f ||| g)

/-! ### Tiles -/

/-- FP32 value i of a packed vector. -/
def word32 (x i : Nat) : Nat := x / 2 ^ (32 * i) % 2 ^ 32

/-- Element (i, j) of a tile. -/
def Tile.at' (t : Tile) (i j : Nat) : Nat := word32 t.elems.toNat (128 * i + j)

/-- The element values of row i, and of column j. -/
def Tile.row (t : Tile) (i : Nat) : List Val := (List.range 128).map fun j => fp32.decode (t.at' i j)
def Tile.col (t : Tile) (j : Nat) : List Val := (List.range 128).map fun i => fp32.decode (t.at' i j)

/-- A tile with elements replaced: packed index and encoding. -/
def Tile.put (t : Tile) (es : List (Nat × Nat)) : Tile := { t with elems := BitVec.ofNat 524288 (putElems 32 t.elems.toNat es) }

/-- Rows of equal number summed exactly, in order of first appearance (R286): row, sum, flags. -/
def sumRows (a : List (Nat × Val)) : List (Nat × Val) × Nat :=
  ((a.map Prod.fst).eraseDups).foldl (fun acc i =>
    let (v, f) := sumVals ((a.filter fun p => p.1 == i).map Prod.snd)
    (acc.1 ++ [(i, v)], acc.2 ||| f)) ([], 0)

/-- The products of one MOP added to a tile, with the flags of R86 and R286. -/
def Tile.products (t : Tile) (negate : Bool) (a b : List (Nat × Val)) : Tile × Nat :=
  let (es, fl) := a.foldl (fun acc p =>
    b.foldl (fun acc q =>
      let (v, f) := mulVal p.2 q.2
      let (c, g) := accumulate 0 (t.at' p.1 q.1) (if negate then v.neg else v)
      (acc.1 ++ [(128 * p.1 + q.1, c)], acc.2 ||| f ||| g)) acc) ([], 0)
  (t.put es, fl)

/-- The check state after the same MOP (R285). -/
def Tile.checks (t : Tile) (negate : Bool) (a b : List (Nat × Val)) : Tile :=
  let sA := fp32.decode (toFp32 0 (sumVals (a.map Prod.snd)).1)
  let sB := fp32.decode (toFp32 0 (sumVals (b.map Prod.snd)).1)
  let uA := fp32.decode (toFp32 3 (sumVals (a.map fun p => p.2.abs)).1)
  let uB := fp32.decode (toFp32 3 (sumVals (b.map fun p => p.2.abs)).1)
  let sign (v : Val) : Val := if negate then v.neg else v
  let up (mode : Nat) (x : BitVec 4096) (es : List (Nat × Val)) (f : Val → Val) : BitVec 4096 :=
    BitVec.ofNat 4096 (putElems 32 x.toNat (es.map fun p => (p.1, (accumulate mode (word32 x.toNat p.1) (f p.2)).1)))
  { t with
    rs := up 0 t.rs a fun v => sign (mulVal v sB).1
    ra := up 3 t.ra a fun v => (mulVal v.abs uB).1
    cs := up 0 t.cs b fun v => sign (mulVal sA v).1
    ca := up 3 t.ca b fun v => (mulVal uA v.abs).1 }

/-- One MOP performed (R285, R286). Where every active row lies at 128 or above, `a` is empty and the column sums still take 0 × b[j].
Without an active column nothing changes. -/
def Tile.mop (t : Tile) (negate : Bool) (a b : List (Nat × Val)) : Tile × Nat :=
  if b.isEmpty then (t, 0)
  else
    let (rows, f) := sumRows a
    let (t', g) := t.products negate rows b
    (t'.checks negate rows b, f ||| g)

/-- The check state recomputed from the contents (R290). -/
def Tile.seal (t : Tile) : Tile :=
  let pack (f : Nat → Nat) : BitVec 4096 := BitVec.ofNat 4096 ((List.range 128).foldr (fun i x => f i + 2 ^ 32 * x) 0)
  { t with
    rs := pack fun i => toFp32 0 (sumVals (t.row i)).1
    cs := pack fun j => toFp32 0 (sumVals (t.col j)).1
    ra := pack fun i => toFp32 3 (sumVals ((t.row i).map Val.abs)).1
    ca := pack fun j => toFp32 3 (sumVals ((t.col j).map Val.abs)).1
    u := false, d := false }

/-- The values of TMRV and TMCV rounded once to FP32 in their places; U is set (R288, R289). -/
def Tile.fill (t : Tile) (row : Bool) (index : Nat) (vals : List (Nat × Val)) : Tile × Nat :=
  let (es, fl) := vals.foldl (fun acc p =>
    let (c, f) := fp32.round 0 0 p.2.toRes
    (acc.1 ++ [((if row then 128 * index + p.1 else 128 * p.1 + index), c)], acc.2 ||| f ||| p.2.sigFlag)) ([], 0)
  ({ t.put es with u := true }, fl)

/-! ### The tile check -/

/-- Whether a value is a NaN or infinite. -/
def Val.isSpecial : Val → Bool
  | .fin _ _ _ => false
  | _ => true

/-- v × 2^(−t). -/
def Val.shiftDown (v : Val) (t : Nat) : Val :=
  match v with
  | .fin n m e => .fin n m (e - t)
  | v => v

/-- The test of R291 on a sum, its check value and its magnitude. -/
def checkFails (t : Nat) (sum r a : Val) : Bool :=
  sum.isSpecial || r.isSpecial || a.isSpecial ||
    ((addRes 0 sum r.neg).1.val.abs.cmp (a.shiftDown t)) == .gt

/-- The mask of TCHK (R291). -/
def Tile.checkBits (t : Tile) (th : Nat) : List Nat :=
  ((List.range 128).filter fun i =>
    checkFails th (sumVals (t.row i)).1 (fp32.decode (word32 t.rs.toNat i)) (fp32.decode (word32 t.ra.toNat i)))
  ++ (((List.range 128).filter fun j =>
    checkFails th (sumVals (t.col j)).1 (fp32.decode (word32 t.cs.toNat j)) (fp32.decode (word32 t.ca.toNat j))).map (128 + ·))
  ++ (if t.u then [256] else []) ++ (if t.d then [257] else [])

/-! ### The queue -/

/-- Tile elements rounded to a vector group's format, both as captured; mode 5 rounds with RNE (R83, R289). -/
def Hart.moveTile (h : Hart) (t : Tile) (row : Bool) (va : VReg) (index : Nat) (es : List Nat) (pfxs : BitVec 16) (x : Moved) : Hart :=
  match ({ h with tag := h.tag.set va x.tag, f := x.f } : Hart).vec? va with
  | none => h
  | some d =>
    match d.floatDest? with
    | none => h
    | some f =>
      let mode := if x.rm == 5 then 0 else x.rm
      let rs : List (Nat × Nat × Nat) := es.map fun e =>
        let v := fp32.decode (if row then t.at' index e else t.at' e index)
        let (c, g) := f.round mode 0 v.toRes
        (e, c, g ||| v.sigFlag)
      let h' : Hart := Hart.writeElems { h with pfxs := pfxs } d (rs.map fun p => (p.1, p.2.1))
      ({ h' with pfxs := h.pfxs }).flag (rs.foldl (fun x (p : Nat × Nat × Nat) => x ||| p.2.2) 0)

/-- What an entry does when it completes: to its tile, to the vector or the mask that it writes, and to FCS (R280). -/
def MxOp.complete (op : MxOp) (td : TReg) (flags : Nat) (h : Hart) : Hart :=
  let t := h.t[td]
  match op with
  | .mop negate a b damaged =>
    let (t', f) := t.mop negate a b
    { h with t := h.t.set td { t' with d := t'.d || damaged } }.flag (flags ||| f)
  | .zero => { h with t := h.t.set td Tile.zero }
  | .fill row index vals =>
    let (t', f) := t.fill row index vals
    { h with t := h.t.set td t' }.flag (flags ||| f)
  | .seal => { h with t := h.t.set td t.seal }
  | .move row va index es pfxs x => h.moveTile t row va index es pfxs x
  | .check ma threshold => h.wm ma (maskOf (t.checkBits threshold))

/-- An operation posted for a tile, once the queue has a place for it (R280, R354). -/
def post (td : TReg) (op : MxOp) (flags : Nat) : Act Unit := do
  waitFor .posting
  modify fun s => { s with mxq := s.mxq ++ [⟨s.cur.id, td, op, flags⟩] }

/-- The post of an operation that writes a register: the hart issues nothing more until it has completed. R280 asks it of the
instructions that read or write that register; the others are held back too (assumption 27). -/
def postRead (td : TReg) (op : MxOp) : Act Unit := do
  post td op 0
  updCur fun h => { h with wait := .busy .entries }

/-- MATRIX_ENTRY_COMPLETE (R280, R63): the oldest entry of a core has its effects. -/
def State.completeEntry (s : State) (core : Nat) : State :=
  match s.entriesOf core with
  | [] => s
  | e :: _ => ({ s with mxq := s.mxq.erase e }).updHart e.hart (e.op.complete e.td e.flags)

/-! ### Checks at issue -/

/-- The checks common to the matrix instructions (R283): pairing, tile name, GL. -/
def beginMx (p : Pairing) (td : TReg) : Act Unit := do
  begin false p
  let h ← hart
  operand (td.val < h.tiles && h.gl.toNat ≤ 128)

/-- A format that a MOP source may have (R281). -/
def Fmt.mopSource (f : Fmt) : Bool :=
  match f with
  | .float g => g.width ≤ 32
  | .uint w => w ≤ 8
  | .sint w => w ≤ 8
  | .e8 => false

/-- A source of a MOP, TMRV or TMCV: an integer source is not scaled (R219, R281). -/
def Vec.mopSource (o : Vec) : Bool := o.fmt.mopSource && (o.fmt.isFloat || o.scale.isNone)

/-- Coordinate and value of pair p of a sparse group (R292). -/
def Vec.coord (o : Vec) (p : Nat) : Nat := o.bits / 2 ^ (32 * p) % 2 ^ 32
def Vec.pairElem (o : Vec) (p : Nat) : Nat := o.bits / 2 ^ (8192 * o.group + p * o.w) % 2 ^ o.w
def Vec.pairValue (o : Vec) (h : Hart) (p : Nat) : Val × Nat :=
  match o.scaleOf h p with
  | none => (o.fmt.decode (o.pairElem p), 0)
  | some s => scaleVal (o.fmt.decode (o.pairElem p)) s

/-- Values with their numbers, and the flags of their scales. -/
def takeVals (f : Nat → Val × Nat) (es : List Nat) : List (Nat × Val) × Nat :=
  es.foldl (fun acc e => let (v, g) := f e; (acc.1 ++ [(e, v)], acc.2 ||| g)) ([], 0)

/-- The sources of a MOP, checked (R58, R281, R283). -/
def mopSources (va vb : VReg) : Act (Vec × Vec) := do
  let h ← hart
  let a ← readVec va
  let b ← readVec vb
  operand (!b.sparse && a.mopSource && b.mopSource && a.fmt.isFloat == b.fmt.isFloat)
  operand (a.scaleOk (if a.sparse then a.slen else h.gl.toNat) && b.scaleOk h.gl.toNat)
  pure (a, b)

/-- The columns of a MOP. -/
def columns (h : Hart) (b : Vec) (m : MReg) : List (Nat × Val) × Nat := takeVals (b.value h) (h.active m 0 h.gl.toNat)

/-- The active elements or pairs of va (R285). -/
def rowElems (h : Hart) (a : Vec) (m : MReg) : List Nat := h.active m 0 (if a.sparse then a.slen else h.gl.toNat)

/-- The rows of MOP and MOPN by element, or by coordinate for a sparse va (R284, R285). -/
def rows (h : Hart) (a : Vec) (m : MReg) : List (Nat × Val) × Nat :=
  if a.sparse then
    let (vs, f) := takeVals (a.pairValue h) ((h.active m 0 a.slen).filter fun p => a.coord p < 128)
    (vs.map fun p => (a.coord p.1, p.2), f)
  else takeVals (a.value h) (h.active m 0 h.gl.toNat)

/-- The mould of MOP and MOPN (R285, R286). -/
def mopMould (negate : Bool) (td : TReg) (va vb : VReg) (m : MReg) : Act Unit := do
  beginMx (.masked .none) td
  let (a, b) ← mopSources va vb
  let h ← hart
  let (rs, fa) := rows h a m
  let (cs, fb) := columns h b m
  if h.gl == 0 || (rowElems h a m).isEmpty || cs.isEmpty then pure ()
  else post td (.mop negate rs cs false) (if rs.isEmpty then 0 else fa ||| fb)

/-- MOP (R284 to R286). -/
def execMop (td : TReg) (va vb : VReg) (_ca _cb : Bool) (m : MReg) (s : State) : Host.Outcome State Fault Refusal :=
  run s (mopMould false td va vb m)

/-- MOPN (R284 to R286). -/
def execMopn (td : TReg) (va vb : VReg) (_ca _cb : Bool) (m : MReg) (s : State) : Host.Outcome State Fault Refusal :=
  run s (mopMould true td va vb m)

/-- Damaged metadata elements of a MOPK recorded, each with its class and the layout tag of its sector (R287, R410). -/
def State.reportMetadata (s : State) (td : TReg) : List (Nat × Nat) → State
  | [] => s
  | (cls, layout) :: rest =>
    let core := coreOf s.cur.id
    (s.report (s.partOfCore core) ⟨s.cur.id, 11, layout, cls, core, 0, core * 2 ^ 32 + (s.cur.tileMap[td]).val⟩).reportMetadata td rest

/-- The layout tag of the sector that holds a window element; 0 where it lies outside this device's main memory. -/
def State.metadataLayout (s : State) (r : KReg) (x : List Nat) : Nat :=
  match (s.cur.copy? r x).bind WinElem.held with
  | some y =>
    match y.loc with
    | .dram _ pa _ _ => s.tagAt (pa / 64 * 64) 0
    | _ => 0
  | none => 0

/-- The metadata element at some coordinates of a window (R287): a row, or an error class. -/
def Hart.metadata (h : Hart) (r : KReg) (x : List Nat) : Except Nat Nat :=
  match h.copy? r x with
  | none => .ok 128
  | some c => if 3 ≤ c.cls then .error c.cls else .ok c.data.toNat

/-- The error class of a metadata element. -/
def metaClass : Except Nat Nat → Option Nat
  | .error c => some c
  | .ok _ => none

/-- The coordinates of the metadata that some elements name; one out of range raises the residency fault, the lowest first (R95, R283). -/
def inDeclaredSet (k : KIdx) (r : KReg) : List Nat → Act (List (Nat × List Nat))
  | [] => pure []
  | e :: es => do
    let h ← hart
    match r.locate h.c e with
    | none => residencyFault k r.strm e e 0
    | some x =>
      let xs ← inDeclaredSet k r es
      pure ((e, x) :: xs)

/-- Those of some coordinates whose copy has not arrived or is stale. -/
def Hart.lateOf (h : Hart) (r : KReg) (xs : List (List Nat)) : List (List Nat) :=
  xs.filter fun x => ((h.copy? r x).map fun c => c.stale || c.arrival != .arrived).getD false

/-- The hart with the stale copies at some coordinates to be fetched again (R365). -/
def Hart.fetchAgain (h : Hart) (r : KReg) (xs : List (List Nat)) : Hart :=
  xs.foldl (fun h x => h.updCopy r x fun e => some (if e.stale && e.arrival == .arrived then { e with arrival := .page } else e)) h

/-- MOPK (R284 to R287): rows from the metadata in a window. It is posted once all of its metadata has arrived (R104). DESIGN CHOICE
(assumption 70): a stale element is fetched again and waited for, since R283 gives MOPK no translation fault and R104 no outcome where
the probe keeps failing. -/
def execMopk (td : TReg) (va vb : VReg) (_ca _cb : Bool) (m : MReg) (k : KIdx) (s : State) : Host.Outcome State Fault Refusal :=
  run s do
    beginMx (.masked .none) td
    let (a, b) ← mopSources va vb
    let h ← hart
    let r := h.kr k
    operand (!a.sparse && h.parent.isNone && r.phase == .valid && r.esz ≤ 2)
    let xs ← inDeclaredSet k r (h.active m 0 h.gl.toNat)
    if h.gl == 0 || xs.isEmpty then pure ()
    else do
      let late := h.lateOf r (xs.map Prod.snd)
      if late.isEmpty then pure ()
      else do
        modify fun s => { s with cur := s.cur.fetchAgain r late }
        waitFor (.landed k late)
      waitFor .posting
      let read : List (Nat × Except Nat Nat) := xs.map fun p => (p.1, h.metadata r p.2)
      let bad := (xs.zip read).filterMap fun p => (metaClass p.2.2).map fun c => (c, p.1.2)
      let placed : List (Nat × Nat) := read.filterMap fun p =>
        match p.2 with
        | .ok row => if row < 128 then some (p.1, row) else none
        | .error _ => none
      let (vs, fa) := takeVals (a.value h) (placed.map Prod.fst)
      let rs := (placed.zip vs).map fun (p : (Nat × Nat) × (Nat × Val)) => (p.1.2, p.2.2)
      let (cs, fb) := columns h b m
      modify fun s => s.reportMetadata td (bad.map fun p => (p.1, s.metadataLayout r p.2))
      post td (.mop false rs cs !bad.isEmpty) (if rs.isEmpty || cs.isEmpty then 0 else fa ||| fb)

/-! ### Tile moves -/

/-- TZERO (R288). -/
def execTzero (td : TReg) (s : State) : Host.Outcome State Fault Refusal :=
  run s do
    beginMx (.masked .none) td
    let h ← hart
    if h.gl == 0 then pure () else post td .zero 0

/-- TSEAL (R288, R290). -/
def execTseal (td : TReg) (s : State) : Host.Outcome State Fault Refusal :=
  run s do
    beginMx (.masked .none) td
    let h ← hart
    if h.gl == 0 then pure () else post td .seal 0

/-- A row or column number (R289). -/
def tileIndex (sb : SReg) : Act Nat := do
  let h ← hart
  let i := (h.rs sb).toNat
  operand (i < 128)
  pure i

/-- The mould of TMVR and TMVC (R289). -/
def tileToVec (row : Bool) (td : TReg) (va : VReg) (sb : SReg) (m : MReg) : Act Unit := do
  let h ← hart
  beginMx (.masked (.vector va.val (tagGroup h.tag[va]))) td
  let d ← readVec va
  let i ← tileIndex sb
  operand d.floatDest?.isSome
  if h.gl == 0 then pure ()
  else postRead td (.move row va i (h.active m 0 h.gl.toNat) h.pfxs ⟨h.rmode, h.tag[va], h.f⟩)

/-- TMVR (R288, R289). -/
def execTmvr (td : TReg) (va : VReg) (sb : SReg) (m : MReg) (s : State) : Host.Outcome State Fault Refusal :=
  run s (tileToVec true td va sb m)

/-- TMVC (R288, R289). -/
def execTmvc (td : TReg) (va : VReg) (sb : SReg) (m : MReg) (s : State) : Host.Outcome State Fault Refusal :=
  run s (tileToVec false td va sb m)

/-- The mould of TMRV and TMCV (R289). -/
def vecToTile (row : Bool) (td : TReg) (va : VReg) (sb : SReg) (m : MReg) : Act Unit := do
  beginMx (.masked .none) td
  let h ← hart
  let a ← readVec va
  operand (a.mopSource && a.scaleOk h.gl.toNat)
  let i ← tileIndex sb
  let (vs, f) := takeVals (a.value h) (h.active m 0 h.gl.toNat)
  if h.gl == 0 then pure () else post td (.fill row i vs) f

/-- TMRV (R288, R289). -/
def execTmrv (td : TReg) (va : VReg) (sb : SReg) (m : MReg) (s : State) : Host.Outcome State Fault Refusal :=
  run s (vecToTile true td va sb m)

/-- TMCV (R288, R289). -/
def execTmcv (td : TReg) (va : VReg) (sb : SReg) (m : MReg) (s : State) : Host.Outcome State Fault Refusal :=
  run s (vecToTile false td va sb m)

/-- TCHK (R288, R291). -/
def execTchk (td : TReg) (ma : MReg) (sb : SReg) (s : State) : Host.Outcome State Fault Refusal :=
  run s do
    beginMx (.masked .mask) td
    let h ← hart
    let x := (h.rs sb).toNat
    operand (x < 32)
    if h.gl == 0 then pure () else postRead td (.check ma x)

end Sys2Proof.Machine
end

