-- ==== Sys2Proof/Machine/Sparse.lean ====
section
/-! DEFINITION. Sparse registers and the instructions of major 0x32 (R292 to R296), and PRUNE of major 0x33 (R297). -/

namespace Sys2Proof.Machine

/-! ### Pairs -/

/-- Pairs (coordinate, value encoding) put from pair 0 up (R292). -/
def putPairs (w g x : Nat) (ps : List (Nat × Nat)) : Nat :=
  (ps.zipIdx).foldl (fun x p =>
    let y := putElem 32 x p.2 p.1.1
    y - y / 2 ^ (8192 * g + p.2 * w) % 2 ^ w * 2 ^ (8192 * g + p.2 * w) + p.1.2 % 2 ^ w * 2 ^ (8192 * g + p.2 * w)) x

/-- Pairs written to a sparse group with its new SLEN, and to the copy group with the destination's tag (R52, R173, R294). -/
def Hart.writePairs (h : Hart) (d : Vec) (ps : List (Nat × Nat)) : Hart :=
  let t := BitVec.ofNat 64 (putFld d.tag.toNat 63 48 ps.length)
  let h' := (h.putGroup d.reg d.group (putPairs d.w d.group d.bits ps)).putTags d.reg t d.group
  if h.lent && h.copyClass == 2 then
    let c := h.copyIndex
    (h'.putGroup c d.group (putPairs d.w d.group (h.groupBits c d.group) ps)).putTags c t d.group
  else h'

/-- Pairs that a group can hold (R292). -/
def Vec.pairs (o : Vec) : Nat := pairCapacity o.group o.w

/-- Checks before an instruction of major 0x32 whose destination is vd: its sparse flag and a destination without scales (R219,
R293, R296). -/
def sparseDest (vd : VReg) (sparse : Bool) : Act Vec := do
  beginV vd
  let d ← readVec vd
  operand (d.sparse == sparse && d.scale.isNone)
  pure d

/-- The comparison of an instruction with a sparse result: its element groups, and its length as one more (R50, R400). The extra group is
the one after the last, and the element of R375 the first of that group: the rules name neither, DESIGN CHOICE (assumption 30). -/
def skewSparse (es : List Nat) (w : Nat) : Act Unit :=
  let g := (es.getLast?.map fun e => e * w / 128 + 1).getD 0
  skew (es ++ [(128 * g + w - 1) / w]) w

/-! ### Merges -/

/-- One pair of a merged result before rounding: coordinate, and the operands that are present. -/
structure Merged where
  coord : Nat
  x : Option Nat
  y : Option Nat
deriving DecidableEq, Repr

/-- The merge of R294 by fuel: pair numbers of va and vb. -/
def mergePairs (a b : Vec) (mul : Bool) : Nat → Nat → Nat → List Merged
  | 0, _, _ => []
  | n + 1, i, j =>
    if a.slen ≤ i && b.slen ≤ j then []
    else if b.slen ≤ j || (i < a.slen && a.coord i < b.coord j) then
      (if mul then [] else [⟨a.coord i, some i, none⟩]) ++ mergePairs a b mul n (i + 1) j
    else if a.slen ≤ i || b.coord j < a.coord i then
      (if mul then [] else [⟨b.coord j, none, some j⟩]) ++ mergePairs a b mul n i (j + 1)
    else ⟨a.coord i, some i, some j⟩ :: mergePairs a b mul n (i + 1) (j + 1)

/-- What SPADD, SPSUB and SPMUL do with values: both, and y alone. -/
structure MergeOp where
  mul : Bool
  float : Nat → Val → Val → Res × Nat
  int : Int → Int → Int
  negate : Bool

/-- The value of a merged pair in a floating format: encoding, flags. -/
def mergeFloat (op : MergeOp) (f : FloatFmt) (h : Hart) (a b : Vec) (draw : Nat) (p : Merged) : Nat × Nat :=
  let (r, fl) := match p.x, p.y with
    | some i, some j =>
      let (x, fx) := a.pairValue h i
      let (y, fy) := b.pairValue h j
      let (r, fr) := op.float h.rmode x y
      (r, fx ||| fy ||| fr)
    | some i, none => let (x, fx) := a.pairValue h i; (x.toRes, fx ||| x.sigFlag)
    | none, some j =>
      let (y, fy) := b.pairValue h j
      ((if op.negate then y.neg else y).toRes, fy ||| y.sigFlag)
    | none, none => (.ex ⟨false, 0, 0, false⟩, 0)
  let (c, fc) := f.round h.rmode draw r
  (c, fl ||| fc)

/-- The value of a merged pair in an integer format. -/
def mergeInt (op : MergeOp) (a b : Vec) (w : Nat) (p : Merged) : Nat :=
  let x := p.x.map fun i => a.fmt.int (a.pairElem i)
  let y := p.y.map fun j => b.fmt.int (b.pairElem j)
  wrap w (match x, y with
    | some x, some y => op.int x y
    | some x, none => x
    | none, some y => if op.negate then -y else y
    | none, none => 0)

/-- The results of a merge in order, drawing once a result under stochastic rounding (R82, R83). -/
def mergeResults (stochastic : Bool) (f : Hart → Nat → Merged → Nat × Nat) : Hart → List Merged → List (Nat × Nat) × Nat × Hart
  | h, [] => ([], 0, h)
  | h, p :: ps =>
    let (d, h) := if stochastic then h.draw else (0, h)
    let (x, fl) := f h d p
    let (rs, fls, h) := mergeResults stochastic f h ps
    ((p.coord, x) :: rs, fl ||| fls, h)

/-- The mould of SPADD, SPSUB and SPMUL (R293, R294, R296). -/
def merge (vd va vb : VReg) (op : MergeOp) : Act Unit := do
  let d ← sparseDest vd true
  let a ← readVec va
  let b ← readVec vb
  operand (a.sparse && b.sparse)
  let floats := a.isFloat a.slen && b.isFloat b.slen && d.floatDest?.isSome
  operand (floats || (a.isInt && b.isInt && d.isInt))
  let ps := mergePairs a b op.mul (a.slen + b.slen) 0 0
  operand (ps.length ≤ d.pairs)
  let h ← hart
  if h.gl == 0 then pure ()
  else do
    skewSparse (List.range ps.length) d.w
    updCur fun h =>
      let (rs, fl, h') := match d.floatDest? with
        | some f => mergeResults (h.rmode == 5) (fun h draw p => mergeFloat op f h a b draw p) h ps
        | none => mergeResults false (fun _ _ p => (mergeInt op a b d.w p, 0)) h ps
      (h'.writePairs d rs).flag fl

/-- SPADD (R293, R294). -/
def execSpadd (vd va vb : VReg) (s : State) : Host.Outcome State Fault Refusal :=
  run s (merge vd va vb ⟨false, addRes, (· + ·), false⟩)

/-- SPSUB (R293, R294). -/
def execSpsub (vd va vb : VReg) (s : State) : Host.Outcome State Fault Refusal :=
  run s (merge vd va vb ⟨false, fun mode x y => addRes mode x y.neg, (· - ·), true⟩)

/-- SPMUL (R293, R294). -/
def execSpmul (vd va vb : VReg) (s : State) : Host.Outcome State Fault Refusal :=
  run s (merge vd va vb ⟨true, fun _ x y => mulRes x y, (· * ·), false⟩)

/-! ### Packing -/

/-- SPACK (R293, R295). -/
def execSpack (vd va : VReg) (m : MReg) (s : State) : Host.Outcome State Fault Refusal :=
  run s do
    let d ← sparseDest vd true
    let a ← readVec va
    operand (!a.sparse && a.w == d.w)
    let h ← hart
    let ps := ((h.lanesOf m).filter fun e => a.fmt.nonzero (a.elem e)).map fun e => (e, a.elem e)
    operand (ps.length ≤ d.pairs)
    if h.gl == 0 then pure ()
    else do
      skewSparse (h.lanesOf m) a.w
      updCur fun h => h.writePairs d ps

/-- SUNPK (R293, R295). -/
def execSunpk (vd va : VReg) (m : MReg) (s : State) : Host.Outcome State Fault Refusal :=
  run s do
    let d ← sparseDest vd false
    let a ← readVec va
    operand (a.sparse && a.w == d.w)
    let h ← hart
    let es := h.lanesOf m
    skew es d.w
    let value (e : Nat) : Nat :=
      match ((List.range a.slen).reverse).find? fun p => a.coord p == e with
      | some p => a.pairElem p
      | none => 0
    updCur fun h => h.writeElems d (es.map fun e => (e, value e))

/-- SPLEN (R293, R295): it writes a tag only. -/
def execSplen (vd : VReg) (sb : SReg) (s : State) : Host.Outcome State Fault Refusal :=
  run s do
    begin false (.masked .none)
    let d ← readVec vd
    operand (d.sparse && d.scale.isNone)
    let h ← hart
    let n := (h.rs sb).toNat
    operand (n ≤ d.pairs)
    if h.gl == 0 then pure ()
    else do
      skewSparse [] d.w
      updCur fun h => h.putTags d.reg (BitVec.ofNat 64 (putFld d.tag.toNat 63 48 n)) d.group

/-! ### PRUNE -/

/-- ⌊|x| / τ × 2^32⌋ for finite values with τ > 0. -/
def ratio32 (x t : Val) : Nat :=
  match x, t with
  | .fin _ m e, .fin _ n k =>
    let l := min (e + 32) k
    m * 2 ^ (e + 32 - l).toNat / (n * 2 ^ (k - l).toNat)
  | _, _ => 0

/-- One element of PRUNE or PRUNE.u (R297): encoding and flags. -/
def pruneElem (unbiased : Bool) (f : FloatFmt) (t : Val) (draw enc : Nat) : Nat × Nat :=
  let x := f.decode enc
  if x.isNan then
    let (c, g) := f.nanCode
    (c, g ||| x.sigFlag)
  else if x.abs.cmp t != .lt || x.isSpecial then (enc, 0)
  else if draw < ratio32 x.abs t then
    if unbiased then f.round 0 0 (t.withSign x.isNeg).toRes else (enc, 0)
  else (f.pack x.isNeg 0 0, 0)

/-- The mould of PRUNE and PRUNE.u (R297). -/
def prune (unbiased : Bool) (vd va : VReg) (sb : SReg) (m : MReg) : Act Unit := do
  beginV vd
  let d ← readVec vd
  let a ← readVec va
  operand (a.scale.isNone && tagFmt a.tag == tagFmt d.tag)
  match d.floatDest? with
  | none => reservedOperand
  | some f =>
    let h ← hart
    let t := fp32.decode ((h.rs sb).toNat % 2 ^ 32)
    operand (match t with
      | .fin neg m _ => !neg && m != 0
      | _ => false)
    elementwise d m true fun _ draw e => pruneElem unbiased f t draw (a.elem e)

/-- PRUNE (R297). -/
def execPrune (vd va : VReg) (sb : SReg) (m : MReg) (s : State) : Host.Outcome State Fault Refusal :=
  run s (prune false vd va sb m)

/-- PRUNE.u (R297). -/
def execPruneU (vd va : VReg) (sb : SReg) (m : MReg) (s : State) : Host.Outcome State Fault Refusal :=
  run s (prune true vd va sb m)

end Sys2Proof.Machine
end

