-- ==== Sys2Proof/Machine/Burl.lean ====
section
/-! DEFINITION. The Burl (R298 to R310, R318): regions, handles, the table in a region and its spill, and the instructions of major
0x34. -/

namespace Sys2Proof.Machine

/-! ### Claims -/

/-- The configuration of a claim (R307). -/
structure Claim where
  log2 : Nat
  name : Option Nat
  spb : Nat
  scap : Nat
  kfmt : Nat
  vfmt : Nat
  sstr : Nat
deriving DecidableEq, Repr

/-- A key format and a value format of R307. -/
def keyFormat (c : Nat) : Bool := 0x05 ≤ c && c ≤ 0x0C
def valueFormat (c : Nat) : Bool := (0x09 ≤ c && c ≤ 0x0C) || c == 0x0F || c == 0x10

/-- The claim that three words give; none where R307 traps. -/
def claimOf (base cfg cap : Nat) : Option Claim :=
  let scap := cap % 2 ^ 32
  let ok := cap < 2 ^ 32 && fld cfg 46 27 == 0 && fld cfg 23 21 == 0 && fld cfg 15 13 == 0 && fld cfg 7 5 == 0
    && 12 ≤ fld cfg 4 0 && fld cfg 4 0 ≤ 19 && keyFormat (fld cfg 12 8) && valueFormat (fld cfg 20 16)
    && (scap == 0 || (base < 2 ^ 57 && base % 64 == 0))
  if ok then some ⟨fld cfg 4 0, if bitOf cfg 47 then some (fld cfg 63 48) else none,
    if scap == 0 then 0 else base, scap, fld cfg 12 8, fld cfg 20 16, fld cfg 26 24⟩ else none

/-- The configuration that a region was created with. -/
def Region.claim (r : Region) : Claim := ⟨r.log2, r.name, r.spb, r.scap, r.kfmt, r.vfmt, r.sstr⟩

/-- The gang number that a region of a hart carries; a hart of no gang has one of its own. -/
def Hart.gangKey (h : Hart) : Nat := h.gang.getD (2 ^ 32 + h.id)

/-- The lowest free aligned block of a core (R298). -/
def State.freeBlock (s : State) (core log2 : Nat) : Option Nat :=
  let n := 2 ^ log2
  let mine := s.regions.filter fun r => r.core == core
  if 0x80000 < (mine.map fun r => (2 ^ r.log2 : Nat)).sum + n then none
  else (List.range (spadBytes / n)).map (· * n) |>.find? fun off =>
    (mine.all fun r => !overlaps off n r.off (2 ^ r.log2)) &&
    (s.harts.all fun h => coreOf h.id != core || h.wait == .vacant || h.k.toList.all fun k =>
      k.phase == .invalid || !overlaps off n k.window.1 k.window.2)

/-- The handle of a region (R300). -/
def Region.handle (r : Region) : Word :=
  BitVec.ofNat 64 (2 ^ 63 + (match r.name with
    | some n => 2 ^ 62 + n * 2 ^ 32
    | none => 0) + r.off / 4096 * 2 ^ 13 + r.log2 * 2 ^ 8)

/-- The check of the access table of the core's Burl regions, after probing (R332). -/
def burlCheck (p : Perm) (stream elem : Nat) : Act Unit := fun s =>
  let t := Target.burl (coreOf s.cur.id)
  match s.denied t s.cur.id p with
  | none => .ok ((), s)
  | some k => .error (.stay (s.freezeCur t k false false stream elem 0))

/-- HCLAIM (R298, R299, R306, R307). -/
def execHclaim (sd sb : SReg) (h : HReg) (s : State) : Host.Outcome State Fault Refusal :=
  run s do
    begin false (.masked .scalar)
    let x ← hart
    if handleValid x.h[h] then badHandle else pure ()
    operand (sb.val ≤ 29)
    match claimOf (x.rs sb).toNat (x.rs (Fin.ofNat 32 (sb.val + 1))).toNat (x.rs (Fin.ofNat 32 (sb.val + 2))).toNat with
    | none => reservedOperand
    | some c =>
      let core := coreOf x.id
      let s ← get
      let found := if c.name.isNone then none
        else s.regions.find? fun r => r.core == core && r.gang == x.gangKey && r.name == c.name
      operand (match found with
        | some r => r.claim == c
        | none => true)
      waitStream c.sstr true
      burlCheck .rmw c.sstr 0
      match found with
      | some r =>
        modify fun s => { s with regions := s.regions.map fun y =>
          if y.core == r.core && y.off == r.off then { y with refs := y.refs + 1 } else y }
        updCur fun x => { x with h := x.h.set h r.handle }
        writeD sd 2
      | none =>
        match s.freeBlock core c.log2 with
        | none => writeD sd 0
        | some off =>
          let r : Region := ⟨core, x.gangKey, off, c.log2, c.name, c.spb, c.scap, 0, c.kfmt, c.vfmt, c.sstr, 0, [], 1⟩
          modify fun s => { s with regions := s.regions ++ [r] }
          updCur fun x => { x with h := x.h.set h r.handle }
          writeD sd 1

/-! ### The table -/

/-- A spill entry that an instruction will store, with the lowest element for which it does. -/
structure Spill where
  p : Nat
  key : Nat
  value : Nat
  elem : Nat
deriving DecidableEq, Repr

/-- A region while an instruction works on it, with the spill entries that it will store, newest first, and the lowest element of the key
set at work. -/
structure Work where
  r : Region
  spill : List Spill
  elem : Nat
deriving DecidableEq, Repr

/-- Group and first slot of a key (R301). -/
def Region.hash (r : Region) (key : Nat) : Nat × Nat :=
  let n := r.log2 - 7
  let h := key * 0x9C4F2D61E8A3B57D % 2 ^ 64
  (h / 2 ^ (64 - n), h / 2 ^ (61 - n) % 8)

/-- The entry of a bucket. -/
def Region.slot (r : Region) (b : Nat) : Option (Nat × Nat) := Sparse.get none r.slots b

/-- The same, set. -/
def Region.putSlot (r : Region) (b : Nat) (e : Option (Nat × Nat)) : Region := { r with slots := Sparse.set none r.slots b e }

/-- Address of spill entry p (R302). -/
def Region.spillAddr (r : Region) (p : Nat) : Nat := r.spb + 16 * p

/-- Virtual address of a byte of a core's scratchpad in the aperture (R114). -/
def spadAddress (core off : Nat) : Nat := apertureBase + core % 96 * 0x200000 + off

/-- The words of a group's slots read: a memory error when one cannot be rebuilt (R121, R306). -/
def touchGroup (r : Region) (g elem : Nat) : Act Unit := do
  let s ← get
  let off := r.off + 128 * g
  match s.spadTouch s.cur.id r.core (wordsOf off 128) with
  | (true, s) => set s
  | (false, s) =>
    fun _ => .error (.trap { code := 0x08, deta := s.failingWord r.core off 128, cls := 3, stream := r.sstr, elem := elem } s)

/-- Spill entry p: key and value (R302). -/
def spillEntry (w : Work) (p elem : Nat) : Act (Nat × Nat) := do
  match w.spill.find? fun e => e.p == p with
  | some e => pure (e.key, e.value)
  | none =>
    let va := w.r.spillAddr p
    match ← locate .load false { stream := w.r.sstr, elem := elem } va 16 with
    | .error (t, k) => freezeAt t k { stream := w.r.sstr, elem := elem } none va
    | .ok l =>
      let s ← get
      match s.loadAt s.cur.id s.cur.id l 16 with
      | (.wait x, s') => fun _ => .error (.stay (s.waitOn s' x))
      | (.data c x, s) =>
        set s
        if 3 ≤ c then raise { code := 0x08, deta := s.errorAddress l va 16, cls := c, stream := w.r.sstr, elem := elem }
        else pure (x % 2 ^ 64, x / 2 ^ 64)

/-- Where an entry is. -/
inductive Found where
  | bucket (b : Nat)
  | spill (p : Nat)
  | absent
deriving DecidableEq, Repr

/-- The spill searched from entry p on, by the entries that remain. -/
def searchSpill (w : Work) (key elem : Nat) : Nat → Nat → Act Found
  | 0, _ => pure .absent
  | n + 1, p => do
    let e ← spillEntry w p elem
    if e.1 == key then pure (.spill p) else searchSpill w key elem n (p + 1)

/-- locate of R301. -/
def findKey (w : Work) (key elem : Nat) : Act Found := do
  let (g, s0) := w.r.hash key
  touchGroup w.r g elem
  match ((List.range 8).map fun i => 8 * g + (s0 + i) % 8).find? fun b => ((w.r.slot b).map Prod.fst) == some key with
  | some b => pure (.bucket b)
  | none => if w.r.ovf.getLsbD g then searchSpill w key elem w.r.scnt 0 else pure .absent

/-- A spill entry to be stored. -/
def Work.putSpill (w : Work) (p key value : Nat) : Work :=
  { w with spill := ⟨p, key, value, w.elem⟩ :: w.spill.filter fun e => e.p != p }

/-- place of R301; none when it fails. -/
def Work.place (w : Work) (key value : Nat) : Option Work :=
  let (g, s0) := w.r.hash key
  match ((List.range 8).map fun i => 8 * g + (s0 + i) % 8).find? fun b => (w.r.slot b).isNone with
  | some b => some { w with r := w.r.putSlot b (some (key, value)) }
  | none =>
    if w.r.scnt == w.r.scap then none
    else some { w.putSpill w.r.scnt key value with
      r := { w.r with scnt := w.r.scnt + 1, ovf := w.r.ovf ||| (1#4096 <<< g) } }

/-- The value of an entry found. -/
def valueAt (w : Work) (f : Found) (elem : Nat) : Act Nat :=
  match f with
  | .bucket b => pure (((w.r.slot b).map Prod.snd).getD 0)
  | .spill p => do
    let e ← spillEntry w p elem
    pure e.2
  | .absent => pure 0

/-- The value of an entry found, replaced. -/
def Work.setValue (w : Work) (f : Found) (key value : Nat) : Work :=
  match f with
  | .bucket b => { w with r := w.r.putSlot b (some (key, value)) }
  | .spill p => w.putSpill p key value
  | .absent => w

/-- An entry found, removed (R302). -/
def removeAt (w : Work) (f : Found) (elem : Nat) : Act Work :=
  match f with
  | .bucket b => pure { w with r := w.r.putSlot b none }
  | .spill p => do
    let last := w.r.scnt - 1
    if p < last then
      let e ← spillEntry w last elem
      pure { w.putSpill p e.1 e.2 with r := { w.r with scnt := last } }
    else pure { w with r := { w.r with scnt := last } }
  | .absent => pure w

/-! ### Instructions on a region -/

/-- The region of a handle; the bad-handle trap for an invalid one (R306). -/
def regionAt (h : HReg) : Act Region := do
  let s ← get
  match s.regionOf s.cur.id s.cur.h[h] with
  | some r => pure r
  | none => badHandle

/-- No operand may be sparse-tagged (R50, R306). -/
def dense (rs : List VReg) : Act Unit := do
  let h ← hart
  legal (rs.all fun r => !tagSparse h.tag[r])

/-- A key operand or destination, and a value destination (R306, R318). -/
def taggedVec (r : VReg) (fmt : Nat) : Act Vec := do
  let o ← readVec r
  operand (tagFmt o.tag == fmt && o.scale.isNone)
  pure o

/-- A value source: a scaled one must be floating (R219, R306). -/
def valueVec (r : VReg) (fmt : Nat) : Act Vec := do
  let h ← hart
  let o ← readVec r
  operand (tagFmt o.tag == fmt && (o.scale.isNone || o.isFloat h.gl.toNat))
  pure o

/-- The key sets of the active elements (R303): key and its elements, in order of the lowest. -/
def keySets (a : Vec) (es : List Nat) : List (Nat × List Nat) :=
  ((es.map a.elem).eraseDups).map fun k => (k, es.filter fun e => a.elem e == k)

/-- The probe of spill entries 0 to n − 1 (R306). -/
def probeSpill (r : Region) (a : Acc) : Nat → Act Unit
  | 0 => pure ()
  | n + 1 => do
    probeSpill r a n
    let _ ← locate a false { stream := r.sstr } (r.spillAddr n) 16

/-- Spill stores made, oldest first; those that an access table refuses are left out and returned. -/
def storeSpill (r : Region) : List Spill → Act (List (Spill × Target × Nat))
  | [] => pure []
  | e :: es => do
    match ← locate .store false { stream := r.sstr, elem := e.elem } (r.spillAddr e.p) 16 with
    | .error (t, k) => do
      let no ← storeSpill r es
      pure ((e, t, k) :: no)
    | .ok l => do
      modify fun s => (s.storeAt s.cur.id l 16 (e.key + 2 ^ 64 * e.value) r.sstr).2
      storeSpill r es

/-- The refused store of the lowest element. -/
def lowestSpill : List (Spill × Target × Nat) → Option (Spill × Target × Nat)
  | [] => none
  | x :: xs =>
    match lowestSpill xs with
    | none => some x
    | some y => some (if x.1.elem ≤ y.1.elem then x else y)

/-- What an instruction on a region leaves: the region, and its spill stores (R129, R302, R304), a copy over a deleted entry among them
whatever is deleted after it. A refused store freezes the hart (R334, R335). Nothing divides the instruction (R306): a hart whose stores
have passed the 1,024 requests of its core (R22) stalls before its next one. -/
def commitWork (w : Work) : Act Unit := do
  modify fun s => { s with regions := s.regions.map fun r => if r.core == w.r.core && r.off == w.r.off then w.r else r }
  let no ← storeSpill w.r w.spill.reverse
  match lowestSpill no with
  | some (e, t, k) => modify fun s => s.freezeCur t k false true w.r.sstr e.elem (w.r.spillAddr e.p)
  | none => pure ()
  modify fun s => if w.spill.isEmpty || s.maySend s.cur.id then s else { s with cur.wait := .busy .sectors }

/-- One key set after another. -/
def eachSet (f : Work → Nat → List Nat → Act (Work × Bool × Nat)) :
    Work → List (Nat × List Nat) → Act (Work × List Nat × Nat)
  | w, [] => pure (w, [], 0)
  | w, (k, es) :: rest => do
    let (w, ok, fl) ← f { w with elem := es.headD 0 } k es
    let (w, done, fls) ← eachSet f w rest
    pure (w, (if ok then es else []) ++ done, fl ||| fls)

/-- The mould of HINS, HACC and HDEL (R303, R306, R308). `store` says whether spill entries may grow. -/
def updateRegion (md : MReg) (va : VReg) (m : MReg) (r : Region) (grow : Bool)
    (f : Work → Nat → List Nat → Act (Work × Bool × Nat)) : Act Unit := do
  let a ← taggedVec va r.kfmt
  let h ← hart
  let es := h.lanesOf m
  waitStream r.sstr true
  if h.gl == 0 then pure ()
  else if es.isEmpty then writeMask md []
  else do
    let sets := keySets a es
    let n := if grow then min (r.scnt + sets.length) r.scap else r.scnt
    probeSpill r .load n
    probeSpill r .store n
    burlCheck .rmw r.sstr (es.headD 0)
    skew es a.w
    let (w, done, fl) ← eachSet f ⟨r, [], 0⟩ sets
    commitWork w
    updCur fun h => (h.wm md (maskOf done)).flag fl

/-- The encoding that an element of a value operand stores. An unscaled one is stored as it stands, a NaN too and without a flag: R308
says value, and not whether placing it is arithmetic (R71): DESIGN CHOICE (assumption 32). -/
def storedValue (h : Hart) (b : Vec) (e : Nat) : Nat × Nat :=
  match b.scale, b.floatDest? with
  | none, _ => (b.elem e, 0)
  | some _, _ =>
    match b.fmt with
    | .float f =>
      let (v, g) := b.value h e
      let (c, g') := f.round 0 0 v.toRes
      (c, g ||| g')
    | _ => (b.elem e, 0)

/-- HINS (R308). -/
def execHins (md : MReg) (va vb : VReg) (m : MReg) (h : HReg) (s : State) : Host.Outcome State Fault Refusal :=
  run s do
    begin false (.masked .mask)
    dense [va, vb]
    let r ← regionAt h
    let b ← valueVec vb r.vfmt
    let x ← hart
    updateRegion md va m r true fun w k es => do
      let (v, fl) := storedValue x b (es.getLastD 0)
      match ← findKey w k (es.headD 0) with
      | .absent =>
        match w.place k v with
        | some w => pure (w, true, fl)
        | none => pure (w, false, 0)
      | f => pure (w.setValue f k v, true, fl)

/-- One step of the fold of HACC (R308): rounded with RNE, or wrapping. -/
def accStep (h : Hart) (b : Vec) (acc : Nat × Nat) (e : Nat) : Nat × Nat :=
  match b.fmt with
  | .float f =>
    let (v, g) := b.value h e
    let (r, g') := addRes 0 (f.decode acc.1) v
    let (c, g'') := f.round 0 0 r
    (c, acc.2 ||| g ||| g' ||| g'')
  | g => (wrap b.w (g.int acc.1 + g.int (b.elem e)), acc.2)

/-- HACC (R303, R308). -/
def execHacc (md : MReg) (va vb : VReg) (m : MReg) (h : HReg) (s : State) : Host.Outcome State Fault Refusal :=
  run s do
    begin false (.masked .mask)
    dense [va, vb]
    let r ← regionAt h
    let b ← valueVec vb r.vfmt
    let x ← hart
    updateRegion md va m r true fun w k es => do
      match ← findKey w k (es.headD 0) with
      | .absent =>
        let (v, fl) := (es.drop 1).foldl (accStep x b) (storedValue x b (es.headD 0))
        match w.place k v with
        | some w => pure (w, true, fl)
        | none => pure (w, false, 0)
      | f =>
        let old ← valueAt w f (es.headD 0)
        let (v, fl) := es.foldl (accStep x b) (old % 2 ^ b.w, 0)
        pure (w.setValue f k v, true, fl)

/-- HDEL (R302, R308). -/
def execHdel (md : MReg) (va : VReg) (m : MReg) (h : HReg) (s : State) : Host.Outcome State Fault Refusal :=
  run s do
    begin false (.masked .mask)
    dense [va]
    let r ← regionAt h
    updateRegion md va m r false fun w k es => do
      match ← findKey w k (es.headD 0) with
      | .absent => pure (w, false, 0)
      | f =>
        let w ← removeAt w f (es.headD 0)
        pure (w, true, 0)

/-- The lookups of HPROBE in order: element and value for each key found. -/
def probeSets (w : Work) : List (Nat × List Nat) → Act (List (Nat × Nat))
  | [] => pure []
  | (k, es) :: rest => do
    let f ← findKey w k (es.headD 0)
    let v ← valueAt w f (es.headD 0)
    let ys ← probeSets w rest
    pure ((if f == .absent then [] else es.map fun e => (e, v)) ++ ys)

/-- HPROBE (R308): values of the keys found, and their mask. -/
def execHprobe (vd va : VReg) (mb m : MReg) (h : HReg) (s : State) : Host.Outcome State Fault Refusal :=
  run s do
    beginV vd
    dense [vd, va]
    let r ← regionAt h
    let d ← taggedVec vd r.vfmt
    let a ← taggedVec va r.kfmt
    let x ← hart
    let es := x.lanesOf m
    waitStream r.sstr true
    if x.gl == 0 then pure ()
    else if es.isEmpty then writeMask mb []
    else do
      probeSpill r .load r.scnt
      burlCheck .rd r.sstr (es.headD 0)
      skew es d.w
      let ys ← probeSets ⟨r, [], 0⟩ (keySets a es)
      updCur fun h => (h.writeElems d (ys.map fun y => (y.1, y.2 % 2 ^ d.w))).wm mb (maskOf (ys.map Prod.fst))

/-- The first occupied positions at or after a cursor, at most n (R309): buckets, then spill entries. -/
def Region.occupied (r : Region) (c n : Nat) : List Nat :=
  let buckets := 2 ^ r.log2 / 16
  (((List.range buckets).filter fun b => c ≤ b && (r.slot b).isSome)
    ++ (rangeFrom (buckets + (c - buckets)) (r.scnt - (c - buckets)))).take n

/-- The entries at positions, keys and values. -/
def drainEntries (r : Region) : List Nat → Act (List (Nat × Nat))
  | [] => pure []
  | p :: ps => do
    let buckets := 2 ^ r.log2 / 16
    let e ← if p < buckets then (do
        touchGroup r (p / 8) 0
        pure ((r.slot p).getD (0, 0))) else spillEntry ⟨r, [], 0⟩ (p - buckets) 0
    let rest ← drainEntries r ps
    pure (e :: rest)

/-- HDRAIN (R309, R318). Where the copy of a prefix meets va, the values are written over it: DESIGN CHOICE (assumption 31). -/
def execHdrain (vd va : VReg) (sb : SReg) (h : HReg) (s : State) : Host.Outcome State Fault Refusal :=
  run s do
    beginV vd
    dense [vd, va]
    let r ← regionAt h
    let d ← taggedVec vd r.kfmt
    let v ← taggedVec va r.vfmt
    waitStream r.sstr true
    let x ← hart
    if x.gl == 0 then pure ()
    else do
      probeSpill r .load r.scnt
      burlCheck .rd r.sstr 0
      let ps := r.occupied (x.rs sb).toNat x.gl.toNat
      let es ← drainEntries r ps
      skew (List.range es.length) d.w
      let ks := es.zipIdx.map fun p => (p.2, p.1.1)
      let vs := es.zipIdx.map fun p => (p.2, p.1.2)
      updCur fun h =>
        let h := h.writeElems d ks
        let h := h.putGroup v.reg v.group (putElems v.w (h.groupBits v.reg v.group) vs)
        let h := { h with gl := BitVec.ofNat 15 es.length }
        match ps.getLast? with
        | some p => h.ws sb (BitVec.ofNat 64 (p + 1))
        | none => h

/-- HREL (R299, R310). -/
def execHrel (h : HReg) (s : State) : Host.Outcome State Fault Refusal :=
  run s do
    begin false (.masked .none)
    let r ← regionAt h
    waitStream r.sstr true
    modify fun s => { s.detach s.cur.id s.cur.h[h] with cur.h := s.cur.h.set h 0 }

/-- Entries that a region holds: filled slots and spill entries. -/
def Region.count (r : Region) : Nat := r.slots.length + r.scnt

/-- HSTAT (R310). -/
def execHstat (sd : SReg) (h : HReg) (s : State) : Host.Outcome State Fault Refusal :=
  run s do
    begin false (.masked .scalar)
    let r ← regionAt h
    waitStream r.sstr true
    burlCheck .rd r.sstr 0
    writeD sd (BitVec.ofNat 64 (r.scnt * 2 ^ 32 + r.count))

end Sys2Proof.Machine
end

