-- ==== Sys2Proof/Machine/Transform.lean ====
section
/-! DEFINITION. The transform unit, major 0x2C: packed blocks (R273 to R276) and the error-feedback store (R277, R89). -/

namespace Sys2Proof.Machine

/-! ### Packed blocks -/

/-- Elements a block codes at width w (R273). -/
def blockElems (w : Nat) : Nat := 128 / w

/-- The least width that holds every element of a block (R275). -/
def blockWidth (signed : Bool) (w : Nat) (xs : List Nat) : Nat :=
  xs.foldl (fun acc x =>
    let v := sext w x
    max acc (if signed then (if v < 0 then bitLen (-v - 1).toNat + 1 else bitLen v.toNat + 1) else max 1 (bitLen x))) 1

/-- Values of width W packed from bit 0 upward (R273). -/
def packBits (width : Nat) (xs : List Nat) : Nat :=
  xs.foldr (fun x acc => x % 2 ^ width + 2 ^ width * acc) 0

/-- The n low bytes of a number, lowest first. -/
def bytesOf (n x : Nat) : List Nat := (List.range n).map fun i => x / 256 ^ i % 256

/-- The bytes of the block that codes some encodings (R273, R275). -/
def codeBlock (signed : Bool) (w : Nat) (xs : List Nat) : List Nat :=
  if xs.all (· == 0) then [0x80]
  else
    let width := blockWidth signed w xs
    (if signed then 0x40 + (width - 1) else width - 1) :: bytesOf (ceilDiv (xs.length * width) 8) (packBits width xs)

/-- The elements of block b below GL. -/
def blockRange (n gl b : Nat) : List Nat := rangeFrom (b * n) (min ((b + 1) * n) gl - b * n)

/-- The data register of XLDE and XSTC (R250, R274), and the check of EIDX (R276). -/
def packedVec (vd : VReg) : Act Vec := do
  let d ← readVec vd
  operand (d.isInt && 8 ≤ d.w && !d.sparse)
  let h ← hart
  operand (h.erix.toNat % blockElems d.w == 0)
  pure d

/-- The blocks of a store in order, each with its number and the offset of its first byte. -/
def layBlocks (bs : List (Nat × List Nat)) : List (Nat × Nat × List Nat) :=
  (bs.foldl (fun (acc : List (Nat × Nat × List Nat) × Nat) b =>
    (acc.1 ++ [(b.1, acc.2, b.2)], acc.2 + b.2.length)) ([], 0)).1

/-- XSTC (R274 to R276): inactive elements are coded as 0; blocks below EIDX are not stored again. -/
def execXstc (vd : VReg) (base : AReg) (sx : SReg) (_ca : Bool) (st : Stream) (m : MReg) (s : State) :
    Host.Outcome State Fault Refusal :=
  run s do
    beginStore
    let d ← packedVec vd
    let h ← hart
    let gl := h.gl.toNat
    let n := blockElems d.w
    if gl == 0 then clearErix
    else if (h.active m 0 gl).isEmpty then do
      clearErix
      updCur fun h => h.ws sx 0
    else
      let blocks := (List.range (ceilDiv gl n)).map fun b =>
        (b, codeBlock d.fmt.isSigned d.w ((blockRange n gl b).map fun e => if h.maskBit m e then d.elem e else 0))
      let total := (blocks.map fun b => b.2.length).sum
      let mine := (layBlocks blocks).filter fun b => h.erix.toNat ≤ b.1 * n
      let pieces (es : List Nat) : List Piece := (mine.filter fun b => es.contains (b.1 * n)).flatMap fun b =>
        (b.2.2.zipIdx).map fun x => { elem := b.1 * n, va := ((h.ra base).toNat + b.2.1 + x.2) % 2 ^ 64, n := 1, x := x.1 }
      storeElems d.w (mine.map fun b => b.1 * n) st.val pieces
      updCur fun h => h.ws sx (BitVec.ofNat 64 total)

/-- One byte of a packed stream for the block that begins at an element; a failure stops the instruction there (R275, R128). -/
def streamByte (stream elem va : Nat) (cache : SectorCache) : Act (Nat × SectorCache) := do
  match ← locate .load false { stream := stream, elem := elem } va 1 with
  | .error (t, k) => freezeAt t k { stream := stream, elem := elem } (some elem) va
  | .ok l =>
    let s ← get
    match s.readPiece cache ⟨{ elem := elem, va := va, n := 1 }, l⟩ .read with
    | (.wait w, _, s') => fun _ => .error (.stay (s.waitOn s' w))
    | (.data c x, cache, s) =>
      set s
      if 3 ≤ c then stopAt elem { code := 0x08, deta := s.errorAddress l va 1, cls := c, stream := stream, elem := elem }
      else pure (x, cache)

/-- n bytes of a packed stream as a number. -/
def streamBytes (stream elem : Nat) : Nat → Nat → SectorCache → Act (Nat × SectorCache)
  | 0, _, cache => pure (0, cache)
  | n + 1, va, cache => do
    let (b, cache) ← streamByte stream elem (va % 2 ^ 64) cache
    let (x, cache) ← streamBytes stream elem n (va + 1) cache
    pure (b + 256 * x, cache)

/-- Element i of a block's payload under the header's mode, taken modulo 2^w (R275). -/
def unpackElem (mode width w payload i : Nat) : Nat :=
  let x := payload / 2 ^ (i * width) % 2 ^ width
  if mode == 2 then 0 else if mode == 1 then wrap w (sext width x) else x % 2 ^ w

/-- The comparison of one block under the Skew pass: mismatches of later blocks are kept for them (R375, R400). -/
def blockStop (first w : Nat) : Act (Option Stop) := do
  let s ← get
  if !s.cur.skew then pure none
  else
    let (b, s) := s.skewVote [first] (fun e => e * w / 128)
    set (s.dropUpsets (some (first * w / 128)))
    pure (b.map fun e => ⟨e, true⟩)

/-- An asynchronous stop before a block (R126, R276). -/
def blockBoundary (first : Nat) : Act Unit := do
  let s ← get
  if (s.asyncStop [first]).isSome then do
    set s.dropStop
    endStop (some ⟨first, false⟩) (pure ())
  else pure ()

/-- The blocks of XLDE that remain, from block b at a byte offset: blocks below EIDX are stepped over, the others commit one by one
with ERIX at the next (R275, R276). A failure at the header of a block below EIDX stops the instruction at EIDX. -/
def decodeBlocks (d : Vec) (m : MReg) (stream gl start : Nat) : Nat → Nat → Nat → Vec → SectorCache → Act Nat
  | 0, _, off, _, _ => pure off
  | k + 1, b, off, now, cache => do
    let n := blockElems d.w
    let first := b * n
    let h ← hart
    let skip := first < h.erix.toNat
    if !skip then do
      blockBoundary first
      updCur fun h => { h with erix := BitVec.ofNat 14 first }
    let stopElem := max first h.erix.toNat
    let (hd, cache) ← streamByte stream stopElem ((start + off) % 2 ^ 64) cache
    let mode := hd / 64
    let width := hd % 64 + 1
    operand (mode != 3 && width ≤ d.w)
    let es := blockRange n gl b
    let bytes := if mode == 2 then 0 else ceilDiv (es.length * width) 8
    if skip then decodeBlocks d m stream gl start k (b + 1) (off + 1 + bytes) now cache
    else do
      let (payload, cache) ← streamBytes stream first bytes (start + off + 1) cache
      match ← blockStop first d.w with
      | some stop => do
        endStop (some stop) (pure ())
        pure 0
      | none =>
        let vals := (es.filter fun e => h.maskBit m e).map fun e => (e, unpackElem mode width d.w payload (e - first))
        updCur fun h => h.writeElems now vals
        decodeBlocks d m stream gl start k (b + 1) (off + 1 + bytes) { now with bits := putElems d.w now.bits vals } cache

/-- XLDE (R274 to R276). -/
def execXlde (vd : VReg) (base : AReg) (sx : SReg) (st : Stream) (m : MReg) (s : State) : Host.Outcome State Fault Refusal :=
  run s do
    beginV vd
    let d ← packedVec vd
    let h ← hart
    let gl := h.gl.toNat
    if gl == 0 then clearErix
    else if (h.active m 0 gl).isEmpty then do
      clearErix
      updCur fun h => h.ws sx 0
    else do
      waitStream st.val false
      let total ← decodeBlocks d m st.val gl (h.ra base).toNat (ceilDiv gl (blockElems d.w)) 0 0 d []
      modify fun s => if s.cur.skew then s.dropUpsets none else s
      clearErix
      updCur fun h => h.ws sx (BitVec.ofNat 64 total)

/-! ### The error-feedback store -/

/-- A format that XEFST may write (R277). -/
def feedbackFmt (f : Vector (BitVec 32) 8) (code : Nat) : Option FloatFmt :=
  if (0x0D ≤ code && code ≤ 0x0F) || 0x18 ≤ code then
    match fmtOf f code with
    | some (.float g) => some g
    | _ => none
  else none

/-- The residue of x when the primary result is q: encoding and flags (R89). For −∞ and an unsigned B the residue is the −largest of R89
clamped to +0 as R79 clamps (SAT, NX), and OF is set because R89 sets it for every infinite x that A cannot hold: DEDUCED (assumption 34). -/
def residue (a b : FloatFmt) (x : Val) (q : Nat) : Nat × Nat :=
  match x with
  | .nan _ => b.nanCode
  | .inf neg =>
    if a.spec == 0 then
      let (r, f) := addRes 0 x (a.decode q).neg
      let (c, g) := b.round 0 0 r
      (c, f ||| g)
    else if neg && !b.signed then (0, flSAT + flNX + flOF)
    else (b.largestCode neg, flOF)
  | .fin .. =>
    let (r, f) := addRes 0 x (a.decode q).neg
    let (c, g) := b.round 0 0 r
    (c, f ||| g)

/-- The pieces of one buffer (R55, R247). -/
def feedbackPieces (w start : Nat) (val : Nat → Nat) (es : List Nat) : List Piece :=
  if w < 8 then bytePieces w start val es else elemPieces w (unitAddr start w) val es

/-- The pieces of both buffers in ascending element order. -/
def mergePieces (es : List Nat) (ps qs : List Piece) : List Piece :=
  es.flatMap fun e => (ps.filter fun p => p.elem == e) ++ qs.filter fun p => p.elem == e

/-- Primary results of elements in order, with flags and draws (R83, R89). -/
def primary (d : Vec) (a : FloatFmt) (h : Hart) (es : List Nat) : List (Nat × Nat) × Nat × Hart :=
  mapElems h (h.rmode == 5) (fun h draw e =>
    let (x, fx) := d.value h e
    let (c, g) := a.round h.rmode draw x.toRes
    (c, fx ||| x.sigFlag ||| g)) es

/-- Residues of primary results (R89). -/
def residues (d : Vec) (a b : FloatFmt) (h : Hart) (qs : List (Nat × Nat)) : List (Nat × Nat × Nat) :=
  qs.map fun p => (p.1, residue a b (d.value h p.1).1 p.2)

/-- The flags and draws of the elements that an XEFST has done (R83, R277). -/
def feedbackDone (d : Vec) (a b : FloatFmt) (es _lost _posted : List Nat) : Act Unit :=
  updCur fun h =>
    let (qs, fq, h') := primary d a h es
    h'.flag ((residues d a b h qs).foldl (fun f p => f ||| p.2.2) fq)

/-- XEFST (R277, R89): flags, draws and stores are those of the elements below a stop (R126). -/
def execXefst (vd : VReg) (base : AReg) (sx : SReg) (_ca : Bool) (st : Stream) (m : MReg) (s : State) :
    Host.Outcome State Fault Refusal :=
  run s do
    beginStore
    operand (sx.val ≤ 30)
    let h ← hart
    let d ← readVec vd
    operand (d.isFloat h.gl.toNat && !d.sparse)
    let fw := (h.rs (Fin.ofNat 32 (sx.val + 1))).toNat
    operand (fw - fld fw 4 0 - fld fw 12 8 * 256 == 0)
    match feedbackFmt h.f (fld fw 4 0), feedbackFmt h.f (fld fw 12 8) with
    | some a, some b => do
      let es := h.active m h.erix.toNat h.gl.toNat
      let (qs, _, _) := primary d a h es
      let rs := residues d a b h qs
      let q (e : Nat) : Nat := ((qs.find? fun p => p.1 == e).map Prod.snd).getD 0
      let r (e : Nat) : Nat := ((rs.find? fun p => p.1 == e).map fun p => p.2.1).getD 0
      let pieces (es : List Nat) : List Piece :=
        mergePieces es (feedbackPieces a.width (h.ra base).toNat q es) (feedbackPieces b.width (h.rs sx).toNat r es)
      storeElems d.w es st.val pieces id (feedbackDone d a b)
    | _, _ => reservedOperand

end Sys2Proof.Machine
end

