-- ==== Sys2Proof/Machine/Mandrel.lean ====
section
/-! DEFINITION. Mandrel commands: NMC (R269 to R271) and the performance of a posted command with its status word (R136, R270, R272,
R366, R408). -/

namespace Sys2Proof.Machine

/-! ### Accesses of an engine for a hart -/

/-- The requester that an engine of a hart is: it carries the hart's MID (R330). -/
def engineReq (id : HartId) (level : Level) (part : Nat) : Req := ⟨id, level, part, if isMgmt id then none else some (clusterOf id)⟩

/-- Whether a hart is the one that posted: the same context, or the launched hart of that index that its gang has taken elsewhere. -/
def Poster.names (w : Poster) (h : Hart) : Bool :=
  h.gang == w.gang && h.index == w.index && h.parent.isSome == w.forked && (h.id == w.id || (h.gang.isSome && !w.forked))

/-- A saved hart frozen, when it is the one that posted. -/
def Poster.freeze (w : Poster) (t : Target) (kind stream elem va : Nat) (h : Hart) : Hart :=
  if w.names h && !h.frozen then h.freeze t.tid t.tgt kind true true stream elem va else h

/-- The hart that posted frozen by a refused transfer, wherever its gang is; nobody where the gang has ended (R334). -/
def State.freezePoster (s : State) (w : Poster) (t : Target) (kind stream elem va : Nat) : State :=
  let here := s.harts.filter w.names
  match here.find? (fun h => h.id == w.id) <|> here.head? with
  | some h =>
    let (s, h) := s.freezeEngine h t kind stream elem va
    s.updHart h.id fun _ => h
  | none =>
    match s.saved.find? fun x => x.harts.any fun h => w.names h && !h.frozen with
    | some x =>
      let s := { s with saved := s.saved.map fun (x : Saved) => { x with harts := x.harts.map (w.freeze t kind stream elem va) } }
      s.signalFreeze w.id x.gang.part.val
    | none => s

/-- How an engine's probe ends. -/
inductive Reach where
  | found (l : Loc)
  /-- The probe fails, or a table refuses the access, which freezes the hart (R334, R366). -/
  | gone
  /-- The page is under migration, or waits for the host (R369, R416). -/
  | stalled
deriving DecidableEq, Repr

/-- The probe of an engine's access for an element, whose page it may have walked already (R366). -/
def State.reach (s : State) (r : Req) (w : Poster) (a : Acc) (seen : Bool) (stream elem va n : Nat) : Reach × State :=
  match s.probeAgain r a seen va n with
  | (.ok l, s) => (.found l, s)
  | (.error (.stall _), s) => (.stalled, s)
  | (.error (.refused t kind), s) => (.gone, s.freezePoster w t kind stream elem va)
  | (.error _, s) => (.gone, s.forgetRefused r.part)

/-- What an attempt of an engine that has to wait leaves: what it has asked of lessors and of the host. Nothing else of it is done. -/
def State.waited (s t : State) : State :=
  { s with
    link := t.link, peerData := t.peerData
    parts := Vector.ofFn fun p => { s.parts[p] with atsAsked := t.parts[p].atsAsked, refused := t.parts[p].refused } }

/-- The bytes at a location as the gathered writes of one command leave them, where they write them. -/
def overlay (ws : List SectorWrite) (l : Loc) (n x : Nat) : Nat :=
  match ws.find? fun w => w.base == l.sector.key && bitOf w.enable (l.key % 64) with
  | some w => w.data / 2 ^ (8 * (l.key % 64)) % 2 ^ (8 * n)
  | none => x

/-- The written bytes of a sector in what a command has read of it. -/
def cacheWrite (cache : SectorCache) (w : SectorWrite) : SectorCache :=
  let m := byteMask 64 w.enable
  cache.map fun e => if e.base == w.base then { e with data := (e.data &&& (2 ^ 512 - 1 - m)) ||| (w.data &&& m) } else e

/-- One more error class met at a sector (R272). -/
def Met.note (m : Met) (key cls : Nat) : Met :=
  ⟨max m.worst cls, if 2 ≤ cls && !m.bad.contains (key / 64) then key / 64 :: m.bad else m.bad⟩

/-- Stores of an engine that lessors have yet to answer, each with its elements. -/
abbrev Out := List (Sent × List Nat)

/-- The answers that have come to such stores taken: the stores still out, and the elements of those refused (R272, R372). -/
def State.takeAnswers (s : State) (out : Out) : Out × List Nat × State :=
  out.foldl (fun acc w =>
    let (rest, refused, s) := acc
    match s.answer? w.1 with
    | none => (rest ++ [w], refused, s)
    | some a => (rest, if a == .refused then refused ++ w.2 else refused, { s with peerData := s.peerData.erase (w.1, a) })) ([], [], s)

/-- What an engine's gathered sectors come to when they are stored: the elements lost at their controller, the error classes met, and the
stores that lessors have yet to answer (R129, R272). None when the core has as many requests out as it may (R22). -/
structure Flushed where
  lost : List Nat := []
  met : Met := {}
  out : Out := []
deriving DecidableEq, Repr

/-- The gathered sectors stored. -/
def State.flush (s : State) (u : Writer) (m : Flushed) : List SectorWrite → Option Flushed × State
  | [] => (some m, s)
  | w :: ws =>
    match w.loc with
    | .lease pa _ =>
      let r := s.toLessor u.id u.stream pa 64 (.write (BitVec.ofNat 512 w.data) (BitVec.ofNat 64 w.enable))
      if s.maySend u.id then (s.postLessor r).flush u { m with out := m.out ++ [(r, w.elems)] } ws else (none, s)
    | l =>
      let cls := match l with
        | .dram unit pa layout _ => (s.decodeSector unit pa layout).cls
        | _ => 0
      let (ok, s) := s.storeGathered u w
      s.flush u (if ok then m else { m with lost := m.lost ++ w.elems, met := m.met.note w.base cls }) ws

/-- The status word (R272): one untorn store. False when its page is under migration, or its lessor has yet to answer. -/
def State.storeStatus (s : State) (r : Req) (w : Poster) (stream addr x : Nat) : Bool × State :=
  if addr == 0 then (true, s)
  else match s.reach r w .store false stream 0 addr 8 with
  | (.found (.lease pa _), s) =>
    let o := s.toLessor (engineId r.mid) stream pa 8 (writeOp pa 8 x)
    match s.askPeer o with
    | (.error _, s) => (false, s)
    | (.ok _, s) => (true, { s.breakLine (pa / 64) with peerData := s.peerData.filter fun e => e.1 != o })
  | (.found l, s) => (true, (s.storeAt r.mid l 8 x stream (engineId r.mid)).2)
  | (.gone, s) => (true, s)
  | (.stalled, s) => (false, s)

/-- The fields of a status word (R272). -/
def statusWord (first : Option Nat) (m : Met) (flags code : Nat) : Nat :=
  (first.getD 0xFFFFFFFF) * 2 ^ 32 + min m.bad.length 255 * 2 ^ 24 + m.worst * 2 ^ 16 + flags % 32 * 2 ^ 8 + code

/-- The lowest of the elements not performed. -/
def lowest (first : Option Nat) (es : List Nat) : Option Nat :=
  es.foldl (fun m e => some (match m with
    | some x => min x e
    | none => e)) first

/-- Whether an answer to a request of an engine is kept until the work that stored takes it. -/
def keptAnswer : PeerOp → Bool
  | .write _ _ | .merge _ _ => true
  | _ => false

/-- The answers of lessors to an engine's reads and conditional stores dropped. -/
def State.dropEngineData (s : State) (id : HartId) : State :=
  { s with peerData := s.peerData.filter fun e => e.1.id != engineId id || keptAnswer e.1.op }

/-! ### The command -/

/-- Whether FMT is one that the command allows (R270, R271). -/
def nmcFmtOk (opc code : Nat) (f : Fmt) : Bool :=
  let narrow := 0x18 ≤ code
  match opc with
  | 1 => code == 0x0D || code == 0x0E || code == 0x0F
  | 2 => code == 0x0D || code == 0x0E || code == 0x0F
  | 3 => (f.isInt && 8 ≤ f.width) || (f.isFloat && f != .e8 && (!narrow || f.width == 8))
  | 4 => (f.isInt && 8 ≤ f.width) || (f.isFloat && (!narrow || f.width == 8))
  | 5 => 0x09 ≤ code && code ≤ 0x0C
  | _ => (f.isInt && 8 ≤ f.width) || (f.isFloat && (!narrow || f.width == 8))

/-- Whether a command reads y (R270). -/
def nmcReadsY (opc : Nat) : Bool := opc == 1 || opc == 2 || opc == 4 || opc == 5

/-- Whether a command reads x (R270). -/
def nmcReadsX (opc : Nat) : Bool := opc != 3 && opc != 4

/-- The new value of x[e] and its flags (R270). The inner sum of STEP that is zero takes its sign under RNE, whatever RM: R78 gives the
sign of a result and names no mode for a sum that is not one: DESIGN CHOICE (assumption 36). -/
def nmcValue (c : NmcCommand) (f : Fmt) (x y : Nat) : Nat × Nat :=
  let alpha := fp32.decode c.alpha.toNat
  let beta := fp32.decode c.beta.toNat
  match c.opc, f with
  | 1, .float g =>
    let (p, fp) := mulVal alpha (g.decode x)
    let (q, fq) := mulVal beta (g.decode y)
    let (r, fr) := addRes c.rm p q
    let (k, fk) := g.round c.rm 0 r
    (k, fp ||| fq ||| fr ||| fk)
  | 2, .float g =>
    let (p, fp) := mulVal beta (g.decode x)
    let (q, fq) := addRes 0 (g.decode y) p
    let (t, ft) := mulVal alpha q.val
    let (r, fr) := addRes c.rm (g.decode x) t.neg
    let (k, fk) := g.round c.rm 0 r
    (k, fp ||| fq ||| ft ||| fr ||| fk)
  | 3, .float g =>
    let (k, fk) := g.round c.rm 0 alpha.toRes
    (k, alpha.sigFlag ||| fk)
  | 3, .uint w => roundToInt false w c.rm 0 alpha.toRes
  | 3, .sint w => roundToInt true w c.rm 0 alpha.toRes
  | 4, _ => (y, 0)
  | 5, f => ((x + y) % 2 ^ f.width, 0)
  | _, _ => (x, 0)

/-- A command that is being performed: how far it has come, the sectors read, the pages walked, and the bytes to be written. -/
structure NmcRun where
  cmd : NmcCommand
  cache : SectorCache := []
  pages : List Nat := []
  writes : List SectorWrite := []
deriving DecidableEq, Repr

/-- The poster of a command, its engine as a requester, and as the one who stores. -/
def NmcCommand.who (c : NmcCommand) : Poster := ⟨c.hart, c.gang, c.index, c.forked⟩
def NmcCommand.req (c : NmcCommand) : Req := engineReq c.hart c.atLevel c.part.val
def NmcCommand.writer (c : NmcCommand) : Writer := { mid := c.hart, id := engineId c.hart, stream := c.stream.val }

/-- Elements that are not performed. -/
def NmcRun.miss (r : NmcRun) (es : List Nat) : NmcRun := { r with cmd.first := lowest r.cmd.first es }

/-- An error class met. -/
def NmcRun.note (r : NmcRun) (l : Loc) (cls : Nat) : NmcRun := { r with cmd.met := r.cmd.met.note l.key cls }

/-- The probe of an access for element e. -/
def State.nmcReach (s : State) (r : NmcRun) (a : Acc) (e va n : Nat) : Reach × NmcRun × State :=
  let (x, s) := s.reach r.cmd.req r.cmd.who a (r.pages.contains (va / 4096)) r.cmd.stream.val e va n
  (x, { r with pages := if r.pages.contains (va / 4096) then r.pages else va / 4096 :: r.pages }, s)

/-- An element read for a command: its class and value. -/
def State.nmcRead (s : State) (r : NmcRun) (op : PeerOp) (va : Nat) (l : Loc) (n : Nat) : Option (Nat × Nat) × NmcRun × State :=
  match s.readCached (engineId r.cmd.hart) r.cmd.hart r.cache va l n op with
  | (.wait _, cache, s) => (none, { r with cache := cache }, s)
  | (.data c x, cache, s) => (some (c, overlay r.writes l n x), { r with cache := cache }.note l c, s)

/-- The class and value of y[e], (0, 0) where the command reads none: none of it when it cannot be reached; nothing when it has to
wait. -/
def State.nmcY (s : State) (r : NmcRun) (n e : Nat) : Option (Option (Nat × Nat)) × NmcRun × State :=
  let va := (r.cmd.yaddr + e * n) % 2 ^ 64
  if !nmcReadsY r.cmd.opc then (some (some (0, 0)), r, s)
  else match s.nmcReach r .operand e va n with
    | (.stalled, r, s) => (none, r, s)
    | (.gone, r, s) => (some none, r, s)
    | (.found l, r, s) =>
      match s.nmcRead r .read va l n with
      | (none, r, s) => (none, r, s)
      | (some v, r, s) => (some (some v), r, s)

/-- The class and value of x[e] at its location, (0, 0) where the command reads none; nothing when it has to wait. -/
def State.nmcX (s : State) (r : NmcRun) (va : Nat) (l : Loc) (n : Nat) : Option (Nat × Nat) × NmcRun × State :=
  if nmcReadsX r.cmd.opc then s.nmcRead r .linked va l n else (some (0, 0), r, s)

/-- The new value of x[e] and the place that it goes to: none of it where the element is not performed (R272); nothing when it has to
wait. -/
def State.nmcNew (s : State) (f : Fmt) (r : NmcRun) (e : Nat) : Option (Option Placed) × NmcRun × State :=
  let n := f.width / 8
  let va := (r.cmd.base + e * n) % 2 ^ 64
  match s.nmcReach r .rmw e va n with
  | (.stalled, r, s) => (none, r, s)
  | (.gone, r, s) => (some none, r.miss [e], s)
  | (.found l, r, s) =>
    match s.nmcY r n e with
    | (none, r, s) => (none, r, s)
    | (some none, r, s) => (some none, r.miss [e], s)
    | (some (some (cy, y)), r, s) =>
      match s.nmcX r va l n with
      | (none, r, s) => (none, r, s)
      | (some (cx, x), r, s) =>
        if 3 ≤ cx || 3 ≤ cy then (some none, r.miss [e], s)
        else
          let (k, fl) := nmcValue r.cmd f x y
          (some (some ⟨{ elem := e, va := va, n := n, x := k }, l⟩), { r with cmd.flags := r.cmd.flags ||| fl }, s)

/-- A new value of x[e] on its way to memory: gathered by sector, or put in its scratchpad word. At a lessor that the command has read
x[e] from, it goes by the conditional store of its link, so that the update is indivisible (R136), and breaks the links of its line here
(R148). False when it has to wait; a broken link begins the element again. -/
def State.nmcPut (s : State) (r : NmcRun) (p : Placed) : Bool × NmcRun × State :=
  let c := r.cmd
  match p.loc, nmcReadsX c.opc with
  | .lease _ _, true =>
    match s.leaseConditional (engineId c.hart) c.stream.val [p] with
    | (.error _, s) => (false, r, s)
    | (.ok true, s) => (true, r, s.breakLine p.loc.line)
    | (.ok false, s) => (false, r, s.dropEngineData c.hart)
  | .spad core o, true => (true, r, s.spadPut core o p.piece.n p.piece.x)
  | _, _ =>
    match s.putElem c.writer r.writes [p] with
    | (some _, ws, s) => (true, ({ r with writes := ws }.note p.loc 3).miss [p.piece.elem], s)
    | (none, ws, s) => (true, { r with writes := ws }, s)

/-- Elements of a command other than SCRUB, in ascending order. False when one has to wait. -/
def State.nmcElems (s : State) (f : Fmt) (r : NmcRun) : List Nat → Bool × NmcRun × State
  | [] => (true, r, s)
  | e :: es =>
    match s.nmcNew f r e with
    | (none, r, s) => (false, r, s)
    | (some none, r, s) => s.nmcElems f r es
    | (some (some p), r, s) =>
      match s.nmcPut r p with
      | (false, r, s) => (false, r, s)
      | (true, r, s) => s.nmcElems f r es

/-- The sectors of main memory that a command has read and updates: each is written back with the data read (R393). -/
def State.nmcUpdate (s : State) (r : NmcRun) : NmcRun × State :=
  r.writes.foldl (fun acc w =>
    let (r, s) := acc
    match r.cache.find? fun e => e.page == w.page && e.base == w.base with
    | some e => ({ r with cache := cacheWrite r.cache w }, s.storeRead r.cmd.hart w.base e.data w.data w.enable)
    | none => (r, s)) ({ r with writes := [] }, s)

/-- The gathered writes of some elements stored (R129, R272). False when the core has as many requests out as it may. -/
def State.nmcFlush (s : State) (r : NmcRun) : Bool × NmcRun × State :=
  if nmcReadsX r.cmd.opc then
    let (r, s) := s.nmcUpdate r
    (true, r, s)
  else
    match s.flush r.cmd.writer { met := r.cmd.met, out := r.cmd.out } r.writes with
    | (none, s) => (false, r, s)
    | (some m, s) =>
      let cache := (r.writes.filter fun w => !w.elems.any m.lost.contains).foldl cacheWrite r.cache
      (true, { r with cmd.met := m.met, cmd.out := m.out, cache := cache, writes := [] }.miss m.lost, s)

/-- The elements of a command that are performed together: each for itself where its old value counts, else those of one sector, so that
a sector that they fill is stored whole (R129, R136). -/
def NmcCommand.groups (c : NmcCommand) (n : Nat) : List (List Nat) :=
  let es := c.elems.drop c.pos
  if nmcReadsX c.opc then es.map fun e => [e] else byElem (fun e => sectorOf (c.base + e * n)) es

/-- The groups of a command that remain, up to one that has to wait, of which nothing is done. -/
def State.nmcGroups (s : State) (f : Fmt) (r : NmcRun) : List (List Nat) → Bool × NmcRun × State
  | [] => (true, r, s)
  | es :: rest =>
    match s.nmcElems f r es with
    | (false, _, t) => (false, r, s.waited t)
    | (true, r', t) =>
      match t.nmcFlush r' with
      | (false, _, _) => (false, r, s.waited t)
      | (true, r', t) => (t.dropEngineData r.cmd.hart).nmcGroups f { r' with cmd.pos := r'.cmd.pos + es.length } rest

/-! ### SCRUB -/

/-- The record of a class 2 or 3 sector that SCRUB reads, and the count of its class (R410). -/
def State.noteScrub (s : State) (mid src unit pa layout cls : Nat) : State :=
  let p := s.partOfUnit unit
  match cls with
  | 1 => s.count p 63 48
  | 2 => (s.count p 47 32).report p (memRecord mid src unit (s.tagAt pa layout) 2 pa)
  | 3 => ((s.count p 31 24).report p (memRecord mid src unit (s.tagAt pa layout) 3 pa)).enterPoison mid unit pa 3
      (s.tagAt pa layout)
  | _ => s

/-- A read of a sector by a scrubber, which asks as one master and is recorded as another, and its rewrite with the corrected data when it is of class 1, by which its damage goes (R272, R407,
R408). -/
def State.scrubSector (s : State) (asker mid src unit pa layout : Nat) : Nat × State :=
  let d := s.decodeSector unit pa layout
  let s := if d.free then { s with free := s.free + 1 } else s
  let s := (s.noteScrub mid src unit pa layout d.cls).request asker unit 0
  if d.cls == 1 then
    (1, ((s.putSector pa ⟨some (BitVec.ofNat 4 layout), 0, 0, 0⟩).pokeBytes (engineId asker) pa 64 d.data (2 ^ 64 - 1)).request asker unit 0)
  else (d.cls, s)

/-- The sectors of SCRUB in ascending order: number and active elements. -/
def scrubSectors (c : NmcCommand) (n : Nat) : List (Nat × List Nat) :=
  let first := c.base / 64
  let count := (c.base + (c.gl - 1) * n) / 64 + 1 - first
  (List.range count).map fun i => (i, c.elems.filter fun e => (c.base + e * n) / 64 == first + i)

/-- A sector read by SCRUB: its class in the status word and the map; one of class 3 or 4 is not performed (R272). -/
def NmcRun.scrubbed (r : NmcRun) (i : Nat) (l : Loc) (es : List Nat) (cls : Nat) : NmcRun :=
  let r := r.note l cls
  let r := if 3 ≤ cls then r.miss es else r
  if 1 ≤ cls then { r with cmd.bits := r.cmd.bits + 2 ^ i } else r

/-- Sector i read, and rewritten when it is of class 1, where a lessor holds it by a store to it (R272). False when it has to wait. -/
def State.scrubOne (s : State) (r : NmcRun) (i : Nat) (es : List Nat) : Bool × NmcRun × State :=
  match es with
  | [] => (true, r, s)
  | e :: _ =>
    let c := r.cmd
    let va := (c.base / 64 + i) * 64
    match s.nmcReach r .rmw e va 64 with
    | (.stalled, r, s) => (false, r, s)
    | (.gone, r, s) => (true, r.miss es, s)
    | (.found (.dram u pa layout ns), r, s) =>
      let (cls, s) := s.scrubSector c.hart c.hart 5 u pa layout
      (true, r.scrubbed i (.dram u pa layout ns) es cls, s)
    | (.found l, r, s) =>
      match s.loadAt (engineId c.hart) c.hart l 64 with
      | (.wait _, s) => (false, r, s)
      | (.data cls x, s) =>
        if cls == 1 then
          match s.flush c.writer { met := c.met, out := c.out } [⟨sectorOf va, l.key, l, x, 2 ^ 64 - 1, false, es⟩] with
          | (none, s) => (false, r, s)
          | (some m, s) => (true, { r with cmd.out := m.out }.scrubbed i l es cls, s)
        else (true, r.scrubbed i l es cls, s)

/-- The sectors of SCRUB that remain, up to one that has to wait, of which nothing is done. -/
def State.scrubAll (s : State) (r : NmcRun) : List (Nat × List Nat) → Bool × NmcRun × State
  | [] => (true, r, s)
  | (i, es) :: rest =>
    match s.scrubOne r i es with
    | (false, _, t) => (false, r, s.waited t)
    | (true, r', t) => (t.dropEngineData r.cmd.hart).scrubAll { r' with cmd.pos := r'.cmd.pos + 1 } rest

/-- The map of SCRUB as byte stores (R272): each byte stands for the first active element of its sectors. -/
def mapPieces (c : NmcCommand) (ss : List (Nat × List Nat)) : List (Piece × List Nat) :=
  (bytesOf (ceilDiv ss.length 8) c.bits).zipIdx.map fun b =>
    let es := ((ss.drop (8 * b.2)).take 8).flatMap Prod.snd
    ({ elem := es.headD c.gl, va := (c.yaddr + b.2) % 2 ^ 64, n := 1, x := b.1 }, es)

/-- The bytes of the map on their way to memory. A byte that cannot be stored leaves the elements of its sectors not performed: R272 says
nothing of a lost map, DESIGN CHOICE (assumption 78). False when one has to wait. -/
def State.mapBytes (s : State) (r : NmcRun) : List (Piece × List Nat) → Bool × NmcRun × State
  | [] => (true, r, s)
  | (p, es) :: rest =>
    match s.nmcReach r .map p.elem p.va 1 with
    | (.stalled, r, s) => (false, r, s)
    | (.gone, r, s) => s.mapBytes (r.miss es) rest
    | (.found l, r, s) =>
      match s.putElem r.cmd.writer r.writes [⟨p, l⟩] with
      | (some _, ws, s) => s.mapBytes (({ r with writes := ws }.note l 3).miss es) rest
      | (none, ws, s) => s.mapBytes { r with writes := ws } rest

/-- The gathered bytes of the map stored; those lost at their controller leave their elements not performed. -/
def State.nmcMap (s : State) (r : NmcRun) : Bool × NmcRun × State :=
  match s.flush r.cmd.writer { met := r.cmd.met, out := r.cmd.out } r.writes with
  | (none, s) => (false, r, s)
  | (some m, s) => (true, { r with cmd.met := m.met, cmd.out := m.out, writes := [] }.miss (m.lost.filter r.cmd.elems.contains), s)

/-- The map written as whole bytes, once every sector has been read (R272). False when it has to wait, and nothing of it is done. -/
def State.scrubMap (s : State) (c : NmcCommand) (ss : List (Nat × List Nat)) : Bool × NmcCommand × State :=
  if ss.length < c.pos then (true, c, s)
  else match s.mapBytes { cmd := c } (mapPieces c ss) with
  | (false, _, t) => (false, c, s.waited t)
  | (true, r, t) =>
    match t.nmcMap r with
    | (false, _, t) => (false, c, s.waited t)
    | (true, r, t) => (true, { r.cmd with pos := c.pos + 1 }, t)

/-! ### Performing a command -/

/-- What is left of a command performed, up to its status word or to something that has to wait; its stores to lessors are answered
last. -/
def State.nmcBody (s : State) (c : NmcCommand) (f : Fmt) : Bool × NmcCommand × State :=
  let (done, c, s) :=
    if c.opc == 6 then
      let ss := scrubSectors c (f.width / 8)
      let (done, r, s) := s.scrubAll { cmd := c } (ss.drop c.pos)
      if done then s.scrubMap r.cmd ss else (false, r.cmd, s)
    else
      let (done, r, s) := s.nmcGroups f { cmd := c } (c.groups (f.width / 8))
      (done, r.cmd, s)
  let (out, refused, s) := s.takeAnswers c.out
  (done && out.isEmpty, { c with out := out, first := lowest c.first (refused.filter c.elems.contains) }, s)

/-- A posted command performed and its status word written (R272). Where a page is under migration, or a lessor has yet to answer, it
stays posted with what is left of it. -/
def State.perform (s : State) (c : NmcCommand) : State :=
  match fmtOf c.f c.code with
  | none => { s with nmcq := s.nmcq.erase c }
  | some f =>
    let (done, c', s) := s.nmcBody c f
    let later (s : State) : State := { s with nmcq := s.nmcq.replace c c' }
    if !done then later s
    else
      let w := statusWord c'.first c'.met c'.flags (if c'.first.isSome then 2 else 1)
      match s.storeStatus c.req c.who c.stream.val c.status w with
      | (false, t) => later (s.waited t)
      | (true, s) => { s.dropEngineData c.hart with nmcq := s.nmcq.erase c }

/-- The oldest command of a hart. -/
def State.oldestCommand (s : State) (id : HartId) : Option NmcCommand := s.nmcq.find? fun c => c.hart == id

/-- The device step of a command: the hart's oldest command, when it is of the kind that the step names. -/
def State.mandrelStep (s : State) (opc : Nat) (id : HartId) : State :=
  match s.oldestCommand id with
  | some c => if c.opc == opc then s.perform c else s
  | none => s

/-- MANDREL_AXPBY (R270, R272). -/
def execMandrelAxpby (id : Nat) (s : State) : Host.Outcome State Fault Refusal := .next (s.mandrelStep 1 id)
/-- MANDREL_STEP (R270, R272). -/
def execMandrelStep (id : Nat) (s : State) : Host.Outcome State Fault Refusal := .next (s.mandrelStep 2 id)
/-- MANDREL_FILL (R270, R272). -/
def execMandrelFill (id : Nat) (s : State) : Host.Outcome State Fault Refusal := .next (s.mandrelStep 3 id)
/-- MANDREL_COPY (R270, R272). -/
def execMandrelCopy (id : Nat) (s : State) : Host.Outcome State Fault Refusal := .next (s.mandrelStep 4 id)
/-- MANDREL_IADD (R270, R272). -/
def execMandrelIadd (id : Nat) (s : State) : Host.Outcome State Fault Refusal := .next (s.mandrelStep 5 id)
/-- MANDREL_SCRUB (R272, R408). -/
def execMandrelScrub (id : Nat) (s : State) : Host.Outcome State Fault Refusal := .next (s.mandrelStep 6 id)

/-! ### NMC -/

/-- The bits of a command block that must be zero (R269). -/
def nmcReserved : BitVec 256 :=
  BitVec.ofNat 256 ((2 ^ 64 - 1) * 2 ^ 192 + (2 ^ 37 - 1) * 2 ^ 27 + 7 * 2 ^ 21 + 255 * 2 ^ 8)

/-- The probes of the scout pass for an engine command: every access is probed, and a refusal is found when the transfer is made
(R271, R366). -/
def scoutPieces (a : Acc) (stream : Nat) : List Piece → Act Unit
  | [] => pure ()
  | p :: ps => do
    let _ ← locateAgain a { stream := stream, elem := p.elem, eng := true } p.va p.n
    scoutPieces a stream ps

/-- The probes of the elements of x and y; the location of the first of x that no table refuses. -/
def scoutPairs (stream n : Nat) (x : Nat → Nat) (y : Option (Nat → Nat)) : List Nat → Act (Option Loc)
  | [] => pure none
  | e :: es => do
    let lx ← locateAgain .rmw { stream := stream, elem := e, eng := true } (x e) n
    match y with
    | some y =>
      let _ ← locateAgain .operand { stream := stream, elem := e, eng := true } (y e) n
    | none => pure ()
    let rest ← scoutPairs stream n x y es
    pure (match lx with
      | .ok l => some l
      | .error _ => rest)

/-- NMC (R269 to R271). -/
def execNmc (vc : VReg) (base : AReg) (sx : SReg) (st : Stream) (m : MReg) (s : State) : Host.Outcome State Fault Refusal :=
  run s do
    begin false (.masked .none)
    let h ← hart
    let b : BitVec 256 := h.v[vc].extractLsb' 0 256
    let x := b.toNat
    let opc := fld x 7 0
    let code := fld x 20 16
    let rm := fld x 26 24
    let status := (h.rs sx).toNat
    operand (b &&& nmcReserved == 0 && 1 ≤ opc && opc ≤ 6 && rm ≤ 4 && status % 8 == 0)
    match fmtOf h.f code with
    | none => reservedOperand
    | some f => do
      operand (nmcFmtOk opc code f)
      let es := h.active m h.erix.toNat h.gl.toNat
      if es.isEmpty then clearErix
      else do
        let n := f.width / 8
        let start := (h.ra base).toNat
        let yaddr := fld x 127 64
        waitStream st.val true
        let l ← scoutPairs st.val n (fun e => (start + e * n) % 2 ^ 64)
          (if nmcReadsY opc then some fun e => (yaddr + e * n) % 2 ^ 64 else none) es
        let sectors := (start + (h.gl.toNat - 1) * n) / 64 + 1 - start / 64
        if opc == 6 then
          scoutPieces .map st.val ((List.range (ceilDiv sectors 8)).map fun i =>
            { elem := 0, va := (yaddr + i) % 2 ^ 64, n := 1 })
        if status != 0 then scoutPieces .store st.val [{ elem := 0, va := status, n := 8 }]
        modify fun s => match l with
          | some l => s.requestTo l 0
          | none => s
        modify fun s => { s with nmcq := s.nmcq ++ [{
          hart := s.cur.id, gang := s.cur.gang, index := s.cur.index, forked := s.cur.parent.isSome, part := s.cur.part, atLevel := s.cur.prv, stream := st, opc := opc, code := code, f := s.cur.f
          rm := rm, alpha := BitVec.ofNat 32 (fld x 159 128), beta := BitVec.ofNat 32 (fld x 191 160), base := start
          yaddr := yaddr, status := status, elems := es, gl := s.cur.gl.toNat
          pos := 0, first := none, flags := 0, met := {}, bits := 0, out := [] }] }
        clearErix

end Sys2Proof.Machine
end

