-- ==== Sys2Proof/Machine/Collective.lean ====
section
/-! DEFINITION. Collectives: COLL (R278, R423), the instances of a group (R422, R424, R426), and the four operations (R279). -/

namespace Sys2Proof.Machine

/-! ### Groups -/

/-- Words CG0 and CG1 of a group (R422). -/
def State.group0 (s : State) (g : Nat) : Nat := (Sparse.get 0 s.link.groups (2 * g)).toNat
def State.group1 (s : State) (g : Nat) : Nat := (Sparse.get 0 s.link.groups (2 * g + 1)).toNat

/-- Ranks per device and member devices of a group. -/
def State.groupHpd (s : State) (g : Nat) : Nat := fld (s.group0 g) 24 16
def State.groupDevices (s : State) (g : Nat) : Nat := fld (s.group0 g) 9 0 + 1

/-- P of a group (R422). -/
def State.groupRanks (s : State) (g : Nat) : Nat := s.groupDevices g * s.groupHpd g

/-- Bytes that the device reads for itself from one sector on (R422), each sector by one request for a master: the bytes as one number. -/
def State.ownBytes (r : Req) (base : Nat) : Nat → State → Except Miss Nat × State
  | 0, s => (.ok 0, s)
  | n + 1, s =>
    match s.ownSector r base with
    | (.error e, s) => (.error e, s)
    | (.ok d, s) =>
      let s := match placeOf base with
        | .dram u => s.request r.mid u 0
        | _ => s
      match State.ownBytes r (base + 64) n s with
      | (.error e, s) => (.error e, s)
      | (.ok rest, s) => (.ok (d + 2 ^ 512 * rest), s)

/-- The position of this device in a member list (R422), read for a hart. -/
def State.memberOf (s : State) (r : Req) (g : Nat) : Except Miss (Option Nat) × State :=
  let list := fld (s.group1 g) 51 0
  let n := s.groupDevices g
  match State.ownBytes r (list / 64 * 64) ((list + 2 * n - 1) / 64 + 1 - list / 64) s with
  | (.error e, s) => (.error e, s)
  | (.ok d, s) => (.ok (firstBelow (fun i => d / 2 ^ (8 * (list % 64 + 2 * i)) % 2 ^ 16 == s.devno) n), s)

/-- The count of collectives that a rank has posted on a group. -/
def postKey (g q : Nat) : Nat := g * 2 ^ 20 + q

/-! ### The command block -/

/-- Fields of the block (R278). -/
def collOpc (b : Nat) : Nat := fld b 7 0
def collFmt (b : Nat) : Nat := fld b 20 16
def collRop (b : Nat) : Nat := fld b 26 24
def collGroup (b : Nat) : Nat := fld b 47 32
def collCount (b : Nat) : Nat := fld b 95 64
def collRoot (b : Nat) : Nat := fld b 127 96

/-- The bits of a block that must be zero. -/
def collReserved : Nat :=
  (2 ^ 128 - 1) * 2 ^ 128 + (2 ^ 16 - 1) * 2 ^ 48 + 31 * 2 ^ 27 + 7 * 2 ^ 21 + 255 * 2 ^ 8

/-- The format of a block: integer, FP16, BF16, FP32 or FP64; ROP 3 to 5 take integers only. -/
def collFmt? (b : Nat) : Option Fmt :=
  match fmtOf (Vector.replicate 8 0) (collFmt b) with
  | some (.float f) => if f.ieee && collRop b < 3 then some (.float f) else none
  | some .e8 => none
  | f => f

/-- The checks of the block alone (R278). -/
def collBlockOk (b : Nat) : Bool :=
  b &&& collReserved == 0 && 1 ≤ collOpc b && collOpc b ≤ 4 && collRop b ≤ 5 && 1 ≤ collCount b && (collFmt? b).isSome

/-- Elements of a rank's buffer (R279). -/
def collElems (b p : Nat) : Nat := if collOpc b == 2 || collOpc b == 3 then collCount b * p else collCount b

/-! ### Access to a buffer -/

/-- The pieces of elements lo to lo + n − 1 of a buffer: naturally aligned elements, or bytes below 8 bits. -/
def bufferPieces (w base lo n : Nat) : List Piece :=
  if 8 ≤ w then (rangeFrom lo n).map fun e => { elem := e, va := (base + e * w / 8) % 2 ^ 64, n := w / 8 }
  else
    let first := lo * w / 8
    (rangeFrom first (ceilDiv ((lo + n) * w) 8 - first)).map fun i => { elem := i * (8 / w), va := (base + i) % 2 ^ 64, n := 1 }

/-- What the engine has read of one rank's buffer: the buffer as one number, the elements that could not be read, the sectors, and the
error classes met. -/
structure RankData where
  bits : Nat := 0
  bad : List Nat := []
  cache : SectorCache := []
  met : Met := {}
  pages : List Nat := []
deriving DecidableEq, Repr

/-- Elements that a piece holds. -/
def pieceElems (w : Nat) (p : Piece) : List Nat := if 8 ≤ w then [p.elem] else rangeFrom p.elem (8 / w)

/-- The collective engine as a requester for the hart that posted a join. -/
def Join.req (j : Join) (w : Poster) : Req := engineReq w.id j.atLevel j.part.val

/-- The collective engine that stores for it. -/
def Join.writer (j : Join) (w : Poster) : Writer := { mid := w.id, id := engineId w.id, stream := j.stream.val }

/-- The pieces of a local rank read. None when one has to wait. -/
def State.readRank (s : State) (j : Join) (who : Poster) (w : Nat) (d : RankData) : List Piece → Option RankData × State
  | [] => (some d, s)
  | p :: ps =>
    match s.reach (j.req who) who .load (d.pages.contains (p.va / 4096)) j.stream.val p.elem p.va p.n with
    | (.stalled, s) => (none, s)
    | (.gone, s) => s.readRank j who w { d with bad := d.bad ++ pieceElems w p } ps
    | (.found l, s) =>
      match s.readCached (engineId who.id) who.id d.cache p.va l p.n with
      | (.wait _, _, s) => (none, s)
      | (.data c x, cache, s) =>
        let d := { d with
          cache := cache, met := d.met.note l.key c
          pages := if d.pages.contains (p.va / 4096) then d.pages else p.va / 4096 :: d.pages }
        s.readRank j who w (if 3 ≤ c then { d with bad := d.bad ++ pieceElems w p }
          else { d with bits := d.bits + x * 2 ^ (p.elem * w) }) ps

/-- The elements of a buffer that an operation reads at rank q: first element and count (R279). -/
def collReads (b q : Nat) (p : Nat) : Nat × Nat :=
  match collOpc b with
  | 1 => (0, collCount b)
  | 2 => (0, collCount b * p)
  | 3 => (q * collCount b, collCount b)
  | _ => if q == collRoot b then (0, collCount b) else (0, 0)

/-- Every rank's data, in rank order. -/
def State.readRanks (s : State) (w p : Nat) : List Join → Option (List (Nat × RankData)) × State
  | [] => (some [], s)
  | j :: js =>
    let one : Option RankData × State :=
      match j.hart with
      | none => (some { bits := j.data }, s)
      | some who =>
        let (lo, n) := collReads j.block.toNat j.rank p
        s.readRank j who w {} (bufferPieces w j.base lo n)
    match one with
    | (none, s) => (none, s)
    | (some d, s) =>
      match s.readRanks w p js with
      | (none, s) => (none, s)
      | (some ds, s) => (some ((j.rank, d) :: ds), s)

/-! ### Combination -/

/-- One node: two encodings combined, with flags (R278, R279). -/
def combine (rop : Nat) (f : Fmt) (x y : Nat) : Nat × Nat :=
  match f with
  | .float g =>
    let (r, fl) : Res × Nat := match rop with
      | 0 => addRes 0 (g.decode x) (g.decode y)
      | 1 => let m := minVal (g.decode x) (g.decode y); (m.1.toRes, m.2)
      | _ => let m := maxVal (g.decode x) (g.decode y); (m.1.toRes, m.2)
    let (c, fc) := g.round 0 0 r
    (c, fl ||| fc)
  | f =>
    let sgn (x : Nat) : Int := if f.isSigned then sext f.width x else (x : Int)
    (match rop with
      | 0 => (x + y) % 2 ^ f.width
      | 1 => if sgn x ≤ sgn y then x else y
      | 2 => if sgn x ≤ sgn y then y else x
      | 3 => x &&& y
      | 4 => x ||| y
      | _ => x ^^^ y, 0)

/-- The tree of a floating combination: at each step the two values that the device's tree names are combined (R279). -/
def combineTree (rop : Nat) (f : Fmt) (pick : Nat → Nat × Nat) : Nat → List Nat → Nat → Nat × Nat
  | 0, xs, fl => (xs.headD 0, fl)
  | k + 1, xs, fl =>
    if xs.length ≤ 1 then (xs.headD 0, fl)
    else
      let i := (pick k).1 % xs.length
      let rest := xs.eraseIdx i
      let j := (pick k).2 % rest.length
      let (c, g) := combine rop f (xs.getD i 0) (rest.getD j 0)
      combineTree rop f pick k ((rest.eraseIdx j) ++ [c]) (fl ||| g)

/-- The combination of every rank's value; integers combine in any order. -/
def combineAll (rop : Nat) (f : Fmt) (pick : Nat → Nat × Nat) (xs : List Nat) : Nat × Nat :=
  if f.isInt then
    match xs with
    | [] => (0, 0)
    | x :: xs => xs.foldl (fun acc y => combine rop f acc.1 y) (x, 0)
  else combineTree rop f pick xs.length xs 0

/-- What rank q receives (R279): element of its buffer, encoding, flags; and the elements that an error leaves out. -/
def collResult (b p : Nat) (f : Fmt) (pick : Nat → Nat × Nat) (ds : List (Nat × RankData)) (q : Nat) :
    List (Nat × Nat × Nat) × List Nat :=
  let n := collCount b
  let w := f.width
  let at' (d : RankData) (e : Nat) : Nat := d.bits / 2 ^ (e * w) % 2 ^ w
  let one (r e : Nat) : Option Nat := (ds.find? fun d => d.1 == r).bind fun d => if d.2.bad.contains e then none else some (at' d.2 e)
  let all (e : Nat) : Option (Nat × Nat) :=
    if ds.any fun d => d.2.bad.contains e then none
    else some (combineAll (collRop b) f pick (ds.map fun d => at' d.2 e))
  let value (e : Nat) : Option (Nat × Nat) :=
    match collOpc b with
    | 1 => all e
    | 2 => all (q * n + e)
    | 3 => (one (e / n) e).map fun x => (x, 0)
    | _ => (one (collRoot b) e).map fun x => (x, 0)
  let es := List.range (if collOpc b == 3 then n * p else n)
  (es.filterMap fun e => (value e).map fun v => (e, v.1, v.2), es.filter fun e => (value e).isNone)

/-- The pieces of a result with their values. -/
def resultPieces (w base : Nat) (xs : List (Nat × Nat × Nat)) : List Piece :=
  if 8 ≤ w then xs.map fun x => { elem := x.1, va := (base + x.1 * w / 8) % 2 ^ 64, n := w / 8, x := x.2.1 }
  else bytePieces w base (fun e => ((xs.find? fun x => x.1 == e).map fun x => x.2.1).getD 0) (xs.map Prod.fst)

/-- A result stored in a local rank's buffer: the elements that could not be stored, the errors met, and the stores that lessors have yet
to answer (R129, R272). None when one has to wait. -/
def State.writeRank (s : State) (j : Join) (who : Poster) (w : Nat) (ws : List SectorWrite) (m : Flushed) :
    List Piece → Option Flushed × State
  | [] => s.flush (j.writer who) m ws
  | p :: ps =>
    match s.reach (j.req who) who .store false j.stream.val p.elem p.va p.n with
    | (.stalled, s) => (none, s)
    | (.gone, s) => s.writeRank j who w ws { m with lost := m.lost ++ pieceElems w p } ps
    | (.found l, s) =>
      if l.leased && p.partly then
        let r := s.toLessor (engineId who.id) j.stream.val l.key p.n (.merge (BitVec.ofNat 64 p.x) (BitVec.ofNat 64 p.mask))
        if s.maySend (engineId who.id) then
          (s.postLessor r).writeRank j who w ws { m with out := m.out ++ [(r, pieceElems w p)] } ps
        else (none, s)
      else match s.putElem (j.writer who) ws [⟨p, l⟩] with
      | (none, ws, s) => s.writeRank j who w ws m ps
      | (some _, ws, s) => s.writeRank j who w ws { m with lost := m.lost ++ pieceElems w p, met := m.met.note l.key 3 } ps

/-! ### An instance -/

/-- A join of this device whose status word is written. -/
def Join.ended (j : Join) : Join := { j with hart := none, status := 0, bytes := 0 }

/-- The status word of every joined rank of this device that has none yet (R272, R424): the joins as they then stand, with the poster of
one whose status word has to wait. -/
def State.endJoins (s : State) (w : Nat) : List Join → List Join × State
  | [] => ([], s)
  | j :: js =>
    match j.hart with
    | none =>
      let (js, s) := s.endJoins w js
      (j :: js, s)
    | some who =>
      match s.storeStatus (j.req who) who j.stream.val j.status w with
      | (true, s) =>
        let (js, s) := s.endJoins w js
        (j.ended :: js, s)
      | (false, t) =>
        let (js, s) := (s.waited t).endJoins w js
        (j :: js, s)

/-- The results of every rank stored, with the status word's parts for each (R272, R279). None when one has to wait. -/
def State.writeRanks (s : State) (b p : Nat) (f : Fmt) (pick : Nat → Nat × Nat) (ds : List (Nat × RankData)) :
    List Join → Option (List RankEnd) × State
  | [] => (some [], s)
  | j :: js =>
    let (xs, bad) := collResult b p f pick ds j.rank
    let fl := xs.foldl (fun acc x => acc ||| x.2.2) 0
    let met := ((ds.find? fun d => d.1 == j.rank).map fun d => d.2.met).getD {}
    let one : Option Flushed × State := match j.hart with
      | some who => s.writeRank j who f.width [] { lost := bad, met := met } (resultPieces f.width j.base xs)
      | none => (some { lost := bad, met := met }, s)
    match one with
    | (none, s) => (none, s)
    | (some m, s) =>
      match s.writeRanks b p f pick ds js with
      | (none, s) => (none, s)
      | (some rest, s) => (some (⟨j, m.lost, fl, m.met, m.out⟩ :: rest), s)

/-- The lessors' answers to the results of every rank taken. -/
def State.takeEnds (s : State) : List RankEnd → List RankEnd × State
  | [] => ([], s)
  | r :: rs =>
    let (out, refused, s) := s.takeAnswers r.out
    let (rs, s) := s.takeEnds rs
    ({ r with out := out, bad := r.bad ++ refused } :: rs, s)

/-- The status words after a run: those of the ranks whose word has to wait remain (R272, R279). -/
def State.statusRanks (s : State) (code : Nat) : List RankEnd → List RankEnd × State
  | [] => ([], s)
  | r :: rest =>
    match r.join.hart with
    | none => s.statusRanks code rest
    | some who =>
      match s.storeStatus (r.join.req who) who r.join.stream.val r.join.status (statusWord (lowest none r.bad) r.met r.flags code) with
      | (true, s) => s.statusRanks code rest
      | (false, t) =>
        let (rs, s) := (s.waited t).statusRanks code rest
        (r :: rs, s)

/-- Whether two blocks agree in OPC, FMT, ROP, COUNT and ROOT (R279). -/
def sameBlock (a b : Nat) : Bool :=
  collOpc a == collOpc b && collFmt a == collFmt b && collRop a == collRop b && collCount a == collCount b && collRoot a == collRoot b

/-- An instance out of the engine's list, or another in its place. -/
def State.dropInstance (s : State) (i : Instance) : State :=
  let ids := i.joins.filterMap fun j => j.hart.map fun h => engineId h.id
  { s with
    link.instances := s.link.instances.erase i
    peerData := s.peerData.filter fun e => !ids.contains e.1.id || keptAnswer e.1.op }
def State.putInstance (s : State) (i x : Instance) : State := { s with link.instances := s.link.instances.replace i x }

/-- The joins of an instance of which only some ranks wait for their status words. -/
def leftOf (rs : List RankEnd) (js : List Join) : List Join :=
  js.map fun j => if j.hart.isNone || rs.any fun r => r.join.rank == j.rank then j else j.ended

/-- An instance whose results are on their way: once lessors have answered, the status words, with CODE 2 at every rank when any rank met
an error (R272, R279). -/
def State.endInstance (s : State) (i : Instance) (rs : List RankEnd) : State :=
  let (rs, s) := s.takeEnds rs
  if rs.any fun r => !r.out.isEmpty then s.putInstance i { i with ends := some rs }
  else
    let code := if rs.any fun r => !r.bad.isEmpty then 2 else 1
    let (left, t) := s.statusRanks code rs
    if left.isEmpty then t.dropInstance i
    else t.putInstance i { i with
      joins := leftOf left i.joins
      ends := some (rs.map fun r => if left.any fun x => x.join.rank == r.join.rank then r else { r with join := r.join.ended }) }

/-- An instance whose ranks have all joined, performed (R279). Nothing of it is stored while a page is under migration or a lessor has
yet to answer what it reads. -/
def State.runInstance (s : State) (i : Instance) : State :=
  match i.ends, i.joins with
  | some rs, _ => s.endInstance i rs
  | none, [] => s.dropInstance i
  | none, j :: _ =>
    let b := j.block.toNat
    if !i.joins.all fun x => sameBlock x.block.toNat b then
      let (js, t) := s.endJoins (statusWord none {} 0 3) i.joins
      if js.any fun j => j.hart.isSome then t.putInstance i { i with joins := js } else t.dropInstance i
    else match collFmt? b with
    | none => s.dropInstance i
    | some f =>
      match s.readRanks f.width i.ranks i.joins with
      | (none, t) => s.waited t
      | (some ds, t) =>
        let pick := Config.collectivePick i.group (i.joins.map fun j => (j.hart.map Poster.id).getD 0)
        match t.writeRanks b i.ranks f pick ds i.joins with
        | (none, t) => s.waited t
        | (some rs, t) => t.endInstance i rs

/-- Whether an instance may run: every rank has joined, and no earlier instance of its group is live (R424). The first join of an instance
follows that of every earlier one. -/
def State.instanceReady (s : State) (i : Instance) : Bool :=
  !i.timedOut && i.joins.length == i.ranks
    && (s.link.instances.takeWhile (· != i)).all fun x => x.group != i.group || x.timedOut

/-- The instance of a group that runs next, when it is of the kind that the step names. -/
def State.collStep (s : State) (opc g : Nat) : State :=
  match s.link.instances.find? fun i => i.group == g && s.instanceReady i with
  | some i =>
    match i.joins with
    | j :: _ => if collOpc j.block.toNat == opc then s.runInstance i else s
    | [] => s
  | none => s

/-- ALLRED (R279, R424). -/
def execAllred (g : Nat) (s : State) : Host.Outcome State Fault Refusal := .next (s.collStep 1 g)
/-- REDSCAT (R279, R424). -/
def execRedscat (g : Nat) (s : State) : Host.Outcome State Fault Refusal := .next (s.collStep 2 g)
/-- ALLGATH (R279, R424). -/
def execAllgath (g : Nat) (s : State) : Host.Outcome State Fault Refusal := .next (s.collStep 3 g)
/-- BCAST (R279, R424). -/
def execBcast (g : Nat) (s : State) : Host.Outcome State Fault Refusal := .next (s.collStep 4 g)

/-! ### Time-outs -/

/-- An instance that ends without a run (R424, R426): CODE 4 at every joined rank, at once or as soon as its status word can be written.
It goes when every rank has had its answer, those that join it late too, or when V of its group has been cleared. -/
def State.expireInstance (s : State) (i : Instance) : State :=
  if !i.timedOut && i.ranks ≤ i.joins.length then s
  else
    let (js, t) := s.endJoins (statusWord none {} 0 4) i.joins
    let x := { i with timedOut := true, joins := js }
    if js.all (fun j => j.hart.isNone) && (i.closed || js.length == i.ranks) then t.dropInstance i else t.putInstance i x

/-- COLL_INSTANCE_TIMEOUT (R424). -/
def State.timeoutInstance (s : State) (g k : Nat) : State :=
  match s.link.instances.find? fun i => i.group == g && i.k == k && !i.closed with
  | none => s
  | some i => s.expireInstance i

/-- COLL_INSTANCE_TIMEOUT (R424). -/
def execCollInstanceTimeout (g k : Nat) (s : State) : Host.Outcome State Fault Refusal := .next (s.timeoutInstance g k)

/-- V of a group cleared (R426): its instances that do not yet run end as by a time-out, those that run complete, and its counts begin
again (R424). -/
def State.invalidateGroup (s : State) (g : Nat) : State :=
  let s := (s.link.instances.filter fun i => i.group == g && !i.closed).foldl (fun s i =>
    let x := { i with closed := true }
    (s.putInstance i x).expireInstance x) s
  { s with
    link.groups := Sparse.set 0 s.link.groups (2 * g) (BitVec.ofNat 64 (s.group0 g % 2 ^ 63))
    link.posts := s.link.posts.filter fun e => e.1 / 2 ^ 20 != g }

/-- COLL_GROUP_INVALIDATE (R426). -/
def execCollGroupInvalidate (g : Nat) (s : State) : Host.Outcome State Fault Refusal := .next (s.invalidateGroup g)

/-! ### Joining -/

/-- The joins of an instance in rank order with one more. -/
def insertJoin (j : Join) (js : List Join) : List Join :=
  (js.filter fun x => x.rank < j.rank) ++ [j] ++ (js.filter fun x => j.rank < x.rank)

/-- A rank's post counted, and its join entered (R424). A join of an instance that has timed out gets CODE 4 at once. -/
def State.join (s : State) (g : Nat) (j : Join) : State :=
  let k := Sparse.get 0 s.link.posts (postKey g j.rank)
  let s := { s with link.posts := Sparse.set 0 s.link.posts (postKey g j.rank) (k + 1) }
  match s.link.instances.find? fun i => i.group == g && i.k == k && !i.closed with
  | none => { s with link.instances := s.link.instances ++ [⟨g, k, [j], false, s.groupRanks g, false, none⟩] }
  | some i =>
    let x := { i with joins := insertJoin j i.joins }
    let s := s.putInstance i x
    if i.timedOut then s.expireInstance x else s

/-- Whether a rank is one of another device that has still to join an instance: its next join is of that instance. -/
def State.awaits (s : State) (i : Instance) (mine rank : Nat) : Bool :=
  rank < i.ranks && rank / max (s.groupHpd i.group) 1 != mine && Sparse.get 0 s.link.posts (postKey i.group rank) == i.k

/-- A rank of another device joins an instance: its block, its buffer and its time are that device's, free values here
(assumption 3). -/
def State.remoteJoin (s : State) (i : Instance) (rank : Nat) : State :=
  match i.joins with
  | [] => s
  | j :: _ =>
    let b := j.block.toNat
    let bits := match collFmt? b with
      | some f => f.width * collElems b i.ranks
      | none => 0
    let alike := Config.freeBits 1 s.free == 1
    let block : BitVec 256 := if alike then j.block else Config.freeBits 256 (s.free + 1)
    let r : Join := ⟨rank, none, 0, .u, 0, block, 0, 0, 0, (Config.freeBits bits (s.free + 2)).toNat⟩
    { s with free := s.free + 3 }.join i.group r

/-- The position of this device in a group's member list as memory holds it, for what other devices do. -/
def State.mine (s : State) (g : Nat) : Option Nat :=
  let list := fld (s.group1 g) 51 0
  firstBelow (fun i => Memory.readN s.mem (list + 2 * i) 2 == s.devno) (s.groupDevices g)

/-- The ranks of other devices that an instance lacks. -/
def State.missingRemote (s : State) (i : Instance) : List Nat :=
  match s.mine i.group with
  | none => []
  | some me => if i.closed then [] else (List.range i.ranks).filter (s.awaits i me)

/-! ### COLL -/

/-- COLL (R278, R279, R423, R424). DESIGN CHOICE (assumption 79): a member list that cannot be read, or that does not hold this device, is a
reserved operand. -/
def execColl (vc : VReg) (base : AReg) (sx : SReg) (st : Stream) (s : State) : Host.Outcome State Fault Refusal :=
  run s do
    begin false (.masked .none)
    let s ← get
    let h := s.cur
    let block : BitVec 256 := h.v[vc].extractLsb' 0 256
    let b := block.toNat
    let g := collGroup b
    let status := (h.rs sx).toNat
    operand (collBlockOk b && status % 8 == 0 && g < 1024)
    operand (bitOf (s.group0 g) 63 && fld (s.group0 g) 50 48 == h.part.val && h.parent.isNone && h.gang.isSome
      && h.index < s.groupHpd g && s.groupHpd g ≤ 384 && (collOpc b != 4 || collRoot b < s.groupRanks g))
    match s.memberOf h.req g, collFmt? b with
    | (.error (.refused t k), s), _ => do
      set s
      freezeAt t k { stream := st.val, eng := true } none (fld (s.group1 g) 51 0)
    | (.error (.stall w), s), _ => fun _ => .error (.stay { s with cur.wait := w })
    | (.ok (some i), s), some f => do
      set s
      if h.gl == 0 then pure ()
      else do
        waitStream st.val true
        let n := collElems b (s.groupRanks g)
        let start := (h.ra base).toNat
        scoutPieces .load st.val (bufferPieces f.width start 0 n)
        scoutPieces .store st.val (bufferPieces f.width start 0 n)
        if status != 0 then scoutPieces .store st.val [{ elem := 0, va := status, n := 8 }]
        modify fun s =>
          (s.join g ⟨i * s.groupHpd g + s.cur.index, some ⟨s.cur.id, s.cur.gang, s.cur.index, false⟩, s.cur.part, s.cur.prv, st, block,
            start, ceilDiv (n * f.width) 8, status, 0⟩).request s.cur.id collectiveTarget 0
    | (_, s), _ => do
      set s
      reservedOperand

end Sys2Proof.Machine
end

