-- ==== Sys2Proof/Machine/Sched.lean ====
section
/-! DEFINITION. The scheduler: announcements (R340), the examination of a record (R341 to R346, R349), epochs (R348), placement and
launch (R343, R350, R352), queue descriptors (R346, R347), and the resolution of a frozen hart (R336). -/

namespace Sys2Proof.Machine

/-! ### Launch records -/

/-- Fields of CTL (R342). -/
structure Ctl where
  gang : Nat
  lanes : Nat
  q : Nat
  skew : Bool
  spad : Nat
  burl : Nat
  tiles : Nat
deriving DecidableEq, Repr

/-- The CTL word of a record. -/
def ctlOf (w : Nat) : Ctl :=
  ⟨fld w 63 55, 4 * 2 ^ fld w 54 53, fld w 52 49, bitOf w 48, fld w 47 35, fld w 34 27, fld w 26 24⟩

/-- The field checks of QERR code 1 (R349). -/
def recordOk (r : List Word) : Bool :=
  let w := recWord r 7
  let c := ctlOf w
  1 ≤ c.gang && c.gang ≤ 384 && fld w 54 53 != 3 && 1 ≤ c.q && c.q ≤ 8 && c.spad ≤ 6144 && c.burl ≤ 128 && c.tiles ≤ 4
    && fld w 23 0 == 0 && addrOk (recWord r 0) 4 && addrOk (recWord r 3) 8 && addrOk (recWord r 4) 8 && addrOk (recWord r 5) 8

/-- Bytes of scratchpad that one hart reserves (R352). -/
def Ctl.bytes (c : Ctl) : Nat := c.spad * 256 + c.burl * 4096

/-- Cores of a partition in a cluster. -/
def Partition.coresIn (p : Partition) (cl : Nat) : List Nat := (rangeFrom (96 * cl) 96).filter p.holdsCore

/-- Whether some cluster of a partition could hold the gang, and a context slot its save (R349 code 2, R386). -/
def Partition.couldHold (p : Partition) (c : Ctl) : Bool :=
  let k := if c.tiles == 0 then 4 else 4 / c.tiles
  ((List.range 4).any fun cl => c.gang ≤ k * (p.coresIn cl).length) && c.bytes ≤ spadBytes
    && 4096 + c.gang * 912 * 1024 ≤ fld p.ctxn.toNat 15 0 * 2 ^ 20

/-! ### Examination of a record -/

/-- The record at HEAD discarded with a QERR code (R345, R349): it is not taken. -/
def State.discard (s : State) (q : BitVec 16) (p : Fin 8) (index : Nat) (r : List Word) (code : Nat) : State :=
  (((s.signalDiscard p r).qerr q index code).pass q false).schedDone p.val

/-- A counter against its threshold: met, and whether it carries the killed mark (R345). -/
def State.counterMet (s : State) (p a threshold : Nat) (again : Bool := false) : Except SchedEnd (Bool × Bool) × State :=
  if a == 0 then (.ok (true, false), s)
  else match s.schedRead p a 8 again with
  | (.value x, s) => (.ok (threshold ≤ x % 2 ^ 63, bitOf x 63), s)
  | (e, s) => (.error e, s)

/-- Both counters of a record (R345). -/
def State.countersMet (s : State) (p : Nat) (r : List Word) (again : Bool := false) : Except SchedEnd ((Bool × Bool) × Bool × Bool) × State :=
  match s.counterMet p (recWord r 4) (recWord r 6 % 2 ^ 32) again with
  | (.error e, s) => (.error e, s)
  | (.ok a, s) =>
    match s.counterMet p (recWord r 5) (recWord r 6 / 2 ^ 32) again with
    | (.error e, s) => (.error e, s)
    | (.ok b, s) => (.ok (a, b), s)

/-- The record made eligible. -/
def State.makeEligible (s : State) (x : Queue) (r : List Word) : State :=
  { s with eligible := s.eligible ++ [⟨x.q, x.head, r⟩] }

/-- The waits of a record that passes every other check (R345). -/
def State.examineWaits (s : State) (x : Queue) (r : List Word) : State :=
  let p := x.part.val
  let index := x.head.toNat
  match s.countersMet p r with
  | (.error .stall, s) => s
  | (.error _, s) => s.discard x.q x.part index r 3
  | (.ok (a, b), s) =>
    if !(a.1 && b.1) then s.schedDone p
    else match s.countersMet p r true with
    | (.error .stall, s) => s
    | (.error _, s) => s.discard x.q x.part index r 3
    | (.ok (a, b), s) => if a.2 || b.2 then s.discard x.q x.part index r 4 else (s.makeEligible x r).schedDone p

/-- Whether the header's RBASE and HCFG.LOG2N agree with the descriptor (R346, R349). -/
def Queue.agrees (x : Queue) : List Nat → Bool
  | [rbase, hcfg] => rbase == x.ring && hcfg % 16 == x.log2n
  | _ => false

/-- The record at HEAD of a mapped queue examined: the header's copies, the record, its fields, its size, its waits (R341, R345, R346,
R349). An unreadable header gets code 6 and an unreadable record code 3: the table names neither, DESIGN CHOICE (assumption 37). -/
def State.examine (s : State) (q : BitVec 16) : State :=
  match s.queue? q with
  | none => s
  | some x =>
    if !x.ready || x.slot.isNone || s.eligible.any fun e => e.queue == q then s
    else
      let p := x.part.val
      let index := x.head.toNat
      match s.schedWords p [x.header, x.header + 8] with
      | (.error .stall, s) => s
      | (hd, s) =>
        let differs := match hd with
          | .ok h => !x.agrees h
          | .error _ => true
        match s.schedWords p ((List.range 8).map fun i => x.ring + 64 * (index % x.size) + 8 * i) with
        | (.error .stall, s) => s
        | (.error _, s) => s.discard q x.part index [] (if differs then 6 else 3)
        | (.ok ws, s) =>
          let r : List Word := ws.map fun w => BitVec.ofNat 64 w
          if differs then s.discard q x.part index r 6
          else if !recordOk r then s.discard q x.part index r 1
          else if !(s.partAt p).couldHold (ctlOf (recWord r 7)) then s.discard q x.part index r 2
          else s.examineWaits x r

/-- DOORBELL_ANNOUNCE (R340). -/
def execDoorbellAnnounce (q : BitVec 16) (i : Word) (s : State) : Host.Outcome State Fault Refusal := .next (s.announce q i)

/-- EXAMINE_RECORD (R341). -/
def execExamineRecord (q : BitVec 16) (s : State) : Host.Outcome State Fault Refusal := .next (s.examine q)

/-! ### Epochs -/

/-- Effective priority of a queue now (R350). -/
def State.levelOf (s : State) (x : Queue) : Nat := aged x.prio x.since s.epochs

/-- Ready queues of a partition that hold no slot. -/
def State.unmapped (s : State) (p : Nat) : List Queue := s.queues.filter fun x => x.part.val == p && x.ready && x.slot.isNone

/-- Whether a mapped queue gives up its slot (R348). -/
def State.releasesSlot (s : State) (x : Queue) : Bool :=
  let waiting := s.unmapped x.part.val
  x.slot.isSome && (!x.ready || (x.taken && !waiting.isEmpty)
    || (x.mapped < s.epochs && waiting.any fun y => s.levelOf x ≤ s.levelOf y))

/-- The slots S of a partition (R357). -/
def State.slotsOf (s : State) (p : Nat) : Nat := fld (s.partAt p).sch.toNat 26 16

/-- The unmapped ready queues of highest level that reached it first. -/
def State.foremost (s : State) (xs : List Queue) : List Queue :=
  xs.filter fun x => xs.all fun y =>
    s.levelOf y < s.levelOf x
      || (s.levelOf y == s.levelOf x && !Queue.reachedBefore s.epochs y x)

/-- The lowest slot number that no queue holds. -/
def State.freeSlot (s : State) : Option Nat := firstBelow (fun n => s.queues.all fun x => x.slot != some n) 1024

/-- Free slots of a partition filled (R348). -/
def State.fillSlots (p : Nat) : Nat → State → State
  | 0, s => s
  | n + 1, s =>
    if s.slotsOf p ≤ (s.queues.filter fun x => x.part.val == p && x.slot.isSome).length then s
    else
      match s.freeSlot, s.pick (s.foremost (s.unmapped p)) with
      | some k, (some x, s) => State.fillSlots p n (s.updQueue x.q fun y => { y with slot := some k, mapped := s.epochs })
      | _, _ => s

/-- The end of an epoch: slots released and filled again (R348). -/
def State.epochEnd (s : State) : State :=
  let s := { s with epochs := s.epochs + 1, epochStep := s.steps }
  let gone := (s.queues.filter s.releasesSlot).map Queue.q
  let s := { s with
    queues := s.queues.map fun x => { x with slot := if gone.contains x.q then none else x.slot, taken := false }
    eligible := s.eligible.filter fun e => !gone.contains e.queue }
  (List.range 8).foldl (fun s p => State.fillSlots p (s.slotsOf p) s) s

/-- EPOCH_END (R348). -/
def execEpochEnd (s : State) : Host.Outcome State Fault Refusal := .next s.epochEnd

/-! ### Room for a gang -/

/-- Whether a context holds no hart. -/
def State.contextFree (s : State) (id : HartId) : Bool :=
  s.harts.all fun h => h.id != id || h.wait == .vacant || h.wait == .ended

/-- The launched harts that are resident on a core, each with its gang. -/
def State.residents (s : State) (core : Nat) : List Gang :=
  (s.harts.filter fun h => !isMgmt h.id && coreOf h.id == core && h.parent.isNone && h.wait != .vacant && h.wait != .ended).filterMap
    fun h => h.gang.bind s.gang?

/-- Scratchpad bytes and tiles that are reserved on a core (R352). -/
def State.reservedBytes (s : State) (core : Nat) : Nat := ((s.residents core).map fun g => g.spad * 256 + g.burl * 4096).sum
def State.reservedTiles (s : State) (core : Nat) : Nat := ((s.residents core).map Gang.tiles).sum

/-- Whether n harts with a demand fit on a core (R352). -/
def State.fits (s : State) (core n bytes tiles : Nat) : Bool :=
  n ≤ ((List.range 4).filter fun c => s.contextFree (4 * core + c)).length
    && s.reservedBytes core + n * bytes ≤ spadBytes && s.reservedTiles core + n * tiles ≤ 4

/-- Harts with a demand for which a core has room. -/
def State.room (s : State) (core bytes tiles : Nat) : Nat :=
  ((List.range 5).filter fun n => s.fits core n bytes tiles).foldl max 0

/-- Whether some cluster has room for a gang of a partition now. -/
def State.placeable (s : State) (p n bytes tiles : Nat) : Bool :=
  (List.range 4).any fun cl => n ≤ (((s.partAt p).coresIn cl).map fun c => s.room c bytes tiles).sum

/-- Whether slots are a placement of n harts: free contexts in ascending order, in one cluster of the partition, within the
reservations (R343, R352). -/
def State.slotsOk (s : State) (p n bytes tiles : Nat) (xs : List Slot) : Bool :=
  xs.length == n
    && (xs.zip (xs.drop 1)).all (fun a => a.1.core < a.2.core || (a.1.core == a.2.core && a.1.ctx < a.2.ctx))
    && xs.all (fun x => x.core < 384 && x.ctx < 4 && x.core / 96 == ((xs.head?.map Slot.core).getD 0) / 96
        && (s.partAt p).holdsCore x.core && s.contextFree (4 * x.core + x.ctx)
        && s.fits x.core (xs.filter fun y => y.core == x.core).length bytes tiles)

/-- The slots that a dispatcher takes for n harts: the first cluster with room, its cores in ascending order. -/
def State.chooseSlots (s : State) (p n bytes tiles : Nat) : List Slot :=
  match (List.range 4).find? fun cl => n ≤ (((s.partAt p).coresIn cl).map fun c => s.room c bytes tiles).sum with
  | none => []
  | some cl => (((s.partAt p).coresIn cl).flatMap fun c =>
      (((List.range 4).filter fun x => s.contextFree (4 * c + x)).take (s.room c bytes tiles)).map fun x => ⟨c, x⟩).take n

/-- A hart put in its context. -/
def State.putHart (s : State) (h : Hart) : State :=
  if s.cur.id == h.id then { s with cur := h }
  else { s with others := h :: s.others.filter fun x => x.id != h.id }

/-- The physical tiles of a core that no name is mapped to. -/
def State.freeTiles (s : State) (core : Nat) : List (Fin 4) :=
  (List.finRange 4).filter fun t => (s.harts.filter fun h => !isMgmt h.id && coreOf h.id == core && h.wait != .vacant
    && h.wait != .ended).all fun h => ((List.finRange 4).filter fun n => n.val < h.tiles).all fun n => h.tileMap[n] != t

/-- Physical tiles for the names of one hart (R54). -/
def State.mapTiles (s : State) (core : Nat) : Vector (Fin 4) 4 :=
  let free := s.freeTiles core
  Vector.ofFn fun i => free.getD i.val 0

/-! ### Placement -/

/-- HCTL.SKEW at launch by SKM (R346). -/
def launchSkew (skm : Nat) (record : Bool) : Bool := if skm == 1 then true else if skm == 2 then false else record

/-- One hart of a launched gang (R51, R343). -/
def State.launchHart (s : State) (g : Gang) (skew : Bool) (r : List Word) (i : Nat) (x : Slot) : State :=
  let id := 4 * x.core + x.ctx
  s.putHart { Hart.vacant id with
    gang := some g.id, index := i, wait := .run, part := g.part, skew := skew
    pc := r.getD 0 0
    s := (((Vector.replicate 32 0).set 1 (r.getD 1 0)).set 2 (BitVec.ofNat 64 i)).set 3 (BitVec.ofNat 64 g.size)
    gseedLo := r.getD 2 0, gseedHi := BitVec.ofNat 64 (i + 1)
    grant := g.grant, forkGrant := g.grant, tiles := g.tiles, tileMap := s.mapTiles x.core }

/-- Whether the record of a queue comes before that of another by the queues' effective priorities now (R350). -/
def State.comesBefore (s : State) (x y : Queue) : Bool :=
  s.levelOf y < s.levelOf x
    || (s.levelOf x == s.levelOf y && Queue.reachedBefore s.epochs x y)

/-- The partition of a queue's record, and what it demands. -/
def State.demand (s : State) (e : Eligible) : Option (Queue × Ctl) := (s.queue? e.queue).map fun x => (x, ctlOf (recWord e.record 7))

/-- Whether an eligible record can be placed now. -/
def State.eligiblePlaceable (s : State) (e : Eligible) : Bool :=
  match s.demand e with
  | none => false
  | some (x, c) => s.placeable x.part.val c.gang c.bytes c.tiles

/-- Whether no other placeable record of the partition comes first (R350). -/
def State.isNext (s : State) (e : Eligible) : Bool :=
  match s.demand e with
  | none => false
  | some (x, _) => s.eligible.all fun f =>
      match s.demand f with
      | some (y, _) => y.part != x.part || !s.comesBefore y x || !s.eligiblePlaceable f
      | none => true

/-- The lanes that a gang counts: those of a pending grant not yet adopted, else those in force (R436). -/
def Gang.lanes (g : Gang) : Nat := (g.pending.getD g.grant).lanes

/-- Whether a partition's average exceeds its budget; a budget of 0 is none (R437). -/
def Partition.overBudget (q : Partition) : Bool := q.pbud != 0 && fld q.pbud.toNat 15 0 < q.average.toNat

/-- Whether every gang that a limit acts on is down to 4 lanes, those of the partition under its budget and those of the device under
the module's: no new gang is placed (R436). -/
def State.placementStopped (s : State) (p : Nat) : Bool :=
  let q := s.partAt p
  q.throttled && s.gangs.all fun g => (q.overBudget && g.part.val != p) || g.lanes ≤ 4

/-- A number that no gang of the device bears. -/
def State.newGang (s : State) : Nat := s.placements

/-- Whether a grant may be given for a request: the request itself, or a lower one while a power limit is in force; 4 lanes have none
below them (R24, R343). -/
def grantOk (throttled : Bool) (want grant : Grant) : Bool :=
  if throttled then
    (grant.lanes == 4 || (grant.lanes == 8 && 8 < want.lanes)) && grant.lanes ≤ want.lanes && 1 ≤ grant.q && grant.q ≤ want.q
  else grant == want

/-- GANG_PLACE (R343, R352): an eligible record's gang launched on the given contexts; nothing where they are no placement. -/
def State.place (s : State) (q : BitVec 16) (slots : List Slot) (grant : Grant) : State :=
  match s.eligible.find? fun e => e.queue == q with
  | none => s
  | some e =>
    match s.demand e with
    | none => s
    | some (x, c) =>
      let p := x.part
      let throttled := (s.partAt p.val).throttled
      if !s.isNext e || s.placementStopped p.val || !s.slotsOk p.val c.gang c.bytes c.tiles slots
          || !grantOk throttled ⟨c.lanes, c.q⟩ grant then s
      else
        let g : Gang := {
          id := s.newGang, ring := e.index, size := c.gang, arr := 0, gen := 0, ended := 0, queue := q, cls := x.cls
          prio := s.levelOf x, sig := e.record.getD 3 0, part := p, request := ⟨c.lanes, c.q⟩, grant := grant, pending := none
          spad := c.spad, burl := c.burl, tiles := c.tiles, sent := 0, received := 0, phase := none, sweeps := 0
          placed := s.placements, slice := s.epochs, killed := false, leaving := none }
        let s := { s with
          gangs := s.gangs ++ [g]
          placements := s.placements + 1
          eligible := s.eligible.filter fun f => f.queue != q }
        let s := slots.zipIdx.foldl (fun s y => s.launchHart g (launchSkew x.skm c.skew) e.record y.2 y.1) s
        s.pass q true

/-- GANG_PLACE (R352). -/
def execGangPlace (q : BitVec 16) (slots : List Slot) (grant : Grant) (s : State) : Host.Outcome State Fault Refusal :=
  .next (s.place q slots grant)

/-! ### Queue descriptors -/

/-- The fields of a descriptor word that hold (R346). -/
def qdMask (word : Fin 4) : Word :=
  match word with
  | 0 => 0xFFFF000000000000#64
  | 1 => 0x01FFFFFFFFFFFFC0#64
  | 2 => 0x01FFFFFFFFFFFFC0#64
  | 3 => 0

/-- The announced indices from HEAD to the highest, in ring order, with the passed-over ones left out (R347). -/
def Queue.announcedRange (x : Queue) : List Nat :=
  match x.highest with
  | none => []
  | some hi => (rangeFrom x.head.toNat (hi.toNat + 1 - x.head.toNat)).filter x.announced

/-- The killed signal of a record that an unregistered queue still held: at once, or behind what the scheduler has left to do (R347,
R344). -/
def State.dropRecord (s : State) (x : Queue) (i : Nat) : State :=
  let d := Due.drop x.part (x.ring + 64 * (i % x.size))
  if s.due.any fun y => y.of == x.part.val then { s with due := s.due ++ [d] }
  else match s.tryDue d with
  | (true, s) => s
  | (false, s) => { s with due := s.due ++ [d] }

/-- V of a queue cleared (R347). -/
def State.unregister (s : State) (q : BitVec 16) : State :=
  match s.queue? q with
  | none => s
  | some x =>
    if !x.valid then s
    else
      let idx := x.announcedRange
      let s := idx.foldl (fun s i => s.dropRecord x i) s
      let s := { s with eligible := s.eligible.filter fun e => e.queue != q }
      let s := match idx.getLast? with
        | some i => s.setHead q (i + 1)
        | none => s
      s.updQueue q fun y => { y with qd0 := y.qd0 &&& 0x7FFFFFFFFFFFFFFF#64, window := 0, highest := none, slot := none }

/-- QUEUE_UNREGISTER (R347). -/
def execQueueUnregister (q : BitVec 16) (s : State) : Host.Outcome State Fault Refusal := .next (s.unregister q)

/-- A write of a descriptor word (R346): only while V = 0, except a write that clears V; V with a LOG2N outside 4 to 8 is ignored. -/
def State.writeQd (s : State) (q : BitVec 16) (word : Fin 4) (w : Word) : State :=
  let w := w &&& qdMask word
  let s := if s.queues.any fun x => x.q == q then s else { s with queues := s.queues ++ [Queue.fresh q] }
  match s.queue? q with
  | none => s
  | some x =>
    if x.valid then
      if word == 0 && !w.getLsbD 63 then (s.unregister q).updQueue q fun x => { x with qd0 := w } else s
    else match word with
    | 0 =>
      if w.getLsbD 63 && (fld w.toNat 54 51 < 4 || 8 < fld w.toNat 54 51) then s
      else s.updQueue q fun x => { x with qd0 := w, since := s.epochs, offset := s.offset }
    | 1 => s.updQueue q fun x => { x with qd1 := w }
    | 2 => s.updQueue q fun x => { x with qd2 := w }
    | 3 => s

/-- QD_WRITE (R346). -/
def execQdWrite (q : BitVec 16) (word : Fin 4) (w : Word) (s : State) : Host.Outcome State Fault Refusal := .next (s.writeQd q word w)

/-- QD3 as it reads (R346). -/
def State.readQd3 (s : State) (x : Queue) : Word :=
  let st := if x.slot.isSome then 2 else if x.ready then 1 else 0
  BitVec.ofNat 64 (st * 2 ^ 62 + x.slot.getD 0 * 2 ^ 51 + (if x.ready then s.levelOf x else x.prio) * 2 ^ 48)

/-! ### A frozen hart -/

/-- The freeze of a hart lifted (R336). -/
def Hart.unfreeze (h : Hart) : Hart := { h with frozen := false }

/-- An unfreeze of a hart whose gang is away: it resumes without the freeze (R336). -/
def Saved.unfreeze (v : Saved) (id : HartId) : Saved :=
  let all := v.harts.any fun h => h.id == id && h.imbalanced
  { v with harts := v.harts.map fun h => if h.frozen && (h.id == id || (all && h.imbalanced)) then h.unfreeze else h }

/-- Whether a context, or a management core, holds a hart. -/
def Hart.resident (h : Hart) : Bool := h.wait != .vacant && h.wait != .ended

/-- An unfreeze of one hart; a phase imbalance is lifted for the whole gang and sweeps again (R336). The write is ignored while the
context holds a hart that is not frozen; where it holds none, the hart is looked for among the gangs that are away. -/
def State.unfreeze (s : State) (id : HartId) : State :=
  match (s.hart? id).filter Hart.resident with
  | some h =>
    if !h.frozen then s
    else match h.imbalanced, h.gang with
      | true, some g =>
        (s.mapHarts fun x => if x.inGang g && x.imbalanced then x.unfreeze else x).updGang g fun x => { x with sweeps := 0 }
      | _, _ => s.updHart id Hart.unfreeze
  | none => { s with saved := s.saved.map fun v => v.unfreeze id }

/-- FRZCMD_UNFREEZE (R336). -/
def execFrzcmdUnfreeze (id : Nat) (s : State) : Host.Outcome State Fault Refusal := .next (s.unfreeze id)

/-- A gang killed where it is resident: windows dropped without write-back, regions and tile names freed, the counter signalled
as killed (R336, R344). -/
def State.killGang (s : State) (g : Nat) : State := s.endGang g true

/-- A gang killed while it is away: its context area is discarded (R336). -/
def State.killAway (s : State) (id : HartId) : State :=
  match s.saved.find? fun v => v.harts.any fun h => h.id == id && h.frozen with
  | none => s
  | some v =>
    let s := { s with saved := s.saved.filter fun w => w.gang.id != v.gang.id }
    let s := s.updPart v.gang.part.val fun p => { p with usedSlots := p.usedSlots.filter (· != v.slot) }
    s.signalGang v.gang true

/-- A kill written for a frozen hart (R336). -/
def State.kill (s : State) (id : HartId) : State :=
  match (s.hart? id).filter Hart.resident with
  | some h =>
    if !h.frozen then s
    else match h.gang with
      | some g => s.killGang g
      | none => s
  | none => s.killAway id

/-- FRZCMD_KILL (R336). -/
def execFrzcmdKill (id : Nat) (s : State) : Host.Outcome State Fault Refusal := .next (s.kill id)

/-! ### Partitions -/

/-- The defined fields of PARTp (R328). -/
def partMask : Word := 0x800000FFFFFF00FF#64

/-- Whether a gang of a partition is resident. -/
def State.gangResident (s : State) (p : Nat) : Bool := s.gangs.any fun g => g.part.val == p

/-- Whether PARTp takes a value; otherwise the write raises the reserved-operand trap (R328). -/
def State.partWriteOk (s : State) (p : Nat) (w : Word) : Bool :=
  let old := (s.partAt p).part
  let w := w &&& partMask
  let clash := w.getLsbD 63 && (List.range 8).any fun q =>
    q != p && (s.partAt q).part.getLsbD 63 && ((s.partAt q).part &&& w &&& 0x000000FFFFFF00FF#64) != 0
  let change := s.gangResident p && ((old &&& 0x000000FFFFFF00FF#64) != (w &&& 0x000000FFFFFF00FF#64)
    || (old.getLsbD 63 && !w.getLsbD 63))
  !clash && !change

/-- PARTp written. -/
def State.writePart (s : State) (p : Nat) (w : Word) : State :=
  if s.partWriteOk p w then s.updPart p fun q => { q with part := w &&& partMask } else s

/-- PART_WRITE (R328): a write that the rule refuses leaves the register unchanged; the trap is that of the instruction that makes
the write. -/
def execPartWrite (p : Fin 8) (w : Word) (s : State) : Host.Outcome State Fault Refusal := .next (s.writePart p.val w)

end Sys2Proof.Machine
end

