-- ==== Sys2Proof/Machine/Context.lean ====
section
/-! DEFINITION. Pre-emption and resumption: the context area (R385 to R387), the save of a gang (R384, R109, R355), and its return
(R388, R110, R111, R356). -/

namespace Sys2Proof.Machine

/-! ### The context area -/

/-- A value at a byte offset of an area that is built as one number. -/
def placeAt (off x : Nat) : Nat := x * 2 ^ (8 * off)

/-- Words of 8 bytes from an offset up. -/
def placeWords (off : Nat) (ws : List Nat) : Nat := placeAt off (packWords ws)

/-- n bytes at an offset of an area. -/
def cutAt (x off n : Nat) : Nat := x / 2 ^ (8 * off) % 2 ^ (8 * n)

/-- A word of an area. -/
def cutWord (x off : Nat) : Nat := cutAt x off 8

/-- Bytes of a hart record. -/
def recordBytes : Nat := 0x60000

/-- HCTL as it reads (R326). -/
def Hart.hctl (h : Hart) : Nat :=
  (if h.frozen then 2 ^ 11 else 0) + (if h.skew then 2 ^ 8 else 0) + h.part.val * 16 + h.prv.code

/-- GBR (R63). -/
def Gang.gbr (g : Gang) : Nat := g.size * 2 ^ 48 + g.arr * 2 ^ 32 + g.gen.toNat

/-- A grant in [4:0] and [11:8]. -/
def grantBits (g : Grant) : Nat := g.lanes + g.q * 2 ^ 8

/-- The gang header (R387). -/
def Gang.header (g : Gang) (prio harts burls : Nat) : Nat :=
  let pend := match g.pending with
    | some p => 2 ^ 31 + grantBits p * 2 ^ 16
    | none => 0
  let mode := match g.phase with
    | some (true, _) => 1
    | _ => 0
  placeWords 0 [g.gbr, grantBits g.grant + pend, g.sent.toNat, g.received.toNat, mode + g.sweeps % 256 * 2 ^ 8,
    g.queue.toNat + g.cls.toNat * 2 ^ 16 + prio * 2 ^ 24, g.sig.toNat, harts + burls * 2 ^ 16]

/-- The words of a trap set in register order (R373). -/
def TrapSet.words (t : TrapSet) : List Nat :=
  [t.tbase, t.tresume, t.tcause, t.tdeta, t.tdetb, t.tstate, t.tframe].map BitVec.toNat

/-- The eleven words of a residency register (R387). -/
def KReg.area (k : KReg) : List Nat :=
  [k.base.toNat, k.cfgWord.toNat] ++ ((List.finRange 4).flatMap fun d => [k.dimA[d].toNat, k.dimB[d].toNat]) ++ [k.cnt.toNat]

/-- The part of a record from a tile (R387). -/
def Tile.area (t : Tile) : Nat :=
  placeAt 0 t.elems.toNat + placeAt 0x10000 t.rs.toNat + placeAt 0x10200 t.cs.toNat + placeAt 0x10400 t.ra.toNat
    + placeAt 0x10600 t.ca.toNat + placeAt 0x10800 ((if t.u then 1 else 0) + (if t.d then 2 else 0))

/-- A hart record (R387): `parent` is the index of the parent's record, `burl` that of each handle's Burl record. -/
def Hart.record (h : Hart) (parent : Nat) (burl : Word → Nat) : Nat :=
  placeWords 0 h.frameWords
    + placeWords 0x200 ([h.pc.toNat % 2 ^ 57, h.hctl] ++ h.sset.words ++ h.mset.words
      ++ [h.frzst.toNat, h.frzadr.toNat, h.index, parent]
      ++ (List.range 4).map fun i => (h.c[2 * i]?.getD 0).toNat + 2 ^ 32 * (h.c[2 * i + 1]?.getD 0).toNat)
    + placeWords 0x400 (h.tag.toList.map BitVec.toNat)
    + placeWords 0x500 (h.f.toList.map BitVec.toNat)
    + placeWords 0x540 (h.h.toList.map fun w => w.toNat + burl w)
    + ((List.finRange 16).map fun i => placeWords (0x800 + 128 * i.val) (h.k[i]).area).sum
    + ((List.finRange 16).map fun i => placeAt (0x1000 + 2048 * i.val) (h.m[i]).toNat).sum
    + ((List.finRange 32).map fun i => placeAt (0x9000 + 2048 * i.val) (h.v[i]).toNat).sum
    + ((List.finRange 4).map fun n => if n.val < h.tiles then placeAt (0x19000 + 0x11000 * n.val) (h.t[n]).area else 0).sum

/-- The header of a Burl record; the places of its fields are the model's (R387 gives none). -/
def Region.header (r : Region) : Nat :=
  placeWords 0 [2 ^ 63 + (match r.name with
      | some n => 2 ^ 62 + n * 2 ^ 32
      | none => 0) + r.off / 4096 * 2 ^ 13 + r.log2 * 2 ^ 8, r.spb, r.scap, r.scnt, r.kfmt, r.vfmt, r.sstr,
    (r.slots.filter fun e => e.2.isSome).length] + placeAt 64 r.ovf.toNat

/-- A Burl record: its header, and the region's bytes in the device's own form, which are open (R387). -/
def Region.area (r : Region) (draw : Nat) : Nat := r.header + placeAt 4096 (Config.freeBits (8 * 2 ^ r.log2) draw).toNat

/-- Bytes of the Burl records of a gang. -/
def burlBytes (rs : List Region) : Nat := (rs.map fun r => 4096 + 2 ^ r.log2).sum

/-! ### The context engine -/

/-- MID of the context engine of a partition (R386, R330). -/
def ctxMid (p : Nat) : Nat := 0x2400 + p

/-- An engine listed as frozen. -/
def Partition.addFrozen (q : Partition) (mid : Nat) : Partition :=
  { q with frozenEngines := if q.frozenEngines.contains mid then q.frozenEngines else q.frozenEngines ++ [mid] }

/-- An autonomous engine of a partition stopped by a violation (R334, R411). -/
def State.freezeUnit (s : State) (p mid : Nat) : State := (s.updPart p fun q => q.addFrozen mid).signalS p 1 true

/-- Whether the context engine of a partition runs (R334). -/
def State.ctxRuns (s : State) (p : Nat) : Bool := !(s.partAt p).frozenEngines.contains (ctxMid p)

/-- The host address of a place in the host window that holds a context area (R415); none without a translation. -/
def State.ctxHost (s : State) (p a : Nat) : Option Nat :=
  match (s.hostProbe p a false).1 with
  | .ok (.host b _) => some b
  | _ => none

/-- The pages of the host window that n sectors of a context area reach, translated: false while the host has yet to translate one
(R415, R416). -/
def State.ctxPages (s : State) (p pa : Nat) : Nat → Bool × State
  | 0 => (true, s)
  | n + 1 =>
    match placeOf pa with
    | .host a =>
      match s.hostProbe p a false with
      | (.error (.stall _), s) => (false, (s.ctxPages p (pa + 4096) n).2)
      | (_, s) => s.ctxPages p (pa + 4096) n
    | _ => (true, s)

/-- Whether an area can be reached now, with the translations asked for that it lacks. -/
def State.ctxReach (s : State) (p pa sectors : Nat) : Bool × State := s.ctxPages p pa (sectors / 64)

/-- One sector of a context area stored; false when it fails. -/
def State.ctxStore (s : State) (p pa x : Nat) : Bool × State :=
  match placeOf pa with
  | .dram u =>
    match s.denied (.mem u) (ctxMid p) .wr with
    | some _ => (false, s.freezeUnit p (ctxMid p))
    | none => (true, ((s.storeSector (ctxMid p) u pa 0 (x % 2 ^ 512) (2 ^ 64 - 1)).2).request (ctxMid p) u 0)
  | .host a =>
    match s.ctxHost p a with
    | some b => (true, (s.breakLine ((2 ^ 50 + b) / 64)).pokeBytes (ctxMid p) (2 ^ 50 + b) 64 x (2 ^ 64 - 1))
    | none => (false, s)
  | _ => (false, s)

/-- n sectors stored from an address up. -/
def State.ctxStores (s : State) (p pa : Nat) : Nat → Nat → Bool × State
  | 0, _ => (true, s)
  | n + 1, x =>
    match s.ctxStore p pa x with
    | (true, s) => s.ctxStores p (pa + 64) n (x / 2 ^ 512)
    | r => r

/-- Why a context area gives no data. -/
inductive Unread where
  /-- A table refuses the access, which stops the engine (R334). -/
  | refused
  /-- Class 3 or 4, or an area that is not there (R388). -/
  | failed
deriving DecidableEq, Repr

/-- One sector of a context area read. -/
def State.ctxLoad (s : State) (p pa : Nat) : Except Unread Nat × State :=
  match placeOf pa with
  | .dram u =>
    match s.denied (.mem u) (ctxMid p) .rd with
    | some _ => (.error .refused, s.freezeUnit p (ctxMid p))
    | none =>
      let (d, s) := s.readSector (ctxMid p) u pa 0
      (if 3 ≤ d.cls then .error .failed else .ok d.data, s.request (ctxMid p) u 0)
  | .host a =>
    (match s.ctxHost p a with
      | some b => .ok (Memory.readN s.mem (2 ^ 50 + b) 64)
      | none => .error .failed, s)
  | _ => (.error .failed, s)

/-- n sectors read from an address up. -/
def State.ctxLoads (s : State) (p pa : Nat) : Nat → Except Unread Nat × State
  | 0 => (.ok 0, s)
  | n + 1 =>
    match s.ctxLoad p pa with
    | (.error e, s) => (.error e, s)
    | (.ok x, s) =>
      match s.ctxLoads p (pa + 64) n with
      | (.error e, s) => (.error e, s)
      | (.ok y, s) => (.ok (x + 2 ^ 512 * y), s)

/-- Several areas stored one after another, each with its number of sectors. -/
def State.ctxAreas (s : State) (p pa : Nat) : List (Nat × Nat) → Bool × State
  | [] => (true, s)
  | (n, x) :: rest =>
    match s.ctxStores p pa n x with
    | (true, s) => s.ctxAreas p (pa + 64 * n) rest
    | r => r

/-! ### Saving a gang -/

/-- Physical address of a context slot (R386). -/
def Partition.slotBase (p : Partition) (i : Nat) : Nat := fld p.ctxp.toNat 51 21 * 2 ^ 21 + i * fld p.ctxn.toNat 15 0 * 2 ^ 20

/-- The lowest free context slot. -/
def Partition.freeCtx (p : Partition) : Option Nat :=
  if bitOf p.ctxp.toNat 63 then firstBelow (fun i => !p.usedSlots.contains i) (fld p.ctxn.toNat 31 16) else none

/-- Every matrix entry of a gang completed, with those that stand before it in its core's queue (R355). -/
def State.drainMatrix (g : Nat) : Nat → State → State
  | 0, s => s
  | n + 1, s =>
    match s.mxq.find? fun e => ((s.hart? e.hart).map fun h => h.inGang g).getD false with
    | none => s
    | some e => State.drainMatrix g n (s.completeEntry (coreOf e.hart))

/-- One valid residency register before a save: its fetches abandoned, dirty elements written back, the set dropped (R109). -/
def State.dropSet (s : State) (h : Hart) (i : KIdx) : State × Hart :=
  let k := h.kr i
  if k.phase != .valid then (s, h)
  else
    let b := k.box h.c
    let (s, h) := if b.isEmpty then (s, h) else s.leaveAll h i b.elements
    (s, h.putK i { h.kr i with flights := [] })

/-- One hart stopped for a save: its lane block left (R42), its windows dropped. -/
def State.settleHart (s : State) (id : HartId) : State :=
  match s.hart? id with
  | none => s
  | some h =>
    let (s, h) := (List.finRange 16).foldl (fun (p : State × Hart) i => p.1.dropSet p.2 i) (s, h.leaveLane)
    s.updHart id fun _ => { h with win := [] }

/-- The harts of a gang whose records are saved (R385): launched harts by index, then their children, then the children of those. -/
def State.savedHarts (s : State) (g : Gang) : List Hart :=
  let hs := s.harts.filter fun h => h.inGang g.id && h.wait != .ended && h.wait != .vacant
  let below (xs : List Hart) : List Hart := xs.filterMap fun r => hs.find? fun h => h.parent == some r.id
  let roots := (List.range g.size).filterMap fun i => hs.find? fun h => h.parent.isNone && h.index == i
  roots ++ below roots ++ below (below roots)

/-- The wait in which a hart resumes: stalled probes are made again (R369, R388). -/
def Wait.resumed (w : Wait) : Wait :=
  match w with
  | .barrier => .barrier
  | .phase => .phase
  | .join => .join
  | _ => .run

/-- What the hardware keeps beside a hart record: everything that no field of it holds, and the fields that software may not
write. -/
def Hart.kept (h : Hart) : Hart :=
  { Hart.vacant h.id with
    gang := h.gang, index := h.index, parent := h.parent, child := h.child, depth := h.depth, wait := h.wait.resumed, frozen := h.frozen
    prv := h.prv, part := h.part, tiles := h.tiles, k := h.k, h := h.h, fcs := h.fcs, grant := h.grant, forkGrant := h.forkGrant
    pending := h.pending, laneBase := h.laneBase, sset := h.sset, mset := h.mset, frzst := h.frzst, frzadr := h.frzadr
    linkGen := h.linkGen, unacked := h.unacked, view := h.view, ir := h.ir }

/-- The context area of a gang: header, hart records, Burl records, as sectors. -/
def areaOf (g : Gang) (prio : Nat) (hs : List Hart) (rs : List Region) (draw : Nat) : List (Nat × Nat) :=
  let burl (h : Hart) (w : Word) : Nat :=
    if handleValid w then (rs.findIdx? fun r => r.core == coreOf h.id && r.off == handleOff w).getD 0 else 0
  let parent (h : Hart) : Nat := match h.parent with
    | some p => (hs.findIdx? fun x => x.id == p).getD 0
    | none => 2 ^ 64 - 1
  [(64, g.header prio hs.length rs.length)]
    ++ hs.map (fun h => (recordBytes / 64, h.record (parent h) (burl h)))
    ++ rs.zipIdx.map fun r => ((4096 + 2 ^ r.1.log2) / 64, r.1.area (draw + r.2))

/-- A gang that its area failed: killed, with its signal and interrupt code 2 (R388). -/
def State.failGang (s : State) (g : Nat) (p : Nat) : State := (s.killGang g).signalS p 2 true

/-- Whether a hart of a gang that is leaving goes on for now (R384): an instruction that pre-emption never divides is under way, or a
trap is being entered. -/
def Hart.underWay (h : Hart) : Bool :=
  h.undivided || match h.wait with
    | .trap _ => true
    | _ => false

/-- Whether a save has to wait for a hart (R384, R355): it goes on for now, or a dirty window element cannot be written back yet (R133,
R134). -/
def State.holdsUp (s : State) (h : Hart) : Bool :=
  (!h.frozen && h.underWay)
    || (List.finRange 16).any fun i =>
      let k := h.k[i]
      h.win.any fun e => e.dirty && e.holders.getLsbD i.val
        && !s.inTurn h k e.x true

/-- Whether write-backs of some harts have still to be performed at a lessor (R109). -/
def State.writesBack (s : State) (hs : List Hart) : Bool :=
  s.link.sent.any fun r => peerStores r.op && hs.any fun h => r.id == chuckId h.id

/-- Requests to lessors that a gang's harts and their engines still have out. -/
def State.sentFor (s : State) (hs : List Hart) : List Sent :=
  s.link.sent.filter fun r => peerStores r.op && hs.any fun h => h.id == askerOf r.id

/-- The area of a stopped gang stored in its slot, and its contexts released (R385 to R387). -/
def State.saveGang (s : State) (g : Nat) (x : Gang) (i : Nat) : State :=
  let p := x.part.val
  let hs := s.savedHarts x
  let rs := s.regions.filter fun r => r.gang == g
  let x := { x with leaving := none }
  match s.ctxAreas p ((s.partAt p).slotBase i) (areaOf x x.prio hs rs s.free) with
  | (false, s) => s.failGang g p
  | (true, s) =>
    let v : Saved := ⟨x, i, hs.map Hart.kept, rs, x.prio, s.epochs, s.sentFor hs⟩
    let s := ({ s with free := s.free + rs.length }.loseWindows g).removeHarts g
    { s with
      gangs := s.gangs.filter fun y => y.id != g
      saved := s.saved ++ [v] }

/-- What a gang that is leaving does (R384): once nothing holds it up, its matrix entries are completed and its windows dropped; once its
write-backs are performed and its slot can be reached, it is saved. -/
def State.leave (s : State) (g : Nat) (x : Gang) (i : Nat) : State :=
  let p := x.part.val
  if (s.savedHarts x).any s.holdsUp then s
  else
    let s := State.drainMatrix g s.mxq.length s
    let s := ((s.savedHarts x).map Hart.id).foldl State.settleHart s
    let hs := s.savedHarts x
    let area := 64 + hs.length * (recordBytes / 64) + burlBytes (s.regions.filter fun r => r.gang == g) / 64
    if s.writesBack hs then s
    else match s.ctxReach p ((s.partAt p).slotBase i) area with
    | (false, s) => s
    | (true, s) => s.saveGang g ((s.gang? g).getD x) i

/-- GANG_PREEMPT (R384 to R387): the save of a resident gang, begun or gone on with. Its Mandrel commands and collectives go on while it
is away. Without a free slot the save is not begun, and interrupt code 6 is raised. -/
def State.preempt (s : State) (g : Nat) : State :=
  match s.gang? g with
  | none => s
  | some x =>
    let p := x.part.val
    if !s.ctxRuns p then s
    else match x.leaving with
    | some i => s.leave g x i
    | none =>
      match (s.partAt p).freeCtx with
      | none => s.signalS p 6 true
      | some i =>
        let s := s.updPart p fun q => { q with usedSlots := q.usedSlots ++ [i] }
        let s := s.updGang g fun y => { y with leaving := some i }
        s.leave g { x with leaving := some i } i

/-- GANG_PREEMPT (R384). -/
def execGangPreempt (g : Nat) (s : State) : Host.Outcome State Fault Refusal := .next (s.preempt g)

/-! ### Time slices -/

/-- Effective priority of a gang that is away (R356, R350). -/
def State.savedLevel (s : State) (v : Saved) : Nat := aged v.prio v.since s.epochs

/-- Whether a gang of equal priority waits in a partition (R355). -/
def State.equalWaits (s : State) (x : Gang) : Bool :=
  (s.eligible.any fun e => (s.queue? e.queue).any fun q => q.part == x.part && s.levelOf q == x.prio)
    || s.saved.any fun v => v.gang.part == x.part && s.savedLevel v == x.prio

/-- Whether the slice of a gang has run (R357) while an equal waits (R355), at a hart of it that takes the end: a frozen hart takes none
(R334), so a gang with every hart frozen keeps its contexts. -/
def State.sliceRun (s : State) (x : Gang) : Bool :=
  max 10 (fld (s.partAt x.part.val).sch.toNat 15 0) ≤ 20 * (s.epochs + 1 - x.slice) && s.equalWaits x
    && s.harts.any fun h => h.inGang x.id && h.resident && !h.frozen

/-- TIME_SLICE_END (R355): the gang is pre-empted. -/
def State.sliceEnd (s : State) (g : Nat) : State :=
  match s.gang? g with
  | none => s
  | some x => if s.sliceRun x then s.preempt g else s

/-- TIME_SLICE_END (R355). -/
def execTimeSliceEnd (g : Nat) (s : State) : Host.Outcome State Fault Refusal := .next (s.sliceEnd g)

/-! ### Resuming a gang -/

/-- RW fields of a trap set taken from an area; RO fields stay as the hardware holds them (R388, R196). -/
def TrapSet.take (t : TrapSet) (x off : Nat) : TrapSet :=
  { t with
    tbase := BitVec.ofNat 64 (cutWord x off) &&& 0x01FFFFFFFFFFFFFC#64
    tresume := BitVec.ofNat 64 (cutWord x (off + 8)) &&& 0x01FFFFFFFFFFFFFF#64
    tstate := BitVec.ofNat 64 (putFld (putFld t.tstate.toNat 15 8 (fld (cutWord x (off + 40)) 15 8)) 6 6 (fld (cutWord x (off + 40)) 6 6))
    tframe := BitVec.ofNat 64 (cutWord x (off + 48)) &&& 0x01FFFFFFFFFFFE00#64 }

/-- A tile read from its place in a record. -/
def Tile.ofArea (x : Nat) : Tile :=
  ⟨BitVec.ofNat 524288 (cutAt x 0 0x10000), BitVec.ofNat 4096 (cutAt x 0x10000 512), BitVec.ofNat 4096 (cutAt x 0x10200 512),
    BitVec.ofNat 4096 (cutAt x 0x10400 512), BitVec.ofNat 4096 (cutAt x 0x10600 512), bitOf (cutAt x 0x10800 8) 0,
    bitOf (cutAt x 0x10800 8) 1⟩

/-- The hart that a record restores in a context (R388); a reserved rounding mode is not taken (R196). Every field of k0 to k15 and h0 to h3
is marked RO (R90, R300): what software wrote there is not taken, and they stay as the hardware holds them. -/
def Hart.fromRecord (h : Hart) (id : HartId) (parent child : Option HartId) (x : Nat) (grant : Grant) (pending : Option Grant)
    (tiles : Vector (Fin 4) 4) : Hart :=
  let ws := (List.range 64).map fun i => cutWord x (8 * i)
  let r := h.restore (ws.drop 1)
  { r with
    id := id, parent := parent, child := child
    fcs := if fld (ws.getD 50 0) 10 8 < 6 then r.fcs else h.fcs
    pc := BitVec.ofNat 64 (cutWord x 0x200 % 2 ^ 57)
    skew := bitOf (cutWord x 0x208) 8
    sset := h.sset.take x 0x210
    mset := h.mset.take x 0x248
    c := Vector.ofFn fun i => BitVec.ofNat 32 (cutAt x (0x2A0 + 4 * i.val) 4)
    tag := Vector.ofFn fun i => BitVec.ofNat 64 (cutWord x (0x400 + 8 * i.val)) &&& 0xFFFF0000FF00031F#64
    f := Vector.ofFn fun i => BitVec.ofNat 32 (cutAt x (0x500 + 8 * i.val) 4) &&& 0xFF0701FF#32
    m := Vector.ofFn fun i => if i.val = 0 then 0 else BitVec.ofNat 16384 (cutAt x (0x1000 + 2048 * i.val) 2048)
    v := Vector.ofFn fun i => BitVec.ofNat 16384 (cutAt x (0x9000 + 2048 * i.val) 2048)
    t := Vector.ofFn fun n => if n.val < h.tiles then Tile.ofArea (cutAt x (0x19000 + 0x11000 * n.val) 0x11000) else Tile.zero
    tileMap := tiles
    grant := ⟨h.share grant.lanes, grant.q⟩
    forkGrant := ⟨max 4 (grant.lanes / 2 ^ h.depth), grant.q⟩
    pending := if h.pending.isSome then pending else none }

/-- Whether a handle of a hart names a region (R300). -/
def Hart.holds (h : Hart) (r : Region) : Bool :=
  coreOf h.id == r.core && h.h.toList.any fun w => handleValid w && handleOff w == r.off

/-- The core that a region of a resumed gang moves to: that of the harts whose handles name it (R300). -/
def newCore (hs : List Hart) (slots : List Slot) (r : Region) : Option Nat :=
  ((hs.zip slots).find? fun y => y.1.holds r).map fun y => y.2.core

/-- Whether a range of a core's scratchpad is free of every window and region (R111). -/
def State.rangeFree (s : State) (core off n : Nat) : Bool :=
  (s.harts.all fun h => coreOf h.id != core || h.wait == .vacant || h.k.toList.all fun k =>
      k.phase == .invalid || !overlaps off n k.window.1 k.window.2)
    && s.regions.all fun r => r.core != core || !overlaps off n r.off (2 ^ r.log2)

/-- The scratchpad bytes that a saved gang takes: the windows and regions of its harts on their new cores, at the same offsets. -/
def Saved.claims (v : Saved) (slots : List Slot) : List (Nat × Nat × Nat) :=
  ((v.harts.zip slots).flatMap fun y =>
      (y.1.k.toList.filter fun k => k.phase != .invalid).map fun k => (y.2.core, k.window.1, k.window.2))
    ++ v.regions.map fun r => ((newCore v.harts slots r).getD r.core, r.off, 2 ^ r.log2)

/-- Whether no two ranges of a list meet. -/
def disjointRanges : List (Nat × Nat × Nat) → Bool
  | [] => true
  | x :: xs => xs.all (fun y => x.1 != y.1 || !overlaps x.2.1 x.2.2 y.2.1 y.2.2) && disjointRanges xs

/-- Whether slots can take a saved gang (R352, R356, R111): free contexts of one cluster of the partition, reservations kept, harts
of a fork or of one region together on a core, and the same window and region bytes free. -/
def State.resumeOk (s : State) (v : Saved) (slots : List Slot) : Bool :=
  let g := v.gang
  let bytes := g.spad * 256 + g.burl * 4096
  let ys := v.harts.zip slots
  let roots (core : Nat) : Nat := (ys.filter fun y => y.2.core == core && y.1.parent.isNone).length
  let all (core : Nat) : Nat := (ys.filter fun y => y.2.core == core).length
  slots.length == v.harts.length && slots.eraseDups.length == slots.length
    && slots.all (fun x => x.core < 384 && x.ctx < 4 && x.core / 96 == ((slots.head?.map Slot.core).getD 0) / 96
      && (s.partAt g.part.val).holdsCore x.core && s.contextFree (4 * x.core + x.ctx)
      && all x.core ≤ ((List.range 4).filter fun c => s.contextFree (4 * x.core + c)).length
      && s.reservedBytes x.core + roots x.core * bytes ≤ spadBytes && s.reservedTiles x.core + roots x.core * g.tiles ≤ 4)
    && (ys.all fun y => ys.all fun z => y.2.core == z.2.core
      || !(y.1.parent == some z.1.id || v.regions.any fun r => y.1.holds r && z.1.holds r))
    && (v.claims slots).all (fun x => s.rangeFree x.1 x.2.1 x.2.2) && disjointRanges (v.claims slots)

/-- Whether every access that a gang issued before its save has been performed (R384): its Mandrel commands, its collectives, and the
stores to lessors that it and its engines had out. -/
def State.settled (s : State) (v : Saved) : Bool :=
  let out (r : Sent) : Bool := v.sent.contains r || v.harts.any fun h => r.id == engineId h.id
  !(s.nmcq.any fun c => c.gang == some v.gang.id)
    && !((s.link.instances.flatMap Instance.joins).any fun j => (j.hart.bind Poster.gang) == some v.gang.id)
    && !s.link.sent.any out

/-- The slots on which a scheduler resumes a gang: the saved contexts, or else the first free ones of a cluster. -/
def State.resumeSlots (s : State) (v : Saved) : List Slot :=
  let same := v.harts.map fun h => (⟨coreOf h.id, h.id % 4⟩ : Slot)
  if s.resumeOk v same then same
  else
    let bytes := v.gang.spad * 256 + v.gang.burl * 4096
    s.chooseSlots v.gang.part.val v.harts.length bytes v.gang.tiles

/-- Whether the header of an area is one that a save could have written, but for the fields that software may set (R388); no grant
exceeds the record's request (R24). -/
def Gang.headerOk (g : Gang) (x harts burls : Nat) : Bool :=
  let gr := cutWord x 8
  let ok (lanes q : Nat) : Bool :=
    (lanes == 4 || lanes == 8 || lanes == 16) && lanes ≤ g.request.lanes && 1 ≤ q && q ≤ g.request.q
  fld (cutWord x 0) 56 48 == g.size && fld (cutWord x 0x38) 15 0 == harts && fld (cutWord x 0x38) 31 16 == burls
    && ok (fld gr 4 0) (fld gr 11 8) && (!bitOf gr 31 || ok (fld gr 20 16) (fld gr 27 24))

/-- The gang that a header restores (R388). -/
def Gang.ofHeader (g : Gang) (x : Nat) (grant : Grant) : Gang :=
  let gr := cutWord x 8
  { g with
    grant := grant
    pending := if bitOf gr 31 then some ⟨fld gr 20 16, fld gr 27 24⟩ else none
    sent := BitVec.ofNat 64 (cutWord x 0x10)
    received := BitVec.ofNat 64 (cutWord x 0x18)
    phase := g.phase.map fun m => (bitOf (cutWord x 0x20) 0, m.2)
    sweeps := fld (cutWord x 0x20) 15 8
    queue := BitVec.ofNat 16 (cutWord x 0x28)
    cls := BitVec.ofNat 2 (cutWord x 0x28 / 2 ^ 16)
    sig := BitVec.ofNat 64 (cutWord x 0x30) }

/-- A gang that is away ended as killed: its slot freed, its counter signalled, interrupt code 2 raised (R388). -/
def State.failAway (s : State) (v : Saved) : State :=
  let p := v.gang.part.val
  let s := { s with saved := s.saved.filter fun w => w.gang.id != v.gang.id }
  let s := s.updPart p fun q => { q with usedSlots := q.usedSlots.filter (· != v.slot) }
  (s.signalGang v.gang true).signalS p 2 true

/-- The Burl records read back, each header compared (R388). -/
def State.burlsOk (s : State) (p : Nat) : Nat → List Region → Except Unread Unit × State
  | _, [] => (.ok (), s)
  | pa, r :: rs =>
    match s.ctxLoads p pa 64 with
    | (.error e, s) => (.error e, s)
    | (.ok x, s) =>
      if x != r.header then (.error .failed, s)
      else match s.ctxLoads p (pa + 4096) (2 ^ r.log2 / 64) with
      | (.error e, s) => (.error e, s)
      | (.ok _, s) => s.burlsOk p (pa + 4096 + 2 ^ r.log2) rs

/-- The hart records read, in order. -/
def State.readRecords (s : State) (p : Nat) : Nat → Nat → Except Unread (List Nat) × State
  | _, 0 => (.ok [], s)
  | pa, n + 1 =>
    match s.ctxLoads p pa (recordBytes / 64) with
    | (.error e, s) => (.error e, s)
    | (.ok x, s) =>
      match s.readRecords p (pa + recordBytes) n with
      | (.error e, s) => (.error e, s)
      | (.ok xs, s) => (.ok (x :: xs), s)

/-- The area of a gang that is away, read and checked: its header and its hart records (R388). -/
def State.readArea (s : State) (v : Saved) (base : Nat) : Except Unread (Nat × List Nat) × State :=
  let p := v.gang.part.val
  match s.ctxLoads p base 64 with
  | (.error e, s) => (.error e, s)
  | (.ok x, s) =>
    if !v.gang.headerOk x v.harts.length v.regions.length then (.error .failed, s)
    else match s.readRecords p (base + 4096) v.harts.length with
    | (.error e, s) => (.error e, s)
    | (.ok recs, s) =>
      match s.burlsOk p (base + 4096 + v.harts.length * recordBytes) v.regions with
      | (.error e, s) => (.error e, s)
      | (.ok _, s) => (.ok (x, recs), s)

/-- The window set of a resumed register fetched as one advance from the empty set (R110). -/
def State.refillSet (s : State) (h : Hart) (i : KIdx) : State × Hart :=
  let k := h.kr i
  if k.phase != .valid then (s, h)
  else
    let b := k.box h.c
    let xs := if b.isEmpty then [] else b.elements
    let queued := h.inLine k
    s.enterAll (h.putK i { k with flights := [xs] }) i queued xs

/-- The windows of a resumed hart refetched. -/
def State.refillHart (s : State) (id : HartId) : State :=
  match s.hart? id with
  | none => s
  | some h =>
    let (s, h) := (List.finRange 16).foldl (fun (p : State × Hart) i => p.1.refillSet p.2 i) (s, h)
    s.updHart id fun _ => h

/-- One hart of a resumed gang put in its context. -/
def State.restoreHart (s : State) (v : Saved) (slots : List Slot) (x : Nat) (g : Gang) (h : Hart) (y : Slot) : State :=
  let moved (id : HartId) : Option HartId :=
    ((v.harts.zip slots).find? fun z => z.1.id == id).map fun z => 4 * z.2.core + z.2.ctx
  s.putHart (h.fromRecord (4 * y.core + y.ctx) (h.parent.bind moved) (h.child.map fun c => (moved c).getD c) x g.grant g.pending (s.mapTiles y.core))

/-- The regions of a saved gang on the cores that they move to. -/
def Saved.movedRegions (v : Saved) (slots : List Slot) : List Region :=
  v.regions.map fun r => { r with core := (newCore v.harts slots r).getD r.core }

/-- GANG_RESUME (R388): placement, the area read and checked, every hart restored, regions moved, windows refetched. -/
def State.resume (s : State) (gid : Nat) (slots : List Slot) (grant : Grant) : State :=
  match s.saved.find? fun v => v.gang.id == gid with
  | none => s
  | some v =>
    let p := v.gang.part.val
    let req := v.gang.request
    if !s.settled v || !s.resumeOk v slots || !((grant.lanes == 4 || grant.lanes == 8 || grant.lanes == 16) && grant.lanes ≤ req.lanes
        && 1 ≤ grant.q && grant.q ≤ req.q) || s.placementStopped p || !s.ctxRuns p then s
    else
      let base := (s.partAt p).slotBase v.slot
      match s.ctxReach p base (64 + v.harts.length * (recordBytes / 64) + burlBytes v.regions / 64) with
      | (false, s) => s
      | (true, s) =>
      match s.readArea v base with
      | (.error .refused, s) => s
      | (.error .failed, s) => s.failAway v
      | (.ok (x, recs), s) =>
        let g := { v.gang.ofHeader x grant with prio := s.savedLevel v, placed := s.placements, slice := s.epochs }
        let s := { s with
          saved := s.saved.filter fun w => w.gang.id != gid
          gangs := s.gangs ++ [g]
          placements := s.placements + 1
          regions := s.regions ++ v.movedRegions slots }
        let s := s.updPart p fun q => { q with usedSlots := q.usedSlots.filter (· != v.slot) }
        let s := (v.harts.zip (recs.zip slots)).foldl (fun s y => s.restoreHart v slots y.2.1 g y.1 y.2.2) s
        (slots.map fun y => 4 * y.core + y.ctx).foldl State.refillHart s

/-- GANG_RESUME (R388). -/
def execGangResume (g : Nat) (slots : List Slot) (grant : Grant) (s : State) : Host.Outcome State Fault Refusal :=
  .next (s.resume g slots grant)

end Sys2Proof.Machine
end

