-- ==== Sys2Proof/Machine/Paging.lean ====
section
/-! DEFINITION. Invalidation and stale elements (R364, R365), stalled probes (R369, R416), the migration engine (R367, R368), and the
ATS and page-request answers of the host (R415, R416). -/

namespace Sys2Proof.Machine

/-! ### Invalidation -/

/-- Bytes that INVA covers by SZ; none for the whole partition (R363). -/
def invaSize (sz : Nat) : Option Nat :=
  match sz with
  | 0 => some (2 ^ 12)
  | 1 => some (2 ^ 16)
  | 2 => some (2 ^ 21)
  | 3 => some (2 ^ 26)
  | 4 => some (2 ^ 30)
  | _ => none

/-- Whether a virtual address lies in the range of an INVA word. -/
def invaCovers (w : Word) (va : Nat) : Bool :=
  match invaSize (fld w.toNat 2 0) with
  | none => true
  | some n => va / n == fld w.toNat 56 12 * 4096 / n

/-- A residency register that holds an element. -/
def WinElem.holder (e : WinElem) : Option KIdx := (List.finRange 16).find? fun i => e.holders.getLsbD i.val

/-- One element made stale, to be fetched again, and before that written back when dirty, under the translation that the Chuck holds with
it (R365): false while the write-back has to wait. A fetch of it that is out counts no more. -/
def State.staleElem (s : State) (h : Hart) (e : WinElem) : Bool × State × Hart :=
  match e.holder with
  | none => (true, s, h)
  | some i =>
    let k := h.kr i
    if e.dirty && !s.inTurn h k e.x true then (false, s, h)
    else
      let (s, h) := if e.dirty then s.chuckWrite h k e else (s, h)
      (true, s, h.updCopy k e.x fun c => some { c with dirty := false, stale := true, arrival := .page, held := none })

/-- Which elements an invalidation covers: by the hart, the element and its virtual address. -/
abbrev Covers := Hart → WinElem → Nat → Bool

/-- Elements of a hart that an invalidation covers made stale, those that are not already so (R365); whether all of them are. -/
def State.staleHart (s : State) (covers : Covers) (id : HartId) : Bool × State :=
  match s.hart? id with
  | none => (true, s)
  | some h =>
    let es := h.win.filter fun e => !(e.stale && e.arrival == .page) && match e.holder with
      | some i => covers h e ((h.kr i).address e.x)
      | none => false
    if es.isEmpty then (true, s)
    else
      let (ok, s, h) := es.foldl (fun (p : Bool × State × Hart) e =>
        let (ok, s, h) := p.2.1.staleElem p.2.2 e
        (p.1 && ok, s, h)) (true, s, h)
      (ok, s.updHart id fun _ => h)

/-- The window elements of a partition that an invalidation covers made stale (R365); whether all of them are. -/
def State.staleWindows (s : State) (p : Nat) (covers : Covers) : Bool × State :=
  ((s.harts.filter fun h => h.part.val == p && !h.win.isEmpty).map Hart.id).foldl (fun acc id =>
    let (ok, s) := acc.2.staleHart covers id
    (acc.1 && ok, s)) (true, s)

/-- Every stale element fetched again under the new translation (R365). -/
def State.refetchAll (s : State) (p : Nat) : State :=
  ((s.harts.filter fun h => h.part.val == p && h.win.any WinElem.toFetch).map Hart.id).foldl
    (fun s id => (List.finRange 16).foldl (fun s k => s.staleRefetch id k) s) s

/-- INVA written: queued, and BUSY while any is (R364). -/
def State.writeInva (s : State) (p : Nat) (w : Word) : State :=
  s.updPart p fun q => { q with inva := q.inva ++ [w &&& 0x01FFFFFFFFFFF007#64] }

/-- INVA_WRITE (R364). -/
def execInvaWrite (p : Fin 8) (w : Word) (s : State) : Host.Outcome State Fault Refusal := .next (s.writeInva p.val w)

/-- The partition for whose harts, engines or scheduler a master asks a lessor. -/
def State.partOfMaster (s : State) (id : Nat) : Nat :=
  let m := askerOf id
  if m < 1536 then s.partOfCore (m / 4) else if isMgmt m then ((s.hart? m).map fun h => h.part.val).getD 0 else m % 8

/-- Whether every access that a partition has made at a lessor has been performed (R364). -/
def State.performedAt (s : State) (p : Nat) : Bool := s.link.sent.all fun r => s.partOfMaster r.id != p

/-- The links of a partition broken whose pages an invalidation covers (R148). -/
def State.breakCovered (s : State) (p : Nat) (covers : Nat → Bool) : State :=
  { s with links := s.links.filter fun l =>
      match s.hart? l.hart with
      | some h => h.part.val != p || !covers l.va
      | none => true }

/-- The oldest invalidation of a partition completed, once its elements are handled and the accesses made before it performed: the ATS
cache is emptied and links are broken (R148, R364, R365, R415). The model keeps no translation but those of window elements and of the
ATS cache (assumption 14). -/
def State.completeInva (s : State) (p : Nat) : State :=
  match (s.partAt p).inva with
  | [] => s
  | w :: ws =>
    let (ok, s) := s.staleWindows p fun _ _ va => invaCovers w va
    let s := s.breakCovered p (invaCovers w)
    if ok && s.performedAt p then (s.updPart p fun q => { q with inva := ws, ats := [] }).refetchAll p else s

/-- INVALIDATION_COMPLETE (R364). -/
def execInvalidationComplete (p : Fin 8) (s : State) : Host.Outcome State Fault Refusal := .next (s.completeInva p.val)

/-! ### Stalled probes -/

/-- Whether the page of a hart's stalled probe still has MIG = 1. -/
def State.stillMigrating (s : State) (h : Hart) (va : Nat) : Bool :=
  match (s.walk h.req va).1 with
  | .ok l => bitOf l.entry 58
  | .error _ => false

/-- Whether a stalled hart may probe again (R369, R416). -/
def State.mayRewalk (s : State) (h : Hart) : Bool :=
  match h.wait with
  | .probe va => !s.stillMigrating h va
  | .host page =>
    let q := s.partAt h.part.val
    q.refused.contains page || (!q.atsAsked.contains page && q.pageRequest != some page)
  | _ => false

/-- PROBE_REWALK (R369): the instruction is executed again, and probes again. -/
def State.rewalk (s : State) (id : HartId) : State :=
  match s.hart? id with
  | none => s
  | some h => if s.mayRewalk h then s.updHart id fun h => { h with wait := .run } else s

/-- PROBE_REWALK (R369). -/
def execProbeRewalk (id : Nat) (s : State) : Host.Outcome State Fault Refusal := .next (s.rewalk id)

/-! ### Migration -/

/-- MID of the migration engine of a partition (R367, R330). -/
def migMid (p : Nat) : Nat := 0x2200 + p

/-- The requester that it is. -/
def migReq (p : Nat) : Req := ⟨migMid p, .s, p, none⟩

/-- RESULT of MSTAT set. -/
def State.migResult (s : State) (p n : Nat) : State := s.updPart p fun q => { q with mresult := BitVec.ofNat 3 n }

/-- An 8-byte store of the engine at a physical address; false when a table refuses it, which stops the engine. -/
def State.migStore (s : State) (p pa x : Nat) : Bool × State :=
  match placeOf pa with
  | .dram u =>
    match s.denied (.mem u) (migMid p) .wr with
    | some _ => (false, s.freezeUnit p (migMid p))
    | none =>
      let base := pa / 64 * 64
      (true, ((s.storeSector (migMid p) u base (s.tagAt base 0) (x * 2 ^ (8 * (pa % 64))) (255 * 2 ^ (pa % 64))).2).request (migMid p) u 0)
  | .host a =>
    match s.hostProbe p a false with
    | (.ok l, s) => (true, (s.breakLine (l.key / 64)).pokeBytes (migMid p) l.key 8 x 255)
    | (.error _, s) => (false, s)
  | .lease _ _ => (true, (s.storeAt (migMid p) (.lease pa false) 8 x).2)
  | .doorbell q o => (true, (s.storeAt (migMid p) (.doorbell q o false) 8 x).2)
  | .unbacked => (true, s)

/-- The leaf entries of a page: those of its group for PS = 1 (R360, R368). -/
def Leaf.entries (l : Leaf) : List Nat :=
  let n := if l.size == 2 ^ 16 then 16 else if l.size == 2 ^ 26 then 32 else 1
  let base := l.at' / (8 * n) * (8 * n)
  (List.range n).map fun i => base + 8 * i

/-- Values stored to the entries of a page in order. -/
def State.migStores (s : State) (p : Nat) : List (Nat × Nat) → Bool × State
  | [] => (true, s)
  | (a, x) :: rest =>
    match s.migStore p a x with
    | (true, s) => s.migStores p rest
    | r => r

/-- Whether a range of physical memory lies in the units of a partition (R367). -/
def State.ownsRange (s : State) (p pa n : Nat) : Bool :=
  match placeOf pa, placeOf (pa + n - 1) with
  | .dram u, .dram v => u == v && (s.partAt p).holdsUnit u
  | _, _ => false

/-- Every link in a range of physical memory broken (R148, R369). -/
def State.breakRange (s : State) (pa n : Nat) : State :=
  { s with links := s.links.filter fun l => !(pa / 64 ≤ l.line && l.line < (pa + n) / 64) }

/-- A page invalidated as R364 gives, its ATS translations with it (R368, R415): false while an element has to wait. -/
def State.invalidatePage (s : State) (p va n : Nat) : Bool × State :=
  let (ok, s) := s.staleWindows p fun _ _ a => va / n == a / n
  (ok, s.updPart p fun q => { q with ats := [] })

/-- The walk of a start and what follows from it (R367, R368): RESULT 1 to 3, or MIG set in the leaf and the page invalidated. A start
that a table refuses, or whose walk has to wait for the host or a lessor, stays the engine's work, with no leaf yet. -/
def State.beginMigration (s : State) (p va dst : Nat) : State :=
  let wait (s : State) : State := s.updPart p fun q => { q with migration := some ⟨va, 0, 0, dst, [], 0⟩ }
  let s := s.updPart p fun q => { q with migration := none }
  match s.walk (migReq p) va with
  | (.error (.refused _ _), s) => wait (s.freezeUnit p (migMid p))
  | (.error (.stall _), s) => wait s
  | (.error _, s) => (s.forgetRefused p).migResult p 1
  | (.ok l, s) =>
    if dst % l.size != 0 then s.migResult p 2
    else if !s.ownsRange p dst l.size then s.migResult p 3
    else
      let old := fld l.entry 51 12 * 4096
      let clear := putFld l.entry 58 58 0
      let s := (s.invalidatePage p va l.size).2
      match s.migStores p (l.entries.map fun a => (a, putFld l.entry 58 58 1)) with
      | (false, s) => wait s
      | (true, s) =>
        let s := s.breakRange old l.size
        s.updPart p fun q => { q with
          npois := 0
          migration := some ⟨va / l.size * l.size, l.size, old, dst, l.entries, BitVec.ofNat 64 clear⟩ }

/-- MCMD written with bit 0 set (R367): RESULT 4 while a start is at work, else the start of R368; a stopped engine keeps it. -/
def State.startMigration (s : State) (p : Nat) : State :=
  let q := s.partAt p
  let va := fld q.mva.toNat 56 12 * 4096
  let dst := fld q.mdst.toNat 51 12 * 4096
  if q.migration.isSome then s.migResult p 4
  else if q.frozenEngines.contains (migMid p) then s.updPart p fun q => { q with migration := some ⟨va, 0, 0, dst, [], 0⟩ }
  else s.beginMigration p va dst

/-- MCMD_START (R368). -/
def execMcmdStart (p : Fin 8) (s : State) : Host.Outcome State Fault Refusal := .next (s.startMigration p.val)

/-- What fetch of a hart still reads of moved bytes, at their new place (R201, R368): the bytes are the same, and what the hart may see of
them stays. -/
def moveView (old new n : Nat) (v : List ViewByte) : List ViewByte :=
  (v.filter fun e => !(new ≤ e.key && e.key < new + n)).map fun e =>
    if old ≤ e.key && e.key < old + n then { e with key := new + (e.key - old) } else e

/-- The views of fetch after a copy that began in a state: those that the harts had there, moved. -/
def State.moveViews (s t : State) (old new n : Nat) : State :=
  let moved (h : Hart) : Hart := { h with view := moveView old new n (((s.hart? h.id).map Hart.view).getD h.view) }
  { t.mapHarts moved with saved := t.saved.map fun (v : Saved) => { v with harts := v.harts.map fun h => { h with view := moveView old new n h.view } } }

/-- One sector copied (R368): damaged ones are entered in the record of the new place, and counted. None when a table refuses the
access, which stops the engine. -/
def State.copySector (s : State) (p layout old new : Nat) : Option Bool × State :=
  let store (s : State) (cls data : Nat) : Option Bool × State :=
    match placeOf new with
    | .dram u =>
      match s.denied (.mem u) (migMid p) .wr with
      | some _ => (none, s.freezeUnit p (migMid p))
      | none =>
        let s := s.moveViews (((s.storeSector (migMid p) u new layout data (2 ^ 64 - 1)).2).request (migMid p) u 0) old new 64
        if 3 ≤ cls then (some true, s.enterPoison (migMid p) u new cls layout) else (some false, s)
    | _ => (some false, s)
  match placeOf old with
  | .dram u =>
    match s.denied (.mem u) (migMid p) .rd with
    | some _ => (none, s.freezeUnit p (migMid p))
    | none =>
      let (d, s) := s.readSector (migMid p) u old layout
      store (s.request (migMid p) u 0) d.cls d.data
  | .host a =>
    match s.hostProbe p a false with
    | (.ok l, s) => store s 0 (Memory.readN s.mem l.key 64)
    | (.error _, s) => (none, s)
  | .lease _ _ =>
    match s.leaseSector (migMid p) .read old with
    | (.ok (c, d), s) => store s c d
    | (.error _, s) => (none, s)
  | .doorbell q _ => store s 0 ((List.range 8).foldl (fun n i => n + (s.headOf q).toNat * 2 ^ (64 * i)) 0)
  | .unbacked => store s 0 0

/-- The sectors of a page of a lessor asked of it, and the places of a page of the host asked of the host; whether all have been answered
(R371, R415). -/
def State.askPage (s : State) (p old : Nat) : Nat → Bool × State
  | 0 => (true, s)
  | n + 1 =>
    match placeOf old with
    | .lease _ _ =>
      match s.leaseSector (migMid p) .read old with
      | (.error _, s) => (false, (s.askPage p (old + 64) n).2)
      | (.ok _, s) => s.askPage p (old + 64) n
    | .host a =>
      match s.hostProbe p a false with
      | (.error (.stall _), s) => (false, (s.askPage p (old + 64) n).2)
      | (_, s) => s.askPage p (old + 64) n
    | _ => (true, s)

/-- Whether requests to a lessor for addresses of a range are still out. -/
def State.outIn (s : State) (pa n : Nat) : Bool := s.link.sent.any fun r => pa ≤ r.pa && r.pa < pa + n

/-- n sectors copied in ascending order, with the count of damaged ones. -/
def State.copyPage (s : State) (p layout old new : Nat) : Nat → Nat → Option Nat × State
  | 0, bad => (some bad, s)
  | n + 1, bad =>
    match s.copySector p layout old new with
    | (none, s) => (none, s)
    | (some b, s) => s.copyPage p layout (old + 64) (new + 64) n (if b then bad + 1 else bad)

/-- The copy of a page, its leaf rewritten, the page invalidated, interrupt code 4 (R368). -/
def State.movePage (s : State) (p : Nat) (m : Migration) : State :=
  let e := m.leaf.toNat
  match s.copyPage p (fld e 62 59) m.oldPa m.newPa (m.size / 64) 0 with
  | (none, s) => s
  | (some bad, s) =>
    let step := m.size / m.leaves.length
    match s.migStores p (m.leaves.zipIdx.map fun a => (a.1, putFld e 51 12 ((m.newPa + a.2 * step) / 4096))) with
    | (false, s) => s
    | (true, s) =>
      let s := (s.invalidatePage p m.va m.size).2
      let s := { s with peerData := s.peerData.filter fun e => e.1.id != migMid p }
      let s := s.updPart p fun q => { q with
        migration := none, mresult := 0, npois := BitVec.ofNat 32 bad, ats := [] }
      (s.refetchAll p).signalS p 4 true

/-- MIGRATION_COMPLETE (R368), once the accesses to the old place have been performed and, for a page of a lessor, its sectors have
come. A stopped engine keeps its work. -/
def State.finishMigration (s : State) (p : Nat) : State :=
  let q := s.partAt p
  match q.migration with
  | none => s
  | some m =>
    if q.frozenEngines.contains (migMid p) then s
    else if m.leaves.isEmpty then s.beginMigration p m.va m.newPa
    else
    let (ok, s) := s.invalidatePage p m.va m.size
    if !ok || s.outIn m.oldPa m.size then s
    else match s.askPage p m.oldPa (m.size / 64) with
    | (true, s) => s.movePage p m
    | (false, s) => s

/-- MIGRATION_COMPLETE (R368). -/
def execMigrationComplete (p : Fin 8) (s : State) : Host.Outcome State Fault Refusal := .next (s.finishMigration p.val)

/-- MSTAT as it reads (R367). -/
def Partition.mstat (q : Partition) : Word :=
  BitVec.ofNat 64 ((if q.migration.isSome then 2 ^ 63 else 0) + q.npois.toNat * 2 ^ 8 + q.mresult.toNat)

/-! ### The host's translations -/

/-- A host page whose translation was asked for is answered: kept, or denied with a page request or a fault (R415, R416). -/
def State.atsAnswer (s : State) (p page : Nat) (answer : Option Nat) : State :=
  let q := s.partAt p
  if !q.atsAsked.contains page then s
  else match answer with
  | some t => s.updPart p fun q => { q with
      ats := Sparse.set 0 q.ats page (t + 1)
      atsAsked := q.atsAsked.filter (· != page) }
  | none =>
    let pri := match s.functionOf p with
      | some f => s.link.priEnabled.contains f
      | none => false
    if !pri then s.updPart p fun q => { q with
        atsAsked := q.atsAsked.filter (· != page)
        refused := q.refused ++ [page] }
    else if q.pageRequest.isSome then s
    else s.updPart p fun q => { q with
      atsAsked := q.atsAsked.filter (· != page)
      pageRequest := some page }

/-- ATS_TRANSLATION_COMPLETION (R415, R416). -/
def execAtsTranslationCompletion (p : Fin 8) (page : Nat) (answer : Option Nat) (s : State) : Host.Outcome State Fault Refusal :=
  .next (s.atsAnswer p.val page answer)

/-- The answer to the outstanding page request: the probe translates again, or faults with kind 1 (R416). -/
def State.pageAnswer (s : State) (p : Nat) (ok : Bool) : State :=
  match (s.partAt p).pageRequest with
  | none => s
  | some page => s.updPart p fun q => { q with
      pageRequest := none
      refused := if ok then q.refused else q.refused ++ [page] }

/-- PRI_RESPONSE (R416). -/
def execPriResponse (p : Fin 8) (ok : Bool) (s : State) : Host.Outcome State Fault Refusal := .next (s.pageAnswer p.val ok)

/-- PRI_TIMEOUT (R416). -/
def execPriTimeout (p : Fin 8) (s : State) : Host.Outcome State Fault Refusal := .next (s.pageAnswer p.val false)

/-- The links of a partition broken whose pages lead to host memory in a range (R148, R415). -/
def State.breakHost (s : State) (p lo n : Nat) : State :=
  { s with links := s.links.filter fun l =>
      match s.hart? l.hart with
      | some h => h.part.val != p || !match (s.walk h.req l.va).1 with
        | .ok leaf => match placeOf (leaf.pa l.va) with
          | .host o => lo ≤ o && o < lo + n
          | _ => false
        | .error _ => false
      | none => true }

/-- The elements whose translation leads to a range of physical addresses. -/
def heldIn (lo n : Nat) : Covers := fun _ e _ => e.held.any fun t => lo ≤ t.pa && t.pa < lo + n

/-- An invalidation that another party has begun, gone on with (R372, R415): elements handled, links broken; once nothing of it is left it is
answered, else it stays. The host's: its translations are dropped. A lessor's: no request of the window may be out. -/
def State.goOn (s : State) (x : OutsideInva) : State :=
  let s := { s with link.inva := s.link.inva.erase x }
  match x with
  | .ats p addr sz =>
    let n := (invaSize sz).getD (2 ^ 52)
    let lo := addr / n * n
    let (ok, s) := s.staleWindows p (heldIn (2 ^ 50 + lo) n)
    let s := s.breakHost p lo n
    let s := s.updPart p fun q => { q with ats := q.ats.filter fun e => !(lo ≤ e.1 * 4096 && e.1 * 4096 < lo + n) }
    if ok then { s.refetchAll p with reply := some .done } else { s with reply := none, link.inva := s.link.inva ++ [x] }
  | .lease w =>
    let lo := 2 ^ 51 + w * 2 ^ 40
    let (ok, s) := (List.range 8).foldl (fun acc p =>
      let (ok, s) := acc.2.staleWindows p (heldIn lo (2 ^ 40))
      (acc.1 && ok, s)) (true, s)
    let s := s.breakRange lo (2 ^ 40)
    if ok && !s.outIn lo (2 ^ 40) then { s with reply := some .done } else { s with reply := none, link.inva := s.link.inva ++ [x] }

/-- An invalidation that the host asks for (R415). -/
def State.atsInvalidate (s : State) (p : Nat) (addr : Nat) (sz : Nat) : State := s.goOn (.ats p addr sz)

/-- ATS_INVALIDATION_REQUEST (R415). -/
def execAtsInvalidationRequest (p : Fin 8) (addr : Word) (sz : BitVec 3) (s : State) : Host.Outcome State Fault Refusal :=
  .next (s.atsInvalidate p.val addr.toNat sz.toNat)

/-! ### Window and matrix steps of the engines -/

/-- ADVANCE_COMPLETE (R101). -/
def execAdvanceComplete (id : Nat) (k : KIdx) (s : State) : Host.Outcome State Fault Refusal := .next (s.advanceComplete id k)

/-- STALE_REFETCH (R365). -/
def execStaleRefetch (id : Nat) (k : KIdx) (s : State) : Host.Outcome State Fault Refusal := .next (s.staleRefetch id k)

/-- MATRIX_ENTRY_COMPLETE (R280). -/
def execMatrixEntryComplete (core : Nat) (s : State) : Host.Outcome State Fault Refusal := .next (s.completeEntry core)

/-- PHASE_SWEEP (R36). -/
def execPhaseSweep (g : Nat) (s : State) : Host.Outcome State Fault Refusal := .next (s.phaseSweep g)

/-- SCATTER_ACKNOWLEDGE (R35). -/
def execScatterAcknowledge (id : Nat) (lane : Fin 16) (s : State) : Host.Outcome State Fault Refusal :=
  .next (s.scatterAcknowledge id lane)

/-- REMOTE_RANK_JOIN (R424): a rank of another member device posts its k-th collective on a group. -/
def State.remoteRankJoin (s : State) (g k rank : Nat) (block : BitVec 256) (data : List (BitVec 8)) : State :=
  if !bitOf (s.group0 g) 63 || s.groupRanks g ≤ rank || some (rank / max (s.groupHpd g) 1) == s.mine g
      || Sparse.get 0 s.link.posts (postKey g rank) != k then s
  else s.join g ⟨rank, none, 0, .u, 0, block, 0, 0, 0, data.foldr (fun b n => b.toNat + 256 * n) 0⟩

/-- REMOTE_RANK_JOIN (R424). -/
def execRemoteRankJoin (g k rank : Nat) (block : BitVec 256) (data : List (BitVec 8)) (s : State) :
    Host.Outcome State Fault Refusal := .next (s.remoteRankJoin g k rank block data)

end Sys2Proof.Machine
end

