-- ==== Sys2Proof/Machine/Reliability.lean ====
section
/-! DEFINITION. The memory controllers' own steps (R332, R389 to R397), replayed requests (R404), scratchpad recovery (R399), the error
registers (R409 to R411), refresh (R405, R406) and the patrol scrubbers (R407, R408). -/

namespace Sys2Proof.Machine

/-! ### Violations -/

/-- The partition that an autonomous engine works for, by its MID (R330, R334); none for the scrubber or the recovery engine of what no
partition holds. -/
def State.enginePart (s : State) (mid : Nat) : Option Nat :=
  let unit := mid % 512
  match mid / 512 % 16 with
  | 3 => s.unitPart? unit
  | 4 => s.corePart? unit
  | _ => some (unit % 8)

/-- An autonomous engine stopped (R334). One that works for no partition signals M; it is listed in EFRZST of partition 0, which reports
on what no partition holds: DEDUCED from R409 (assumption 38). -/
def State.stopEngine (s : State) (mid : Nat) : State :=
  match s.enginePart mid with
  | some p => s.freezeUnit p mid
  | none => (s.updPart 0 fun q => q.addFrozen mid).signalM 1 true

/-- FNCTL of a function, and its fields (R417). -/
def State.fnctl (s : State) (f : Nat) : Nat := (Sparse.get 0 s.link.fnctl f).toNat
def State.putFnctl (s : State) (f w : Nat) : State := { s with link.fnctl := Sparse.set 0 s.link.fnctl f (BitVec.ofNat 64 w) }

/-- PEERST of a device, and the same set (R420). -/
def State.peerstOf (s : State) (d : Nat) : Nat := (Sparse.get 0 s.link.peerst d).toNat
def State.putPeerst (s : State) (d w : Nat) : State := { s with link.peerst := Sparse.set 0 s.link.peerst d (BitVec.ofNat 64 w) }

/-- A function frozen (R334). -/
def State.freezeFunction (s : State) (f : Nat) : State :=
  let w := s.fnctl f
  (s.putFnctl f (putFld w 62 62 1)).signalS (fld w 47 45) 1 true

/-- A peer frozen (R334). -/
def State.freezePeer (s : State) (d : Nat) : State :=
  let w := s.peerstOf d
  (s.putPeerst d (putFld w 63 63 1)).signalS (fld w 50 48) 1 true

/-- A hart or a management core frozen by a violation found at a target (R334, R335). A request that reaches its target as a physical
access carries no virtual address, element or stream: the record of one is free there (assumption 3). -/
def State.freezeMaster (s : State) (mid : Nat) (t : Target) (kind : Nat) (store : Bool) (adr : Option Nat) : State :=
  let x := (Config.freeBits 77 s.free).toNat
  let s := if adr.isSome then s else { s with free := s.free + 1 }
  let rec' := adr.elim (fld x 76 74, fld x 73 60, fld x 56 0) fun a => (0, 0, a)
  let s := s.updHart mid fun h => h.freeze t.tid t.tgt kind false store rec'.1 rec'.2.1 rec'.2.2
  if isMgmt mid then s.signalM 1 true
  else match ((s.hart? mid).map fun h => h.part.val).or (s.corePart? (mid / 4)) with
  | some p => s.signalS p 1 true
  | none => s.signalM 1 true

/-- A violation: its master is frozen, with the answer that its kind gets (R334). -/
def State.violate (s : State) (mid : Nat) (t : Target) (kind : Nat) (store : Bool) (adr : Option Nat := none) : State :=
  match mid / 2 ^ 13 with
  | 1 => s.stopEngine mid
  | 2 => { s.freezeFunction (mid % 128) with reply := some .completerAbort }
  | 3 => { s.freezePeer (mid % 1024) with reply := some .errorResponse }
  | _ => s.freezeMaster mid t kind store adr

/-! ### The controllers -/

/-- A request that reaches the controller of a sector, checked against its table (R332). -/
def State.atController (s : State) (mid sector : Nat) (p : Perm) (act : Nat → State) : Host.Outcome State Fault Refusal :=
  match placeOf sector with
  | .dram u =>
    match s.denied (.mem u) mid p with
    | some k => .next (s.violate mid (.mem u) k (p != .rd))
    | none => .next (act u)
  | _ => .fault .unbackedAddress

/-- CONTROLLER_READ (R391, R395). -/
def execControllerRead (mid : BitVec 16) (sector : Nat) (layout : BitVec 4) (s : State) : Host.Outcome State Fault Refusal :=
  s.atController mid.toNat sector .rd fun u =>
    let (d, s) := s.readSector mid.toNat u sector layout.toNat
    { s.request mid.toNat u 0 with reply := some (.sector d.cls (BitVec.ofNat 512 d.data)) }

/-- CONTROLLER_PARTIAL_STORE (R393, R129). -/
def execControllerPartialStore (mid : BitVec 16) (sector : Nat) (layout : BitVec 4) (data : BitVec 512) (enable : BitVec 64) (s : State) :
    Host.Outcome State Fault Refusal :=
  s.atController mid.toNat sector .wr fun u =>
    let (ok, s) := s.storeSector mid.toNat u sector layout.toNat data.toNat enable.toNat
    { s.request mid.toNat u 0 with reply := some (if ok then .done else .dropped) }

/-- CONTROLLER_FULL_STORE (R389, R395). -/
def execControllerFullStore (mid : BitVec 16) (sector : Nat) (layout : BitVec 4) (data : BitVec 512) (s : State) :
    Host.Outcome State Fault Refusal :=
  s.atController mid.toNat sector .wr fun u =>
    let (_, s) := s.storeSector mid.toNat u sector layout.toNat data.toNat (2 ^ 64 - 1)
    { s.request mid.toNat u 0 with reply := some .done }

/-! ### Replays -/

/-- A request sent again with its tag: its target answers with the stored outcome and performs nothing (R404). A tag that is not
among the records names no request that was performed. -/
def State.replay (s : State) (tag : BitVec 32) : State :=
  match s.performed.find? fun r => r.tag == tag with
  | some r => { s with reply := some (.outcome r.outcome) }
  | none => s

/-- LINK_RESPONSE_LOST (R404). -/
def execLinkResponseLost (tag : BitVec 32) (s : State) : Host.Outcome State Fault Refusal := .next (s.replay tag)

/-- RESPONSE_TIMEOUT (R404). -/
def execResponseTimeout (tag : BitVec 32) (s : State) : Host.Outcome State Fault Refusal := .next (s.replay tag)

/-! ### Scratchpad recovery -/

/-- MID of a core's scratchpad recovery engine (R407). -/
def recoveryMid (core : Nat) : Nat := 0x2800 + core

/-- A double-bit error found: the rebuild of the word starts (R399). -/
def State.startRebuild (s : State) (core word : Nat) : State :=
  if popcount 39 (Sparse.get 0 s.spadFlips (core * spadWords + word)).toNat ≤ 1 || s.rebuilding.contains (core, word) then s
  else { s with rebuilding := s.rebuilding ++ [(core, word)] }

/-- SCRATCHPAD_REBUILD (R399). -/
def execScratchpadRebuild (core word : Nat) (s : State) : Host.Outcome State Fault Refusal := .next (s.startRebuild core word)

/-- The rebuild ends: the word written back, or class 3 with a record of source 6 (R399). A store that came meanwhile has replaced the
word. -/
def State.endRebuild (s : State) (core word : Nat) : State :=
  if !s.rebuilding.contains (core, word) then s
  else
    let s := { s with rebuilding := s.rebuilding.filter (· != (core, word)) }
    if popcount 39 (Sparse.get 0 s.spadFlips (core * spadWords + word)).toNat ≤ 1 then s else (s.rebuildWord 0 core word).2

/-- SCRATCHPAD_REBUILD_COMPLETE (R399). -/
def execScratchpadRebuildComplete (core word : Nat) (s : State) : Host.Outcome State Fault Refusal := .next (s.endRebuild core word)

/-- LANE_SUSPECT (R401). -/
def execLaneSuspect (core : Nat) (lane : Fin 16) (s : State) : Host.Outcome State Fault Refusal := .next (s.laneSuspect core lane.val)

/-! ### Error registers -/

/-- ERRA and ERRB: the oldest record (R410). -/
def Partition.erra (q : Partition) : Word := BitVec.ofNat 64 ((q.errors.head?.map ErrRecord.loc).getD 0)
def Partition.errb (q : Partition) : Word :=
  match q.errors with
  | [] => 0
  | r :: _ => BitVec.ofNat 64 (r.mid * 2 ^ 48 + r.src * 2 ^ 44 + r.layout * 2 ^ 40 + r.cls * 2 ^ 36 + r.unit * 2 ^ 16 + r.rep)

/-- ERRPOP written: bit 0 removes the oldest record; an empty queue acknowledges interrupt code 2 (R409, R410). -/
def State.errpop (s : State) (p : Nat) (w : Word) : State :=
  if w != 1 then s
  else
    let s := s.updPart p fun q => { q with errors := q.errors.tail }
    if (s.partAt p).errors.isEmpty then s.signalS p 2 false else s

/-- ERRPOP (R410). -/
def execErrpop (p : Fin 8) (w : Word) (s : State) : Host.Outcome State Fault Refusal := .next (s.errpop p.val w)

/-- The unit that PSEL names, and its entry's place (R410). -/
def Partition.pselUnit (q : Partition) : Nat := fld q.psel.toNat 20 16
def Partition.pselQuarantine (q : Partition) : Bool := bitOf q.psel.toNat 63

/-- The record or quarantine entry that PSEL reaches: its address and bitmap; none where it reads zero (R410). -/
def State.pdatEntry (s : State) (p : Nat) : Option (Nat × Nat) :=
  let q := s.partAt p
  let u := q.pselUnit
  let idx := fld q.psel.toNat 8 0
  let die := dieOf u
  let mine (a : Nat) : Bool := match placeOf a with
    | .dram v => q.holdsUnit v
    | _ => false
  if 24 ≤ u || !q.holdsUnit u then none
  else if q.pselQuarantine then
    let e := Sparse.get (0, 0#64) s.memctl.quarantine (64 * die + fld idx 6 1)
    if fld idx 8 7 != 0 || e.2 == 0 || !mine e.1 then none else some (e.1, e.2.toNat)
  else
    let e := Sparse.get 0 s.memctl.poison (512 * die + idx)
    if e == 0 || !mine (e - 1) then none else some (e - 1, 0)

/-- PDAT as it reads (R410). -/
def State.pdat (s : State) (p : Nat) : Word :=
  match s.pdatEntry p with
  | none => 0
  | some (a, map) =>
    let q := s.partAt p
    if q.pselQuarantine && bitOf q.psel.toNat 0 then BitVec.ofNat 64 map else BitVec.ofNat 64 (2 ^ 63 + a)

/-- A write of V = 0 to PDAT removes the entry (R410). -/
def State.pdatRemove (s : State) (p : Nat) : State :=
  match s.pdatEntry p with
  | none => s
  | some _ =>
    let q := s.partAt p
    let die := dieOf q.pselUnit
    let idx := fld q.psel.toNat 8 0
    if q.pselQuarantine then
      { s with memctl.quarantine := Sparse.set (0, 0#64) s.memctl.quarantine (64 * die + fld idx 6 1) (0, 0#64) }
    else { s with memctl.poison := Sparse.set 0 s.memctl.poison (512 * die + idx) 0 }

/-- PDAT_REMOVE (R410). -/
def execPdatRemove (p : Fin 8) (s : State) : Host.Outcome State Fault Refusal := .next (s.pdatRemove p.val)

/-- EFRZST as it reads: the lowest frozen engine (R411). -/
def Partition.efrzst (q : Partition) : Word :=
  match q.frozenEngines with
  | [] => 0
  | e :: es => BitVec.ofNat 64 (2 ^ 63 + es.foldl min e)

/-- EFRZCMD written: [17:16] = 1 unfreezes the engine named (R411). -/
def State.efrzcmd (s : State) (p : Nat) (w : Word) : State :=
  if fld w.toNat 63 18 != 0 || fld w.toNat 17 16 != 1 then s
  else s.updPart p fun q => { q with frozenEngines := q.frozenEngines.filter (· != fld w.toNat 15 0) }

/-- EFRZCMD_UNFREEZE (R411). -/
def execEfrzcmdUnfreeze (p : Fin 8) (w : Word) (s : State) : Host.Outcome State Fault Refusal := .next (s.efrzcmd p.val w)

/-! ### Refresh -/

/-- The counter of a row. -/
def rowKey (stack bank row : Nat) : Nat := stack * 2 ^ 48 + bank * 2 ^ 32 + row

/-- A row's counter has reached its threshold, or failed its parity: the neighbours are refreshed, which changes timing only; the
counter begins again (R405). -/
def State.refreshRow (s : State) (stack bank row : Nat) : State :=
  let k := rowKey stack bank row
  let bad := Sparse.get false s.memctl.rowParityBad k
  let s := { s with
    memctl.rowCount := Sparse.set 0 s.memctl.rowCount k 0
    memctl.rowParityBad := Sparse.set false s.memctl.rowParityBad k false }
  if bad then s.report (s.partOfUnit (2 * stack)) ⟨0, 7, 0, 0, stack, 0, 0⟩ else s

/-- ROW_COUNTER_REFRESH (R405). -/
def execRowCounterRefresh (stack : Fin 8) (bank row : Nat) (s : State) : Host.Outcome State Fault Refusal :=
  .next (s.refreshRow stack.val bank row)

/-- PERIODIC_REFRESH (R405, R406). -/
def execPeriodicRefresh (stack : Fin 8) (bank row : Nat) (s : State) : Host.Outcome State Fault Refusal :=
  .next { s with memctl.rowCount := Sparse.set 0 s.memctl.rowCount (rowKey stack.val bank row) 0 }

/-- FALLBACK_REFRESH_TAKEOVER (R406). -/
def execFallbackRefreshTakeover (stack : Fin 8) (s : State) : Host.Outcome State Fault Refusal :=
  .next (({ s with memctl.fallback := s.memctl.fallback ||| (1#8 <<< stack.val) }).report (s.partOfUnit (2 * stack.val))
    ⟨0, 8, 0, 0, stack.val, 0, 0⟩)

/-- BASE_DIE_CORE_RESTART (R406). -/
def execBaseDieCoreRestart (stack : Fin 8) (s : State) : Host.Outcome State Fault Refusal :=
  .next { s with memctl.fallback := s.memctl.fallback &&& ~~~(1#8 <<< stack.val) }

/-! ### Patrol -/

/-- MID of a patrol scrubber (R407). -/
def patrolMid (unit : Nat) : Nat := 0x2600 + unit

/-- First address and sectors of a unit. -/
def unitBase (unit : Nat) : Nat := if unit < 16 then unit * 2 ^ 35 else 2 ^ 39 + (unit - 16) * 2 ^ 37
def unitSectors (unit : Nat) : Nat := if unit < 16 then 2 ^ 29 else 2 ^ 31

/-- Whether the scrubber of a unit works: enabled, its stack under its management core, itself not frozen (R406, R407, R410). -/
def State.patrolRuns (s : State) (unit : Nat) : Bool :=
  let q := s.partAt (s.partOfUnit unit)
  bitOf q.patcfg.toNat 63 && !(unit < 16 && s.memctl.fallback.getLsbD (unit / 2)) && !q.frozenEngines.contains (patrolMid unit)

/-- One sector of a pass read under its stored tag (R407). -/
def State.patrolSector (s : State) (unit : Nat) : State :=
  if !s.patrolRuns unit then s
  else
    let n := Sparse.get 0 s.memctl.patrol unit
    let pa := unitBase unit + 64 * n
    let p := s.partOfUnit unit
    match s.denied (.mem unit) (patrolMid unit) .rd with
    | some _ => s.stopEngine (patrolMid unit)
    | none =>
      let layout := s.tagAt pa 0
      let (cls, s) := s.scrubSector (patrolMid unit) 0 4 unit pa layout
      let s := if cls == 1 && bitOf (s.partAt p).errctl.toNat 0 then s.report p (memRecord 0 4 unit layout 1 pa) else s
      { s with memctl.patrol := Sparse.set 0 s.memctl.patrol unit ((n + 1) % unitSectors unit) }

/-- PATROL_SCRUB_SECTOR (R407). -/
def execPatrolScrubSector (unit : Fin 24) (s : State) : Host.Outcome State Fault Refusal := .next (s.patrolSector unit.val)

/-- A pass ends: PASSES counts it, and LATE says whether it overran (R407, R410). -/
def State.patrolEnd (s : State) (unit : Nat) (late : Bool) : State :=
  ({ s with memctl.patrol := Sparse.set 0 s.memctl.patrol unit 0 }).updPart (s.partOfUnit unit) fun q =>
    { q with patstat := BitVec.ofNat 64 ((if late then 2 ^ 63 else 0) + (fld q.patstat.toNat 31 0 + 1) % 2 ^ 32) }

/-- PATROL_PASS_END (R407). -/
def execPatrolPassEnd (unit : Fin 24) (late : Bool) (s : State) : Host.Outcome State Fault Refusal := .next (s.patrolEnd unit.val late)

end Sys2Proof.Machine
end

