-- ==== Sys2Proof/Machine/Link.lean ====
section
/-! DEFINITION. The UALink ports, peers and leases (R370 to R372, R418 to R421, R394) and the PCIe functions (R334, R417, R427). -/

namespace Sys2Proof.Machine

/-! ### Requests of a peer -/

/-- MID of a peer (R330). -/
def peerMid (dev : Nat) : Nat := 0x6000 + dev

/-- The permission that a peer's request needs (R332). -/
def peerPerm : PeerOp → Perm
  | .read => .rd
  | .write _ _ => .wr
  | .merge _ _ => .wr
  | .linked => .rmw
  | .add _ _ => .rmw
  | .conditional _ _ => .rmw

/-- Bytes of a sector stored for a peer; false when the controller loses them (R129). -/
def State.peerStore (s : State) (dev u base layout data enable : Nat) : Bool × State :=
  let (ok, s) := s.storeSector (peerMid dev) u base layout data enable
  (ok, s.request (peerMid dev) u 0)

/-- An indivisible update of 8 bytes for a peer: the sector read, and the new value of the bytes stored with the data read (R393). -/
def State.peerUpdate (s : State) (dev u pa : Nat) (f : Nat → Nat) : State :=
  let base := pa / 64 * 64
  let (d, s) := s.readSector (peerMid dev) u base (s.tagAt base 0)
  let old := d.data / 2 ^ (8 * (pa % 64)) % 2 ^ 64
  if 3 ≤ d.cls then { s with reply := some (.sector d.cls (BitVec.ofNat 512 d.data)) }
  else { s.storeRead (peerMid dev) base d.data (f old % 2 ^ 64 * 2 ^ (8 * (pa % 64))) (255 * 2 ^ (pa % 64)) with
    reply := some (.outcome (BitVec.ofNat 64 old)) }

/-- A store of some bits of 8 bytes for a peer: a store of part of a sector (R247, R393). -/
def State.peerMerge (s : State) (dev u pa : Nat) (f : Nat → Nat) : Bool × State :=
  let base := pa / 64 * 64
  let layout := s.tagAt base 0
  let old := (s.decodeSector u base layout).data / 2 ^ (8 * (pa % 64)) % 2 ^ 64
  s.storePart (peerMid dev) u base layout (f old % 2 ^ 64 * 2 ^ (8 * (pa % 64))) (255 * 2 ^ (pa % 64))

/-- A peer's access to main memory: the lessor's own tag and codes protect it (R394), and the lessor keeps its links (R148). -/
def State.peerMemory (s : State) (dev u pa : Nat) (op : PeerOp) : State :=
  let base := pa / 64 * 64
  let layout := s.tagAt base 0
  match op with
  | .read =>
    let (d, s) := s.readSector (peerMid dev) u base layout
    { s.request (peerMid dev) u 0 with reply := some (.sector d.cls (BitVec.ofNat 512 d.data)) }
  | .linked =>
    let (d, s) := s.readSector (peerMid dev) u base layout
    { (s.request (peerMid dev) u 0).linkLine (peerMid dev) 0 (pa / 64) pa with
      reply := some (.sector d.cls (BitVec.ofNat 512 d.data)) }
  | .write w en =>
    let (ok, s) := s.peerStore dev u base layout w.toNat en.toNat
    { s with reply := some (if ok then .done else .dropped) }
  | .merge w mask =>
    let (ok, s) := s.peerMerge dev u (pa / 8 * 8) fun old =>
      let o := 8 * (pa % 8)
      (BitVec.ofNat 64 old &&& ~~~(mask <<< o) ||| (w &&& mask) <<< o).toNat
    { s with reply := some (if ok then .done else .dropped) }
  | .add w mark => s.peerUpdate dev u (pa / 8 * 8) fun old => (old + w.toNat) % 2 ^ 64 ||| mark.toNat
  | .conditional w en =>
    if s.links.any fun l => l.line == pa / 64 && l.hart == peerMid dev then
      let (ok, s) := s.peerStore dev u base layout w.toNat en.toNat
      { s.breakLine (pa / 64) with reply := some (.outcome (if ok then 1 else 0)) }
    else { s.request (peerMid dev) u 0 with reply := some (.outcome 0) }

/-- PEER_REQUEST (R371, R372, R334): a lessee's request at a port: refused for a frozen peer, checked against the port's table and then
against that of the channel group that it reaches (R331, R332), and performed in main memory. -/
def State.peerRequest (s : State) (port dev pa n : Nat) (op : PeerOp) : State :=
  if bitOf (s.peerstOf dev) 63 then { s with reply := some .errorResponse }
  else match s.denied (.port port) (peerMid dev) (peerPerm op) with
  | some k => s.violate (peerMid dev) (.port port) k ((peerPerm op) != .rd)
  | none =>
    match placeOf pa with
    | .dram u =>
      if pa % n != 0 then { s with reply := some .errorResponse }
      else match s.denied (.mem u) (peerMid dev) (peerPerm op) with
      | some k => s.violate (peerMid dev) (.mem u) k ((peerPerm op) != .rd)
      | none => s.peerMemory dev u pa op
    | _ => { s with reply := some .errorResponse }

/-- PEER_REQUEST (R371). -/
def execPeerRequest (port : Fin 16) (dev : BitVec 10) (pa : Nat) (size : Size) (req : PeerOp) (s : State) :
    Host.Outcome State Fault Refusal := .next (s.peerRequest port.val dev.toNat pa (2 ^ size.val) req)

/-- PEERST_UNFREEZE (R420). -/
def State.unfreezePeer (s : State) (dev : Nat) : State := s.putPeerst dev (putFld (s.peerstOf dev) 63 63 0)

/-- PEERST_UNFREEZE (R420). -/
def execPeerstUnfreeze (dev : BitVec 10) (s : State) : Host.Outcome State Fault Refusal := .next (s.unfreezePeer dev.toNat)

/-! ### Answers of a lessor -/

/-- First physical address of a lease window (R370). -/
def leaseBase (n : Nat) : Nat := 2 ^ 51 + n * 2 ^ 40

/-- Whether an answer is one that an operation can get. -/
def answersOp : PeerOp → PeerAnswer → Bool
  | _, .refused => true
  | .read, .data _ _ => true
  | .linked, .data _ _ => true
  | .conditional _ _, .conditional _ => true
  | .write _ _, .done => true
  | .merge _ _, .done => true
  | .add _ _, .done => true
  | _, _ => false

/-- Class and data of an answer: a refused load reports class 4 (R372, R418). -/
def answeredSector : PeerAnswer → Nat × Nat
  | .data c w => (c.val, w.toNat)
  | _ => (4, 0)

/-- A hart that waits for a sector goes on when its answer has come, to its own read or to the Chuck's (R102). -/
def Hart.wakePeer (h : Hart) (r : Sent) : Hart :=
  match h.wait with
  | .peer b => if (r.id == h.id || r.id == chuckId h.id) && b / 64 == r.pa / 64 then { h with wait := .run } else h
  | _ => h

/-- A refused store is a posted loss (R129, R372, R418): the record names its master and its address in the lease window; a lessor's
sector has no layout or unit of this device, and the record holds 0 there (assumption 21). A refused signal is a failing one (R344). -/
def State.storeRefused (s : State) (r : Sent) : State :=
  let s := s.report (s.partOfMaster r.id) ⟨askerOf r.id, 3, 0, 4, 0, 0, r.pa / 64 * 64⟩
  match r.report with
  | some (q, i) => s.qerr q i.toNat 3
  | none => s

/-- A hart whose scatter elements have been answered: they are no longer unacknowledged (R35, assumption 26). -/
def Hart.acknowledge (h : Hart) (lanes : List Nat) : Hart :=
  { h with unacked := Vector.ofFn fun (l : Fin 16) => h.unacked[l] - lanes.count l.val }

/-- A gang that has received scatter elements (R36). -/
def Gang.receive (g : Gang) (n : Nat) : Gang := { g with received := g.received + BitVec.ofNat 64 n }

/-- The scatter elements of a store answered, for a hart that is here or away: received when they have been performed (R35, R36). -/
def State.scatterAnswered (s : State) (r : Sent) (performed : Bool) : State :=
  let n := if performed then r.lanes.length else 0
  if r.lanes.isEmpty then s
  else match s.saved.find? fun v => v.sent.contains r with
  | some v => { s with saved := s.saved.map fun (x : Saved) =>
      if x.gang.id == v.gang.id then
        { x with gang := x.gang.receive n, harts := x.harts.map fun h => if h.id == r.id then h.acknowledge r.lanes else h }
      else x }
  | none =>
    let s := match (s.hart? r.id).bind Hart.gang with
      | some g => s.updGang g fun x => x.receive n
      | none => s
    s.updHart r.id fun h => h.acknowledge r.lanes

/-- An answer to a store: the elements that it stores are counted, a refusal is reported, and the engine that waits for it is told. -/
def State.storeAnswered (s : State) (r : Sent) (a : PeerAnswer) : State :=
  let s := s.scatterAnswered r (a != .refused)
  let s := if a == .refused then s.storeRefused r else s
  if r.id == engineId (askerOf r.id) && askerOf r.id < 1536 && keptAnswer r.op then { s with peerData := s.peerData ++ [(r, a)] } else s

/-- An answer to a request that is out: a store ends; a fetch of the Chuck arrives in its windows; that to a read whose instruction has
been left goes to nobody; any other is kept for the instruction, command or access that asked. -/
def State.answered (s : State) (r : Sent) (a : PeerAnswer) : State :=
  let s := { s with link.sent := s.link.sent.erase r }
  match r.op with
  | .write _ _ | .merge _ _ | .add _ _ => s.storeAnswered r a
  | _ =>
    if r.id == orphanId (askerOf r.id) then s
    else if r.id == chuckId (askerOf r.id) then
      s.updHart (askerOf r.id) fun h => (h.arrive (r.pa / 64 * 64) (answeredSector a).1 (answeredSector a).2).wakePeer r
    else ({ s with peerData := s.peerData ++ [(r, a)] }).updHart (askerOf r.id) fun h => h.wakePeer r

/-- Whether a request is the oldest of its lessor's sector: a lessor answers the requests of one sector in order (assumption 21). -/
def State.leads (s : State) (r : Sent) : Bool := s.link.sent.find? (Sent.meets r) == some r

/-- A lessor's answer for a sector to a master or an engine: it goes to the oldest request of the sector. -/
def State.deliver (s : State) (id pa : Nat) (answer : PeerAnswer) : State :=
  match s.link.sent.find? fun r => r.id == id && r.pa / 64 == pa / 64 with
  | none => s
  | some r => if s.leads r && s.isOut r && answersOp r.op answer then s.answered r answer else s

/-- PEER_RESPONSE (R372). -/
def execPeerResponse (id : Nat) (reply : PeerReply) (s : State) : Host.Outcome State Fault Refusal :=
  .next (s.deliver id reply.pa reply.answer)

/-- PEER_PATH_TIMEOUT (R418): the oldest request of a master that is out and leads the requests of its sector is refused. -/
def State.pathTimeout (s : State) (id : Nat) : State :=
  match s.link.sent.find? fun r => askerOf r.id == id && s.isOut r && s.leads r with
  | none => s
  | some r => s.answered r .refused

/-- PEER_PATH_TIMEOUT (R418). -/
def execPeerPathTimeout (id : Nat) (s : State) : Host.Outcome State Fault Refusal := .next (s.pathTimeout id)

/-- PORT_DOWN and PORT_UP (R418): while any port is up only timing changes. -/
def execPortDown (port : Fin 16) (s : State) : Host.Outcome State Fault Refusal :=
  .next { s with link.ports := s.link.ports &&& ~~~(1#16 <<< port.val) }
/-- PORT_UP (R418). -/
def execPortUp (port : Fin 16) (s : State) : Host.Outcome State Fault Refusal :=
  .next { s with link.ports := s.link.ports ||| (1#16 <<< port.val) }

/-! ### Revocation -/

/-- LRVST.BUSY (R421). -/
def State.revoking (s : State) : Bool := s.link.lrvst.getLsbD 0

/-- LREVOKE written (R421): ignored while BUSY, without GO, or with a bit that must be zero. -/
def State.startRevoke (s : State) (w : Word) : State :=
  if s.revoking || !w.getLsbD 63 || w &&& ~~~0x800003FF000000FF#64 != 0 then s
  else { s with link.lrevoke := w, link.lrvst := 1 }

/-- LREVOKE (R421). -/
def execLrevoke (w : Word) (s : State) : Host.Outcome State Fault Refusal := .next (s.startRevoke w)

/-- REVOCATION_ACK (R421). -/
def execRevocationAck (s : State) : Host.Outcome State Fault Refusal :=
  .next (if s.revoking then { s with link.lrvst := 0 } else s)

/-- REVOCATION_TIMEOUT (R421): TMO is set, and the port refuses the device as a frozen peer. -/
def State.revokeTimeout (s : State) : State :=
  if s.revoking then ({ s with link.lrvst := 2 }).freezePeer (fld s.link.lrevoke.toNat 41 32) else s

/-- REVOCATION_TIMEOUT (R421). -/
def execRevocationTimeout (s : State) : Host.Outcome State Fault Refusal := .next s.revokeTimeout

/-- LEASE_REVOCATION (R372): the lessee sets RVK, handles the window's elements and links as an invalidation does, and acknowledges once
that is done and no request of the window is out. The interrupt of code 5 goes to root firmware, which writes the leases (R376). -/
def State.leaseRevoked (s : State) (n : Nat) : State :=
  let w := (Sparse.get 0 s.link.leases (2 * n)).toNat
  let s := { s with link.leases := Sparse.set 0 s.link.leases (2 * n) (BitVec.ofNat 64 (putFld w 62 62 1)) }
  (s.goOn (.lease n)).signalM 5 true

/-- LEASE_REVOCATION (R372). -/
def execLeaseRevocation (n : Nat) (s : State) : Host.Outcome State Fault Refusal := .next (s.leaseRevoked n)

/-! ### Functions -/

/-- FNCTL_UNFREEZE (R417). -/
def State.unfreezeFunction (s : State) (f : Nat) : State := s.putFnctl f (putFld (s.fnctl f) 62 62 0)

/-- FNCTL_UNFREEZE (R417). -/
def execFnctlUnfreeze (f : Nat) (s : State) : Host.Outcome State Fault Refusal := .next (s.unfreezeFunction f)

/-- FNCTL_KILL (R417): every outstanding request ends with Completer Abort; the freeze stays. -/
def State.killFunction (s : State) (f : Nat) : State :=
  if s.link.outstanding.any fun r => r.1 == f then
    { s with
      link.outstanding := s.link.outstanding.filter fun r => r.1 != f
      link.sent := s.link.sent.filter fun r => askerOf r.id != 0x4000 + f || peerStores r.op
      peerData := s.peerData.filter fun e => askerOf e.1.id != 0x4000 + f
      reply := some .completerAbort }
  else s

/-- FNCTL_KILL (R417). -/
def execFnctlKill (f : Nat) (s : State) : Host.Outcome State Fault Refusal := .next (s.killFunction f)

/-- FUNCTION_LEVEL_RESET (R427): a kill, then V cleared. -/
def execFunctionLevelReset (f : Nat) (s : State) : Host.Outcome State Fault Refusal :=
  .next ((s.killFunction f).putFnctl f (putFld ((s.killFunction f).fnctl f) 63 63 0))

end Sys2Proof.Machine
end

