-- ==== Sys2Proof/Machine/Security.lean ====
section
/-! DEFINITION. Boot and verification (R431), measurements (R432), keys (R434) and SPDM (R435). SHA-256, HMAC and ECDSA over P-256
are those of FIPS 180-4, FIPS 198-1 and FIPS 186-5, which the specification names (assumption 16). -/

namespace Sys2Proof.Machine

/-! ### SHA-256 and HMAC -/

/-- Bytes of a number, most significant first. -/
def beBytes : Nat → Nat → List Nat
  | 0, _ => []
  | n + 1, x => (x / 256 ^ n % 256) :: beBytes n x

/-- The number that bytes spell, most significant first. -/
def ofBytes (bs : List Nat) : Nat := bs.foldl (fun x b => x * 256 + b) 0

/-- A k-th root rounded down, found bit by bit below a bit position; `r` holds the bits found. -/
def rootBits (k n : Nat) : Nat → Nat → Nat
  | 0, r => r
  | i + 1, r => rootBits k n i (if (r + 2 ^ i) ^ k ≤ n then r + 2 ^ i else r)

/-- The first 32 bits of the fraction of a k-th root: the constants of SHA-256 are given as such bits. -/
def rootFraction (k p : Nat) : BitVec 32 := BitVec.ofNat 32 (rootBits k (p * 2 ^ (32 * k)) 40 0)

/-- The first 64 prime numbers. -/
def shaPrimes : List Nat := (rangeFrom 2 310).filter fun n => (rangeFrom 2 (n - 2)).all fun d => n % d != 0

/-- A block of eight working words, in the order a to h. -/
abbrev ShaWords := Vector (BitVec 32) 8

/-- The initial hash value: the fractions of the square roots of the first eight primes. -/
def shaInit : ShaWords := Vector.ofFn fun i => rootFraction 2 (shaPrimes.getD i.val 0)

/-- Three rotations of a word combined, and two with a shift. -/
def rotations (i j k : Nat) (x : BitVec 32) : BitVec 32 := x.rotateRight i ^^^ x.rotateRight j ^^^ x.rotateRight k
def rotationsShift (i j k : Nat) (x : BitVec 32) : BitVec 32 := x.rotateRight i ^^^ x.rotateRight j ^^^ x >>> k

/-- The bits of y where x has ones and of z where it has zeros; the bits that two of three words have. -/
def chooseBits (x y z : BitVec 32) : BitVec 32 := (x &&& y) ||| (~~~x &&& z)
def majorityBits (x y z : BitVec 32) : BitVec 32 := (x &&& (y ||| z)) ||| (y &&& z)

/-- A message padded to whole blocks of 64 bytes. -/
def shaPad (m : List Nat) : List Nat := m ++ [0x80] ++ List.replicate ((119 - m.length % 64) % 64) 0 ++ beBytes 8 (8 * m.length)

/-- The schedule from the words so far, newest first: each further word comes from those 2, 7, 15 and 16 before it. -/
def shaExtend : Nat → List (BitVec 32) → List (BitVec 32)
  | 0, ws => ws
  | n + 1, ws =>
    let back (i : Nat) : BitVec 32 := ws.getD (i - 1) 0
    shaExtend n ((rotationsShift 17 19 10 (back 2) + back 7 + rotationsShift 7 18 3 (back 15) + back 16) :: ws)

/-- One round: `x` is the round's constant plus its schedule word. -/
def shaRound (v : ShaWords) (x : BitVec 32) : ShaWords :=
  let t := x + v[7] + rotations 6 11 25 v[4] + chooseBits v[4] v[5] v[6]
  let u := rotations 2 13 22 v[0] + majorityBits v[0] v[1] v[2]
  Vector.ofFn fun i => if i.val = 0 then t + u else if i.val = 4 then v[3] + t else v[i.val - 1]

/-- One block of 64 bytes. -/
def shaBlock (h : ShaWords) (block : List Nat) : ShaWords :=
  let first := (List.range 16).map fun i => BitVec.ofNat 32 (ofBytes ((block.drop (4 * i)).take 4))
  let words := (shaExtend 48 first.reverse).reverse
  let v := ((shaPrimes.zip words).map fun y => rootFraction 3 y.1 + y.2).foldl shaRound h
  Vector.ofFn fun i => h[i] + v[i]

/-- SHA-256 of bytes, as a number of 256 bits. -/
def sha256 (m : List Nat) : Nat :=
  let p := shaPad m
  let h := foldUpTo (fun h i => shaBlock h ((p.drop (64 * i)).take 64)) shaInit (p.length / 64)
  h.toList.foldl (fun x w => x * 2 ^ 32 + w.toNat) 0

/-- HMAC-SHA-256 with a key of 32 bytes. -/
def hmac (key : Nat) (m : List Nat) : Nat :=
  let k := beBytes 32 key ++ List.replicate 32 0
  sha256 (k.map (· ^^^ 0x5C) ++ beBytes 32 (sha256 (k.map (· ^^^ 0x36) ++ m)))

/-! ### P-256 -/

/-- The field prime, the group order, the curve's b and its base point. -/
def p256p : Nat := 0xFFFFFFFF00000001000000000000000000000000FFFFFFFFFFFFFFFFFFFFFFFF
def p256n : Nat := 0xFFFFFFFF00000000FFFFFFFFFFFFFFFFBCE6FAADA7179E84F3B9CAC2FC632551
def p256b : Nat := 0x5AC635D8AA3A93E7B3EBBD55769886BC651D06B0CC53B0F63BCE3C3E27D2604B
def p256g : Nat × Nat :=
  (0x6B17D1F2E12C4247F8BCE6E563A440F277037D812DEB33A0F4A13945D898C296,
   0x4FE342E2FE1A7F9B8EE7EB4A7C0F9E162BCE33576B315ECECBB6406837BF51F5)

/-- b to a power whose exponent has at most `fuel` bits, modulo m. -/
def powMod (m : Nat) : Nat → Nat → Nat → Nat
  | 0, _, _ => 1 % m
  | fuel + 1, b, e =>
    let r := powMod m fuel (b * b % m) (e / 2)
    if e % 2 == 1 then r * b % m else r

/-- The inverse modulo a prime. -/
def invMod (m x : Nat) : Nat := powMod m 256 (x % m) (m - 2)

/-- The sum of two points; none is the point at infinity. -/
def p256add (a b : Option (Nat × Nat)) : Option (Nat × Nat) :=
  match a, b with
  | none, q => q
  | q, none => q
  | some (x1, y1), some (x2, y2) =>
    if x1 == x2 && (y1 + y2) % p256p == 0 then none
    else
      let l := if x1 == x2 then (3 * x1 * x1 + p256p - 3) * invMod p256p (2 * y1) % p256p
        else (y2 + p256p - y1) * invMod p256p (x2 + p256p - x1) % p256p
      let x3 := (l * l + 2 * p256p - x1 - x2) % p256p
      some (x3, (l * (x1 + p256p - x3) + p256p - y1) % p256p)

/-- A multiple of a point, by a factor of at most `fuel` bits. -/
def p256mul : Nat → Nat → Option (Nat × Nat) → Option (Nat × Nat)
  | 0, _, _ => none
  | fuel + 1, k, q =>
    let r := p256mul fuel (k / 2) (p256add q q)
    if k % 2 == 1 then p256add r q else r

/-- Whether a point lies on the curve. -/
def onCurve (x y : Nat) : Bool := x < p256p && y < p256p && y * y % p256p == (x * x * x + (p256p - 3) * x + p256b) % p256p

/-- ECDSA verification of a digest. -/
def ecdsaOk (x y digest r t : Nat) : Bool :=
  if !onCurve x y || r == 0 || p256n ≤ r || t == 0 || p256n ≤ t then false
  else
    let w := invMod p256n t
    match p256add (p256mul 256 (digest * w % p256n) (some p256g)) (p256mul 256 (r * w % p256n) (some (x, y))) with
    | some (u, _) => u % p256n == r
    | none => false

/-- An ECDSA signature (r, s) of a digest with a nonce k, as 512 bits. -/
def ecdsaSign (d digest k : Nat) : BitVec 512 :=
  match p256mul 256 k (some p256g) with
  | none => 0
  | some (u, _) =>
    let r := u % p256n
    BitVec.ofNat 512 (r * 2 ^ 256 + invMod p256n k * ((digest + r * d) % p256n) % p256n)

/-! ### Measurements and keys -/

/-- BOOTST.DONE, REC and LOGFULL (R433). -/
def Security.done (c : Security) : Bool := c.bootst.getLsbD 63

/-- A measurement register extended, with its log entry (R432). -/
def Security.extend (c : Security) (mr : Fin 3) (stage : BitVec 8) (version : Word) (digest : BitVec 256) : Security :=
  let c := { c with mr := c.mr.set mr (BitVec.ofNat 256 (sha256 (beBytes 32 c.mr[mr].toNat ++ beBytes 32 digest.toNat))) }
  if c.log.length < 64 then { c with log := c.log ++ [⟨stage, version, digest⟩] }
  else { c with bootst := c.bootst ||| 0x2000000000000000#64 }

/-- MEASUREMENT_EXTEND (R432). -/
def execMeasurementExtend (mr : Fin 3) (stage : BitVec 8) (version : Word) (digest : BitVec 256) (s : State) :
    Host.Outcome State Fault Refusal := .next { s with sec := s.sec.extend mr stage version digest }

/-- A log entry as eight words (R432), the digest's first byte lowest. -/
def LogEntry.words (e : LogEntry) : List Nat :=
  [e.stage.toNat, e.version.toNat, 0, 0] ++ (List.range 4).map fun i =>
    ofBytes ((beBytes 32 e.digest.toNat).drop (8 * i) |>.take 8 |>.reverse)

/-- The bytes of the log. -/
def Security.logBytes (c : Security) : List Nat := c.log.flatMap fun e => e.words.flatMap fun w => (beBytes 8 w).reverse

/-- A private key (R434). -/
def deriveKey (label input : List Nat) : BitVec 256 :=
  BitVec.ofNat 256 (1 + hmac Config.deviceSecret.toNat (label ++ input) % (p256n - 1))

/-- The labels "IDK" and "ALK". -/
def labelIdk : List Nat := [0x49, 0x44, 0x4B]
def labelAlk : List Nat := [0x41, 0x4C, 0x4B]

/-! ### Boot -/

/-- The first check of a slot that fails: 0 for none, and 1 to 4 as BOOTST reports it (R431, R433). -/
def imageFailure (slot : Option Config.Image) : Nat :=
  match slot with
  | none => 4
  | some m =>
    if !m.readable then 4
    else if sha256 (beBytes 32 m.keyX.toNat ++ beBytes 32 m.keyY.toNat) != Config.fusedKeyHash.toNat then 1
    else if m.version.toNat < Config.fusedRollback.toNat then 3
    else if !ecdsaOk m.keyX.toNat m.keyY.toNat (sha256 (m.bytes.map BitVec.toNat)) m.sigR.toNat m.sigS.toNat then 2
    else 0

/-- The public key of a private key, as 64 bytes. -/
def publicKey (d : Nat) : List Nat :=
  match p256mul 256 d (some p256g) with
  | some (x, y) => beBytes 32 x ++ beBytes 32 y
  | none => []

/-- Measurements, keys and the start of root firmware from a slot (R431 step 6, R432, R434). -/
def Security.start (c : Security) (m : Config.Image) (slotB : Bool) (failure nonce : Nat) : Security :=
  let c := c.extend 0 Config.romStage Config.romVersion Config.romDigest
  let c := c.extend 1 Config.firmwareStage m.version (BitVec.ofNat 256 (sha256 (m.bytes.map BitVec.toNat)))
  let idk := deriveKey labelIdk []
  let alk := deriveKey labelAlk (beBytes 32 c.mr[1].toNat)
  { c with
    boot := .running, identityKey := idk, aliasKey := alk, secretHidden := true
    aliasCert := ecdsaSign idk.toNat (sha256 (publicKey alk.toNat)) nonce
    bootst := c.bootst ||| BitVec.ofNat 64 (2 ^ 63 + (if slotB then 16 else 0) + failure) }

/-- A signing nonce, drawn free in 1 to n − 1. -/
def State.nonce (s : State) : Nat := 1 + (Config.freeBits 256 s.free).toNat % (p256n - 1)

/-- The management cores let go, at M (R431 step 6). -/
def State.releaseManagement (s : State) : State :=
  s.mapHarts fun h => if h.wait == .held then { h with wait := .run, prv := .m, pc := Config.firmwareEntry (h.id - 0x8000) } else h

/-- BOOT_SEQUENCE (R431). -/
def State.bootSequence (s : State) : State :=
  if s.sec.boot != .pending then s
  else
    let a := imageFailure s.sec.slotA
    let b := imageFailure s.sec.slotB
    let go (m : Config.Image) (slotB : Bool) (failure : Nat) : State :=
      ({ s with sec := s.sec.start m slotB failure s.nonce, free := s.free + 1 }).releaseManagement
    match if a == 0 then s.sec.slotA else none, if b == 0 then s.sec.slotB else none with
    | some m, _ => go m false 0
    | none, some m => go m true a
    | none, none =>
      { s with sec := { s.sec with boot := .recovery, bootst := s.sec.bootst ||| BitVec.ofNat 64 (2 ^ 62 + a) } }

/-- BOOT_SEQUENCE (R431). -/
def execBootSequence (s : State) : Host.Outcome State Fault Refusal := .next s.bootSequence

/-! ### SPDM -/

/-- What a measurement index returns: MR0 to MR2, or the digest of the log; nothing for another index (R435). -/
def Security.measurement (c : Security) (index : Nat) : Option Nat :=
  match index with
  | 1 => some c.mr[0].toNat
  | 2 => some c.mr[1].toNat
  | 3 => some c.mr[2].toNat
  | 4 => some (sha256 c.logBytes)
  | _ => none

/-- The certificate chain of the alias key: it ends in the identity key's certificate (R434, R435). -/
def Security.chain (c : Security) : List Cert :=
  [⟨BitVec.ofNat 512 (ofBytes (publicKey c.aliasKey.toNat)), c.aliasCert⟩,
   ⟨BitVec.ofNat 512 (ofBytes (publicKey c.identityKey.toNat)), Config.identityCert⟩]

/-- The version that a response carries, 1.2 or 1.3: the requester has chosen it, and it is drawn free (R435, assumption 16). -/
def State.spdmVersion (s : State) : Nat := if Config.freeBits 1 (s.free + 1) == 1#1 then 0x13 else 0x12

/-- A response signed with the alias key: its version and bytes and the 64 bytes of the signature, with the chain. -/
def State.signed (s : State) (body : List Nat) : State :=
  let body := s.spdmVersion :: body
  let sig := ecdsaSign s.sec.aliasKey.toNat (sha256 body) s.nonce
  { s with free := s.free + 2, reply := some (.signed ((body ++ beBytes 64 sig.toNat).map (BitVec.ofNat 8)) s.sec.chain) }

/-- A request answered (R435). -/
def State.answerSpdm (s : State) (r : SpdmRequest) : State :=
  match r with
  | .challenge nonce => s.signed (beBytes 32 nonce.toNat)
  | .measurements index nonce =>
    match s.sec.measurement index.toNat with
    | some x => s.signed (index.toNat :: (beBytes 32 x ++ beBytes 32 nonce.toNat))
    | none => { s with reply := some .errorResponse }
  | .keyExchange session stream _ =>
    { s with
      free := s.free + 1, reply := some .done
      sec := { s.sec with
        sessions := ⟨session, stream, Config.freeBits 256 s.free⟩ :: s.sec.sessions.filter (fun x => x.id != session) } }

/-- A request that arrives: answered now, or after BOOTST.DONE (R435). -/
def State.askSpdm (s : State) (r : SpdmRequest) : State :=
  if s.sec.done then s.answerSpdm r else { s with sec := { s.sec with asked := s.sec.asked ++ [r] } }

/-- SPDM_CHALLENGE (R435). -/
def execSpdmChallenge (nonce : BitVec 256) (s : State) : Host.Outcome State Fault Refusal := .next (s.askSpdm (.challenge nonce))
/-- SPDM_GET_MEASUREMENTS (R435). -/
def execSpdmGetMeasurements (index : BitVec 8) (nonce : BitVec 256) (s : State) : Host.Outcome State Fault Refusal :=
  .next (s.askSpdm (.measurements index nonce))
/-- SPDM_KEY_EXCHANGE (R435). -/
def execSpdmKeyExchange (session : BitVec 32) (stream : Fin 9) (peerKey : BitVec 512) (s : State) :
    Host.Outcome State Fault Refusal := .next (s.askSpdm (.keyExchange session stream peerKey))

end Sys2Proof.Machine
end

