-- ==== Sys2Proof/Machine/Power.lean ====
section
/-! DEFINITION. The power controller (R436, R437). -/

namespace Sys2Proof.Machine

/-- A pending grant posted to a gang and each of its harts, in place of any that it had (R30, R436). -/
def State.postGrant (s : State) (g : Gang) (lanes : Nat) : State :=
  let p : Grant := ⟨lanes, (g.pending.getD g.grant).q⟩
  (s.updGang g.id fun x => { x with pending := some p }).mapHarts fun h => if h.inGang g.id then { h with pending := some p } else h

/-- The gang of lowest effective priority among some; the one placed earliest among equals (R436). -/
def lowestGang : List Gang → Option Gang
  | [] => none
  | g :: gs =>
    match lowestGang gs with
    | none => some g
    | some y => if y.prio < g.prio || (y.prio == g.prio && y.placed < g.placed) then some y else some g

/-- The module cap in force (R433). -/
def Security.cap (c : Security) : Nat := min 2200 (fld c.mcap.toNat 15 0)

/-- One step against an excess among some gangs: lanes halved, or a gang pre-empted when all are at 4 lanes (R436). -/
def State.cutPower (s : State) (gangs : List Gang) : State :=
  match lowestGang (gangs.filter fun g => 4 < g.lanes) with
  | some g => { s.postGrant g (max 4 (g.lanes / 2)) with sec.cut := 0 }
  | none =>
    if s.sec.cut != 0 then { s with sec.cut := s.sec.cut - 1 }
    else match lowestGang gangs with
    | some g =>
      let s := s.preempt g.id
      { s with sec.cut := if (s.gang? g.id).isSome then 0 else 9 }
    | none => s

/-- One gang raised by one step, up to its request; which one is open (R436). -/
def State.raisePower (s : State) : State :=
  match s.pick (s.gangs.filter fun g => g.lanes < g.request.lanes) with
  | (some g, s) => s.postGrant g (min g.request.lanes (2 * g.lanes))
  | (none, s) => s

/-- The registers that a sample writes (R437); telemetry only where TELEN is set. -/
def Partition.sample (q : Partition) (average : Nat) (temp : BitVec 16) (energy : Word) (acting : Bool) : Partition :=
  { q with
    average := BitVec.ofNat 16 average
    throttled := acting
    tmax := if q.telen.getLsbD 0 then temp.setWidth 64 else q.tmax
    energy := if q.telen.getLsbD 0 then energy else q.energy }

/-- POWER_SAMPLE (R436, R437): the averages over the last 1 ms of the module and of each partition, in W. -/
def State.powerSample (s : State) (module : Nat) (parts : List Nat) (temp : BitVec 16) (energy : Word) : State :=
  let s := (s.gangs.map Gang.id).foldl State.settleGrant s
  let moduleOver : Bool := s.sec.cap < module
  let s := (List.range 8).foldl (fun s p => s.updPart p fun q =>
    let r := q.sample (parts.getD p 0) temp energy false
    { r with throttled := moduleOver || r.overBudget }) s
  if moduleOver || (List.range 8).any fun p => (s.partAt p).overBudget then
    ({ s with sec := { s.sec with above := s.sec.above + 1, below := 0 } }).cutPower
      (s.gangs.filter fun g => moduleOver || (s.partAt g.part.val).overBudget)
  else
    let quiet := 10 * module < 9 * s.sec.cap && (List.range 8).all fun p =>
      let q := s.partAt p
      q.pbud == 0 || 10 * q.average.toNat < 9 * fld q.pbud.toNat 15 0
    let n := if quiet then s.sec.below + 1 else 0
    let s := { s with sec := { s.sec with above := 0, below := n, cut := 0 } }
    if 100 ≤ n && n % 10 == 0 then s.raisePower else s

/-- POWER_SAMPLE (R436). -/
def execPowerSample (module : Nat) (parts : List Nat) (temp : BitVec 16) (energy : Word) (s : State) :
    Host.Outcome State Fault Refusal := .next (s.powerSample module parts temp energy)

/-- POWER_GRANT_ADOPT_TIMEOUT (R436): the gang is pre-empted if it still has a grant to adopt. -/
def State.adoptTimeout (s : State) (g : Nat) : State :=
  let s := s.settleGrant g
  if ((s.gang? g).bind Gang.pending).isSome then s.preempt g else s

/-- POWER_GRANT_ADOPT_TIMEOUT (R436). -/
def execPowerGrantAdoptTimeout (g : Nat) (s : State) : Host.Outcome State Fault Refusal := .next (s.adoptTimeout g)

/-- PWRST as it reads (R437): the lowest lane count of a resident hart, 16 where there is none. -/
def State.pwrst (s : State) (p : Nat) : Word :=
  let q := s.partAt p
  let lanes := (s.harts.filter fun h => h.part.val == p && h.gang.isSome && h.wait != .ended && h.wait != .vacant).map fun h => h.grant.lanes
  BitVec.ofNat 64 ((if q.throttled then 2 ^ 63 else 0) + q.average.toNat * 2 ^ 32 + lanes.foldl min 16)

end Sys2Proof.Machine
end

