-- ==== Sys2Proof/Machine/Boot.lean ====
section
/-! DEFINITION. The resets of R427. -/

namespace Sys2Proof.Machine

/-- A power-on reset at any time (R427, R439): memory, records and registers as State.reset has them; the host keeps its own memory
and the flash its slots; the counts of the model run on, and so do the steps that the outside has yet to make. -/
def State.powerOn (s : State) : State :=
  { State.reset with
    mem := s.mem.filter fun c => 2 ^ 50 ≤ c.1 && c.1 < 2 ^ 51
    sec := Security.reset s.sec.slotA s.sec.slotB
    agenda := s.agenda, upsets := s.upsets, stops := s.stops, free := s.free, steps := s.steps, resetStep := s.steps }

/-- A warm reset (R427): every gang is killed without a signal, scratchpads and registers reset; HBM4E and LPDDR6 keep their
contents under the fallback sequencers, poison records and quarantine tables their entries. -/
def State.warmReset (s : State) : State :=
  { s.powerOn with
    mem := s.mem.filter fun c => c.1 < 2 ^ 52
    sectors := s.sectors
    memctl := { Memctl.reset with poison := s.memctl.poison, quarantine := s.memctl.quarantine, fallback := 0xFF#8 } }

/-- POWER_ON_RESET (R427). -/
def execPowerOnReset (s : State) : Host.Outcome State Fault Refusal := .next s.powerOn

/-- WARM_RESET (R427). -/
def execWarmReset (s : State) : Host.Outcome State Fault Refusal := .next s.warmReset

/-- BOOTCMD written at M: WARM alone starts a warm reset; other bits must be zero (R433). -/
def State.bootcmd (s : State) (w : Word) : State := if w == 1 then s.warmReset else s

/-- BOOTCMD_WARM (R433). -/
def execBootcmdWarm (w : Word) (s : State) : Host.Outcome State Fault Refusal := .next (s.bootcmd w)

end Sys2Proof.Machine
end

