-- ==== Sys2Proof/Machine/Scalar.lean ====
section
/-! DEFINITION. Scalar integer instructions of majors 0x01 to 0x07 and 0x0D (R185 to R190) and scalar loads and stores of majors
0x08 and 0x09 (R191, R192). -/

namespace Sys2Proof.Machine

/-- A truth value as a 64-bit number. -/
def bool (b : Bool) : Word := if b then 1 else 0

/-- Bits [127:64] of a product (R186). -/
def mulHigh (a b : Int) : Word := BitVec.ofInt 64 (a * b / 2 ^ 64)

/-- The quotients and remainders of R187. -/
def quotient (a b : Word) : Word := if b = 0 then BitVec.allOnes 64 else BitVec.ofInt 64 (a.toInt.tdiv b.toInt)
def quotientU (a b : Word) : Word := if b = 0 then BitVec.allOnes 64 else a / b
def remainder (a b : Word) : Word := if b = 0 then a else BitVec.ofInt 64 (a.toInt.tmod b.toInt)
def remainderU (a b : Word) : Word := if b = 0 then a else a % b

/-- A scalar instruction without memory or control effects: s[sd] := f of the hart, and its copy (R185, R173, R174). -/
def scalarOp (sd : SReg) (f : Hart → Word) : Act Unit := do
  begin true (.maskless .scalar)
  let h ← hart
  writeD sd (f h)

/-- ADD (R186). -/
def execAdd (sd sa sb : SReg) (s : State) : Host.Outcome State Fault Refusal :=
  run s (scalarOp sd fun h => h.rs sa + h.rs sb)

/-- SUB (R186). -/
def execSub (sd sa sb : SReg) (s : State) : Host.Outcome State Fault Refusal :=
  run s (scalarOp sd fun h => h.rs sa - h.rs sb)

/-- AND (R186). -/
def execAnd (sd sa sb : SReg) (s : State) : Host.Outcome State Fault Refusal :=
  run s (scalarOp sd fun h => h.rs sa &&& h.rs sb)

/-- OR (R186). -/
def execOr (sd sa sb : SReg) (s : State) : Host.Outcome State Fault Refusal :=
  run s (scalarOp sd fun h => h.rs sa ||| h.rs sb)

/-- XOR (R186). -/
def execXor (sd sa sb : SReg) (s : State) : Host.Outcome State Fault Refusal :=
  run s (scalarOp sd fun h => h.rs sa ^^^ h.rs sb)

/-- SLL (R186). -/
def execSll (sd sa sb : SReg) (s : State) : Host.Outcome State Fault Refusal :=
  run s (scalarOp sd fun h => h.rs sa <<< ((h.rs sb).toNat % 64))

/-- SRL (R186). -/
def execSrl (sd sa sb : SReg) (s : State) : Host.Outcome State Fault Refusal :=
  run s (scalarOp sd fun h => h.rs sa >>> ((h.rs sb).toNat % 64))

/-- SRA (R186). -/
def execSra (sd sa sb : SReg) (s : State) : Host.Outcome State Fault Refusal :=
  run s (scalarOp sd fun h => (h.rs sa).sshiftRight ((h.rs sb).toNat % 64))

/-- SLT (R186). -/
def execSlt (sd sa sb : SReg) (s : State) : Host.Outcome State Fault Refusal :=
  run s (scalarOp sd fun h => bool (BitVec.slt (h.rs sa) (h.rs sb)))

/-- SLTU (R186). -/
def execSltu (sd sa sb : SReg) (s : State) : Host.Outcome State Fault Refusal :=
  run s (scalarOp sd fun h => bool (BitVec.ult (h.rs sa) (h.rs sb)))

/-- MUL (R186). -/
def execMul (sd sa sb : SReg) (s : State) : Host.Outcome State Fault Refusal :=
  run s (scalarOp sd fun h => h.rs sa * h.rs sb)

/-- MULH (R186). -/
def execMulh (sd sa sb : SReg) (s : State) : Host.Outcome State Fault Refusal :=
  run s (scalarOp sd fun h => mulHigh (h.rs sa).toInt (h.rs sb).toInt)

/-- MULHU (R186). -/
def execMulhu (sd sa sb : SReg) (s : State) : Host.Outcome State Fault Refusal :=
  run s (scalarOp sd fun h => mulHigh (h.rs sa).toNat (h.rs sb).toNat)

/-- DIV (R186). -/
def execDiv (sd sa sb : SReg) (s : State) : Host.Outcome State Fault Refusal :=
  run s (scalarOp sd fun h => quotient (h.rs sa) (h.rs sb))

/-- DIVU (R186). -/
def execDivu (sd sa sb : SReg) (s : State) : Host.Outcome State Fault Refusal :=
  run s (scalarOp sd fun h => quotientU (h.rs sa) (h.rs sb))

/-- REM (R186). -/
def execRem (sd sa sb : SReg) (s : State) : Host.Outcome State Fault Refusal :=
  run s (scalarOp sd fun h => remainder (h.rs sa) (h.rs sb))

/-- REMU (R186). -/
def execRemu (sd sa sb : SReg) (s : State) : Host.Outcome State Fault Refusal :=
  run s (scalarOp sd fun h => remainderU (h.rs sa) (h.rs sb))

/-- MIN (R186). -/
def execMin (sd sa sb : SReg) (s : State) : Host.Outcome State Fault Refusal :=
  run s (scalarOp sd fun h => if BitVec.slt (h.rs sb) (h.rs sa) then h.rs sb else h.rs sa)

/-- MAX (R186). -/
def execMax (sd sa sb : SReg) (s : State) : Host.Outcome State Fault Refusal :=
  run s (scalarOp sd fun h => if BitVec.slt (h.rs sa) (h.rs sb) then h.rs sb else h.rs sa)

/-- MINU (R186). -/
def execMinu (sd sa sb : SReg) (s : State) : Host.Outcome State Fault Refusal :=
  run s (scalarOp sd fun h => if BitVec.ult (h.rs sb) (h.rs sa) then h.rs sb else h.rs sa)

/-- MAXU (R186). -/
def execMaxu (sd sa sb : SReg) (s : State) : Host.Outcome State Fault Refusal :=
  run s (scalarOp sd fun h => if BitVec.ult (h.rs sa) (h.rs sb) then h.rs sb else h.rs sa)

/-- CLZ (R186). -/
def execClz (sd sa : SReg) (s : State) : Host.Outcome State Fault Refusal :=
  run s (scalarOp sd fun h => BitVec.ofNat 64 (64 - bitLength 64 (h.rs sa).toNat))

/-- CTZ (R186). -/
def execCtz (sd sa : SReg) (s : State) : Host.Outcome State Fault Refusal :=
  run s (scalarOp sd fun h => BitVec.ofNat 64 (trailingZeros 64 (h.rs sa).toNat))

/-- POPC (R186). -/
def execPopc (sd sa : SReg) (s : State) : Host.Outcome State Fault Refusal :=
  run s (scalarOp sd fun h => BitVec.ofNat 64 (popcount 64 (h.rs sa).toNat))

/-- SLLI (R186). -/
def execSlli (sd sa : SReg) (sh : BitVec 6) (s : State) : Host.Outcome State Fault Refusal :=
  run s (scalarOp sd fun h => h.rs sa <<< sh.toNat)

/-- SRLI (R186). -/
def execSrli (sd sa : SReg) (sh : BitVec 6) (s : State) : Host.Outcome State Fault Refusal :=
  run s (scalarOp sd fun h => h.rs sa >>> sh.toNat)

/-- SRAI (R186). -/
def execSrai (sd sa : SReg) (sh : BitVec 6) (s : State) : Host.Outcome State Fault Refusal :=
  run s (scalarOp sd fun h => (h.rs sa).sshiftRight sh.toNat)

/-- ADDI (R189, R166). -/
def execAddi (sd sa : SReg) (imm : BitVec 16) (s : State) : Host.Outcome State Fault Refusal :=
  run s (scalarOp sd fun h => h.rs sa + imm.signExtend 64)

/-- ANDI (R189, R166). -/
def execAndi (sd sa : SReg) (imm : BitVec 16) (s : State) : Host.Outcome State Fault Refusal :=
  run s (scalarOp sd fun h => h.rs sa &&& imm.setWidth 64)

/-- ORI (R189, R166). -/
def execOri (sd sa : SReg) (imm : BitVec 16) (s : State) : Host.Outcome State Fault Refusal :=
  run s (scalarOp sd fun h => h.rs sa ||| imm.setWidth 64)

/-- XORI (R189, R166). -/
def execXori (sd sa : SReg) (imm : BitVec 16) (s : State) : Host.Outcome State Fault Refusal :=
  run s (scalarOp sd fun h => h.rs sa ^^^ imm.setWidth 64)

/-- SLTI (R189, R166). -/
def execSlti (sd sa : SReg) (imm : BitVec 16) (s : State) : Host.Outcome State Fault Refusal :=
  run s (scalarOp sd fun h => bool (BitVec.slt (h.rs sa) (imm.signExtend 64)))

/-- LIH (R189, R166). -/
def execLih (sd sa : SReg) (imm : BitVec 16) (s : State) : Host.Outcome State Fault Refusal :=
  run s (scalarOp sd fun h => (h.rs sa <<< 16) ||| imm.setWidth 64)

/-- LPC (R190): illegal in a lane block. -/
def execLpc (sd : SReg) (imm : BitVec 16) (s : State) : Host.Outcome State Fault Refusal :=
  run s do
    begin false (.maskless .scalar)
    let h ← hart
    writeD sd (h.pc + imm.signExtend 64)

/-- The address of an SM form (R191). -/
def Hart.smAddress (h : Hart) (b : Base) (off : BitVec 13) : Word := h.rbase b + off.signExtend 64

/-- A loaded value of n bytes extended to 64 bits (R191). -/
def extend (n : Nat) (uns : Bool) (x : Nat) : Word :=
  if uns then BitVec.ofNat 64 x else BitVec.ofInt 64 (sext (8 * n) x)

/-- LDS (R191, R192). -/
def execLds (sd : SReg) (base : Base) (size : Size) (uns : Bool) (off : BitVec 13) (s : State) :
    Host.Outcome State Fault Refusal :=
  run s do
    legal (!(uns && size == 3))
    begin true (.maskless .scalar)
    let h ← hart
    let n := 2 ^ size.val
    let x ← scalarLoad (h.smAddress base off).toNat n
    writeD sd (extend n uns x)

/-- STS (R191, R192); a lane-thread's under the Skew pass is made once its runs agree (R150, R400). -/
def execSts (sd : SReg) (base : Base) (size : Size) (off : BitVec 13) (s : State) : Host.Outcome State Fault Refusal :=
  run s do
    begin true (.maskless .none)
    let h ← hart
    let n := 2 ^ size.val
    compareLane
    scalarStore 0 (h.smAddress base off).toNat n ((h.rs sd).toNat % 2 ^ (8 * n))

end Sys2Proof.Machine
end

