-- ==== Sys2Proof/Machine/Control.lean ====
section
/-! DEFINITION. Control transfers of majors 0x0A to 0x0C (R193, R194), the system instructions of major 0x0F other than DONE (R198 to
R203, R325, R381), interrupts of the management cores (R376), and PFX (R173, R204). -/

namespace Sys2Proof.Machine

/-- A taken transfer: within a lane block the target lies strictly between VFETCH and LBEND (R40, R194). -/
def transfer (target : Word) : Act Unit := do
  let h ← hart
  match h.lane with
  | none => jumpTo target
  | some b =>
    legal (b.fetchPc.toNat < target.toNat && target.toNat < b.endPc.toNat)
    jumpTo target

/-- A compare-branch (R193). -/
def branch (off : BitVec 13) (taken : Hart → Bool) : Act Unit := do
  begin true .never
  let h ← hart
  if taken h then transfer (h.pc + 4 * off.signExtend 64) else pure ()

/-- BEQ (R193). -/
def execBeq (sa sb : SReg) (off : BitVec 13) (s : State) : Host.Outcome State Fault Refusal :=
  run s (branch off fun h => h.rs sa == h.rs sb)

/-- BNE (R193). -/
def execBne (sa sb : SReg) (off : BitVec 13) (s : State) : Host.Outcome State Fault Refusal :=
  run s (branch off fun h => h.rs sa != h.rs sb)

/-- BLT (R193). -/
def execBlt (sa sb : SReg) (off : BitVec 13) (s : State) : Host.Outcome State Fault Refusal :=
  run s (branch off fun h => BitVec.slt (h.rs sa) (h.rs sb))

/-- BGE (R193). -/
def execBge (sa sb : SReg) (off : BitVec 13) (s : State) : Host.Outcome State Fault Refusal :=
  run s (branch off fun h => !BitVec.slt (h.rs sa) (h.rs sb))

/-- BLTU (R193). -/
def execBltu (sa sb : SReg) (off : BitVec 13) (s : State) : Host.Outcome State Fault Refusal :=
  run s (branch off fun h => BitVec.ult (h.rs sa) (h.rs sb))

/-- BGEU (R193). -/
def execBgeu (sa sb : SReg) (off : BitVec 13) (s : State) : Host.Outcome State Fault Refusal :=
  run s (branch off fun h => !BitVec.ult (h.rs sa) (h.rs sb))

/-- JMP (R193). -/
def execJmp (off : BitVec 26) (s : State) : Host.Outcome State Fault Refusal :=
  run s do
    begin true .never
    let h ← hart
    transfer (h.pc + 4 * off.signExtend 64)

/-- CALL (R193): illegal in a lane block. -/
def execCall (off : BitVec 26) (s : State) : Host.Outcome State Fault Refusal :=
  run s do
    begin false .never
    let h ← hart
    updCur fun h => h.ws 31 (h.pc + 4)
    jumpTo (h.pc + 4 * off.signExtend 64)

/-- The target of JR and CALLR: an alignment fault unless it is a multiple of 4 (R200). -/
def alignedTarget (t : Word) : Act Unit :=
  if t.toNat % 4 = 0 then pure () else raise { code := 0x06, deta := t.toNat, acc := 3 }

/-- JR (R200). -/
def execJr (sa : SReg) (s : State) : Host.Outcome State Fault Refusal :=
  run s do
    begin false .never
    let h ← hart
    alignedTarget (h.rs sa)
    jumpTo (h.rs sa)

/-- CALLR (R200). -/
def execCallr (sd sa : SReg) (s : State) : Host.Outcome State Fault Refusal :=
  run s do
    begin false .never
    let h ← hart
    alignedTarget (h.rs sa)
    updCur fun h => h.ws sd (h.pc + 4)
    jumpTo (h.rs sa)

/-- TRAP (R199): the environment-call trap with code n, taken once TRAP has completed. -/
def execTrap (code : BitVec 8) (s : State) : Host.Outcome State Fault Refusal :=
  run s do
    begin false .never
    raise { code := 0x0A, deta := code.toNat }

/-- BRK (R199). -/
def execBrk (s : State) : Host.Outcome State Fault Refusal :=
  run s do
    begin false .never
    raise { code := 0x09 }

/-- The level check of the privileged functions, before any other (R198, R324, R377). -/
def needPrivilege : Act Unit := do
  let h ← hart
  if h.prv == .u then privilege else pure ()

/-- TRAPM (R325): to M at S or M, the privilege trap at U. -/
def execTrapm (code : BitVec 8) (s : State) : Host.Outcome State Fault Refusal :=
  run s do
    needPrivilege
    begin false .never
    raise { code := 0x0B, deta := code.toNat }

/-- TRET (R203, R381). -/
def execTret (s : State) : Host.Outcome State Fault Refusal :=
  run s do
    needPrivilege
    begin false .never
    returnFromTrap

/-- What fetch of the hart reads after SYNCI: the stores it performed or read (R201). -/
def syncView (v : List ViewByte) (m : Memory) : List ViewByte :=
  v.filterMap fun e =>
    match e.seen with
    | none => some e
    | some b => if Memory.read m e.key == b then none else some ⟨e.key, b, none⟩

/-- SYNCI (R201). -/
def execSynci (s : State) : Host.Outcome State Fault Refusal :=
  run s do
    begin false .never
    fun s => .ok ((), { s with cur.view := syncView s.cur.view s.mem })

/-! ### Interrupts of the management cores -/

/-- The lowest code pending and not masked in a set (R376). -/
def TrapSet.takeable (t : TrapSet) : Option Nat :=
  let x := t.tstate.toNat
  firstBelow (fun c => bitOf x (16 + c) && !bitOf x (8 + c)) 8

/-- The interrupt that a management core takes at its next boundary: the lowest code of both sets, and the level of the set that holds it
(R376); the M set first where both hold that code (assumption 10). -/
def Hart.interrupt? (h : Hart) : Option (Level × Nat) :=
  if !isMgmt h.id || h.frozen then none
  else if (h.trapSet h.prv).tstate.getLsbD 6 then none
  else
    match h.sset.takeable, h.mset.takeable with
    | some c, some d => some (if d ≤ c then (.m, d) else (.s, c))
    | some c, none => some (.s, c)
    | none, some d => some (.m, d)
    | none, none => none

/-- IDLE (R203): on a management core it waits until an interrupt can be taken; on a hart context it is illegal. -/
def execIdle (s : State) : Host.Outcome State Fault Refusal :=
  run s do
    needPrivilege
    begin false .never
    let h ← hart
    legal (isMgmt h.id)
    if h.interrupt?.isSome then updCur fun h => { h with wait := .run } else stall .idle

/-- Whether a core may take its interrupt now: at an instruction boundary (R376), not inside an instruction that waits for a lessor, and
with the accesses performed that the frame's stores follow (R133, R380). -/
def State.mayInterrupt (s : State) (h : Hart) : Bool :=
  match h.interrupt? with
  | none => false
  | some (l, _) =>
    !h.undivided && !s.peerData.any (fun e => e.1.id == h.id)
      && s.cleared h (.stream 0 true) && s.cleared h (.buffer (h.trapSet l).frame 512)

/-- INTERRUPT_ENTRY (R376): management core m, when it is the one that issues, enters its handler. A stalled IDLE completes first
(R203), so that TRESUME is the next instruction. -/
def State.takeInterrupt (s : State) : Host.Outcome State Fault Refusal :=
  match s.cur.interrupt? with
  | none => .next s
  | some (l, c) =>
    if !s.mayInterrupt s.cur then .next s
    else
      let h := if s.cur.wait == .idle then s.cur.retire else s.cur
      let s := ({ s with cur := { h.leaveLane with wait := .run } }).breakLinks s.cur.id
      s.enter l s.cur.pc s.cur.pc (BitVec.ofNat 64 (2 ^ 63 + c)) 0 0

/-! ### PFX -/

/-- PFX (R173, R204). -/
def execPfx (pm : MReg) (inv : Bool) (cls : BitVec 2) (idx : BitVec 5) (s : State) : Host.Outcome State Fault Refusal :=
  run s do
    legal ((cls != 3 || idx.toNat < 16) && (cls != 0 || idx == 0))
    begin false .never
    endAs fun s => { s with cur := { s.cur.retire with
      pfxs := BitVec.ofNat 16 (2 ^ 15 + pm.val * 2 ^ 11 + (if inv then 2 ^ 10 else 0) + cls.toNat * 2 ^ 8
        + idx.toNat * 2 ^ 3) } }

end Sys2Proof.Machine
end

