-- ==== Sys2Proof/Machine/Registers.lean ====
section
/-! DEFINITION. Control registers (R65, R66, R195 to R197, R324, R326, R363, R373, R410, R437) and the management address space (R327,
R333, R428 to R430): reads, writes by every master, and what a write to each register does. -/

namespace Sys2Proof.Machine

/-! ### The registers -/

/-- A control register (R65, R324). -/
inductive CReg where
  | gl
  | glanes
  | erix
  | fcs
  | gseedLo
  | gseedHi
  | gbr
  | pfxs
  | kstat
  | cyc
  | f (i : Fin 8)
  | c (i : Fin 8)
  | tag (i : Fin 32)
  | hctl
  | trap (m : Bool) (i : Fin 7)
  | phctl
  | frzst
  | frzadr
  | frzcmd
  | ptroot
  | scout
  | inva
  | invst
  | mva
  | mdst
  | mcmd
  | mstat
  | erra
  | errb
  | errpop
  | errcnt
  | errctl
  | patcfg
  | patstat
  | psel
  | pdat
  | efrzst
  | efrzcmd
  | pbud
  | pwrst
  | tmax
  | energy
  | bgceil
  | telen
  | part (p : Fin 8)
deriving DecidableEq, Repr

/-- The single-register numbers (R65, R324, R363, R367, R410, R437). -/
def cregSingle : List (Nat × CReg) :=
  [(0x000, .gl), (0x001, .glanes), (0x002, .erix), (0x003, .fcs), (0x004, .gseedLo), (0x005, .gseedHi), (0x006, .gbr),
   (0x007, .pfxs), (0x008, .kstat), (0x009, .cyc), (0x100, .hctl), (0x110, .phctl), (0x111, .frzst), (0x112, .frzadr),
   (0x113, .frzcmd), (0x120, .ptroot), (0x121, .scout), (0x124, .inva), (0x125, .invst), (0x128, .mva), (0x129, .mdst),
   (0x12A, .mcmd), (0x12B, .mstat)]
  ++ [(0x140, .erra), (0x141, .errb), (0x142, .errpop), (0x143, .errcnt), (0x144, .errctl), (0x145, .patcfg),
   (0x146, .patstat), (0x147, .psel), (0x148, .pdat), (0x149, .efrzst), (0x14A, .efrzcmd), (0x180, .pbud), (0x181, .pwrst),
   (0x182, .tmax), (0x183, .energy), (0x184, .bgceil), (0x185, .telen)]

/-- The register of a number; none where it is unassigned. -/
def cregOf (n : Nat) : Option CReg :=
  if 0x010 ≤ n && n < 0x018 then some (.f (Fin.ofNat 8 (n - 0x010)))
  else if 0x018 ≤ n && n < 0x020 then some (.c (Fin.ofNat 8 (n - 0x018)))
  else if 0x020 ≤ n && n < 0x040 then some (.tag (Fin.ofNat 32 (n - 0x020)))
  else if 0x101 ≤ n && n < 0x108 then some (.trap false (Fin.ofNat 7 (n - 0x101)))
  else if 0x200 ≤ n && n < 0x208 then some (.part (Fin.ofNat 8 (n - 0x200)))
  else if 0x210 ≤ n && n < 0x217 then some (.trap true (Fin.ofNat 7 (n - 0x210)))
  else (cregSingle.find? fun e => e.1 == n).map Prod.snd

/-- The registers marked RO: all of whose fields are RO (R65). -/
def CReg.readOnly : CReg → Bool
  | .glanes | .gbr | .kstat | .cyc | .c _ | .tag _ | .frzst | .frzadr | .invst | .mstat | .erra | .errb | .patstat | .efrzst
  | .pwrst | .tmax | .energy => true
  | .trap _ i => i.val == 2 || i.val == 3 || i.val == 4
  | _ => false

/-- The registers whose reads wait for the matrix queue (R66). -/
def CReg.waits : CReg → Bool
  | .fcs | .gseedLo | .gseedHi | .erix | .gl | .kstat | .tag _ => true
  | _ => false

/-- GLANES as it reads (R61). -/
def Hart.glanes (h : Hart) : Nat := h.grant.lanes + h.grant.q * 2 ^ 8 + (if h.pending.isSome then 2 ^ 16 else 0)

/-- A register of a trap set by its place in the set (R373). -/
def TrapSet.reg (t : TrapSet) (i : Fin 7) : Word := BitVec.ofNat 64 (t.words.getD i.val 0)

/-- What a register reads as for a hart; a WO register reads zero (R8). -/
def State.creg (s : State) (h : Hart) (r : CReg) : Word :=
  let q := s.parts[h.part]
  match r with
  | .gl => h.gl.setWidth 64
  | .glanes => BitVec.ofNat 64 h.glanes
  | .erix => h.erix.setWidth 64
  | .fcs => h.fcs.setWidth 64
  | .gseedLo => h.gseedLo
  | .gseedHi => h.gseedHi
  | .gbr => BitVec.ofNat 64 (((h.gang.bind s.gang?).map Gang.gbr).getD 0)
  | .pfxs => h.pfxs.setWidth 64
  | .kstat => h.kstat
  | .cyc => BitVec.ofNat 64 (Config.clkBetween (coreOf h.id) s.resetStep (s.steps - s.resetStep))
  | .f i => (h.f[i]).setWidth 64
  | .c i => (h.c[i]).setWidth 64
  | .tag i => h.tag[i]
  | .hctl => BitVec.ofNat 64 h.hctl
  | .trap m i => (if m then h.mset else h.sset).reg i
  | .phctl => q.phctl
  | .frzst => h.frzst
  | .frzadr => h.frzadr
  | .ptroot => q.ptroot
  | .scout => q.scout
  | .invst => if q.inva.isEmpty then 0 else 1
  | .mva => q.mva
  | .mdst => q.mdst
  | .mstat => q.mstat
  | .erra => q.erra
  | .errb => q.errb
  | .errcnt => q.errcnt
  | .errctl => q.errctl
  | .patcfg => q.patcfg
  | .patstat => q.patstat
  | .psel => q.psel
  | .pdat => s.pdat h.part.val
  | .efrzst => q.efrzst
  | .pbud => q.pbud
  | .pwrst => s.pwrst h.part.val
  | .tmax => q.tmax
  | .energy => q.energy
  | .bgceil => q.bgceil
  | .telen => q.telen
  | .part p => (s.parts[p]).part
  | .frzcmd | .inva | .mcmd | .errpop | .efrzcmd => 0

/-- A trap set with one of its registers written: RW fields only (R373). -/
def TrapSet.put (t : TrapSet) (i : Fin 7) (w : Word) : TrapSet :=
  match i with
  | 0 => { t with tbase := w &&& 0x01FFFFFFFFFFFFFC#64 }
  | 1 => { t with tresume := w &&& 0x01FFFFFFFFFFFFFF#64 }
  | 5 => { t with tstate := (t.tstate &&& ~~~0xFF40#64) ||| (w &&& 0xFF40#64) }
  | 6 => { t with tframe := w &&& 0x01FFFFFFFFFFFE00#64 }
  | _ => t

/-- A write to FRZCMD of a hart (R336): bits [63:2] must be zero. -/
def State.frzcmd (s : State) (id : HartId) (w : Word) : State :=
  if w == 1 then s.unfreeze id else if w == 2 then s.kill id else s

/-- Whether a write would leave FCS.RM or PARTp as its rule forbids: the reserved-operand trap (R63, R196, R328). -/
def State.cregTrap (s : State) (r : CReg) (w : Word) : Bool :=
  match r with
  | .fcs => 6 ≤ fld w.toNat 10 8
  | .part p => !s.partWriteOk p.val w
  | _ => false

/-- A register of a hart written: each field by its access code; what the hardware then does (R8, R196). -/
def State.putCreg (s : State) (h : Hart) (r : CReg) (w : Word) : State :=
  let p := h.part.val
  let own (f : Hart → Hart) : State := s.updHart h.id f
  let unit (f : Partition → Partition) : State := s.updPart p f
  if s.cregTrap r w then s
  else match r with
  | .gl => own fun h => { h with gl := BitVec.ofNat 15 (min 16384 (w.toNat % 2 ^ 15)) }
  | .erix => own fun h => { h with erix := w.setWidth 14 }
  | .fcs => own fun h => { h with fcs := w.setWidth 11 &&& 0x73F#11 }
  | .gseedLo => own fun h => { h with gseedLo := w }
  | .gseedHi => own fun h => { h with gseedHi := w }
  | .pfxs => own fun h => { h with pfxs := w.setWidth 16 &&& 0xFFF8#16 }
  | .f i => own fun h => { h with f := h.f.set i (w.setWidth 32 &&& 0xFF0701FF#32) }
  | .hctl => own fun h => { h with skew := w.getLsbD 8 }
  | .trap false i => own fun h => { h with sset := h.sset.put i w }
  | .trap true i => own fun h => { h with mset := h.mset.put i w }
  | .phctl => unit fun q => { q with phctl := w &&& 0x100FF#64 }
  | .frzcmd => s.frzcmd h.id w
  | .ptroot => unit fun q => { q with ptroot := w &&& 0x800FFFFFFFFFF000#64 }
  | .scout => unit fun q => { q with scout := w &&& 0x7F#64 }
  | .inva => s.writeInva p w
  | .mva => unit fun q => { q with mva := w &&& 0x01FFFFFFFFFFF000#64 }
  | .mdst => unit fun q => { q with mdst := w &&& 0x000FFFFFFFFFF000#64 }
  | .mcmd => if w.getLsbD 0 then s.startMigration p else s
  | .errpop => s.errpop p w
  | .errcnt => unit fun q => { q with errcnt := w }
  | .errctl => unit fun q => { q with errctl := w &&& 0xFF01#64 }
  | .patcfg => unit fun q => { q with patcfg := w &&& 0x80000000FFFFFFFF#64 }
  | .psel => unit fun q => { q with psel := w &&& 0x80000000001F01FF#64 }
  | .pdat => if w.getLsbD 63 then s else s.pdatRemove p
  | .efrzcmd => s.efrzcmd p w
  | .pbud => unit fun q => { q with pbud := w &&& 0xFFFF#64 }
  | .bgceil => unit fun q => { q with bgceil := w &&& 0xFF#64 }
  | .telen => unit fun q => { q with telen := w &&& 1#64 }
  | .part p => s.writePart p.val w
  | _ => s

/-! ### The access instructions -/

/-- Whether a level may name a number (R65, R324). -/
def numberAllowed (l : Level) (n : Nat) : Bool := (l != .u || n < 0x100) && (l != .s || n < 0x200)

/-- A control-register access (R195 to R197): the level, legality, the wait of R66, the value check, then s[sd] and the register. -/
def crAccess (num : BitVec 12) (sd : Option SReg) (new : Option (Hart → Word → Word)) : Act Unit := do
  let h ← hart
  let n := num.toNat
  if h.prv == .s && 0x200 ≤ n then privilege
  begin false .never
  legal (numberAllowed h.prv n)
  match cregOf n with
  | none => illegal
  | some r =>
    legal (new.isNone || !r.readOnly)
    if r.waits then waitFor .entries
    let s ← get
    let old := s.creg s.cur r
    match new with
    | none =>
      match sd with
      | some d => updCur fun h => h.ws d old
      | none => pure ()
    | some f =>
      let w := f s.cur old
      operand (!s.cregTrap r w)
      match sd with
      | some d => updCur fun h => h.ws d old
      | none => pure ()
      modify fun s => s.putCreg s.cur r w
      if r == .pfxs then endAs fun s => { s with cur := { s.cur.retire with pfxs := s.cur.pfxs } }

/-- CRGET (R195). -/
def execCrget (sd : SReg) (num : BitVec 12) (s : State) : Host.Outcome State Fault Refusal := run s (crAccess num (some sd) none)

/-- CRPUT (R195). -/
def execCrput (sa : SReg) (num : BitVec 12) (s : State) : Host.Outcome State Fault Refusal :=
  run s (crAccess num none (some fun h _ => h.rs sa))

/-- CRSETB (R195). -/
def execCrsetb (sd sa : SReg) (num : BitVec 12) (s : State) : Host.Outcome State Fault Refusal :=
  run s (crAccess num (some sd) (some fun h old => old ||| h.rs sa))

/-- CRCLRB (R195). -/
def execCrclrb (sd sa : SReg) (num : BitVec 12) (s : State) : Host.Outcome State Fault Refusal :=
  run s (crAccess num (some sd) (some fun h old => old &&& ~~~h.rs sa))

/-- CRSWAP (R195). -/
def execCrswap (sd sa : SReg) (num : BitVec 12) (s : State) : Host.Outcome State Fault Refusal :=
  run s (crAccess num (some sd) (some fun h _ => h.rs sa))

/-! ### The management address space -/

/-- Where a management address lies (R428): a core's block, a management core's block, or a system block, with the offset. -/
inductive MgmtPlace where
  | core (c off : Nat)
  | mgmt (m : Fin 8) (off : Nat)
  | sched (off : Nat)
  | memTables (off : Nat)
  | link (off : Nat)
  | sec (off : Nat)
  | nothing
deriving DecidableEq, Repr

/-- The place of a management address (R428). -/
def mgmtPlace (a : Nat) : MgmtPlace :=
  if a < 0x1800000 then .core (a / 0x10000) (a % 0x10000)
  else if a < 0x1880000 then .mgmt (Fin.ofNat 8 ((a - 0x1800000) / 0x10000)) (a % 0x10000)
  else if 0x2000000 ≤ a && a < 0x2400000 then .sched (a - 0x2000000)
  else if 0x2800000 ≤ a && a < 0x2900000 then .memTables (a - 0x2800000)
  else if 0x2900000 ≤ a && a < 0x2A00000 then .link (a - 0x2900000)
  else if 0x2A00000 ≤ a && a < 0x2B00000 then .sec (a - 0x2A00000)
  else .nothing

/-- The target whose access table checks an access there (R327, R429, R430). -/
def MgmtPlace.target : MgmtPlace → Option Target
  | .core c _ => some (.block c)
  | .mgmt m _ => some (.mgmtBlock m.val)
  | .sched _ => some (.system 0)
  | .memTables _ => some (.system 1)
  | .link _ => some (.system 2)
  | .sec _ => some (.system 3)
  | .nothing => none

/-- What a place of the management address space holds. -/
inductive Cell where
  /-- A control register of a hart context or a management core. -/
  | creg (id : HartId) (r : CReg)
  /-- Entry i of an access table. -/
  | table (t : Target) (i : Nat)
  | soft (m : Fin 8) (mset : Bool)
  | qd (q : BitVec 16) (word : Fin 4)
  | sch (p : Nat)
  /-- The M-only word that assigns SLOTS (R357). -/
  | slots (p : Nat)
  | ctxp (p : Nat)
  | ctxn (p : Nat)
  | fnctl (f : Nat)
  | domctl
  | lrevoke
  | lrvst
  | lctl (n : Nat)
  | lbase (n : Nat)
  | peerst (d : Nat)
  | cg0 (g : Nat)
  | cg1 (g : Nat)
  /-- A word that the security block only reads out. -/
  | secWord (off : Nat)
  | bootcmd
  | mcap
  | empty
deriving DecidableEq, Repr

/-- An entry of a table whose words start at an offset. -/
def tableCell (t : Target) (base off : Nat) : Cell := .table t ((off - base) / 8)

/-- What lies at a place; `empty` reads zero and ignores writes (R327, R428, R429). -/
def MgmtPlace.cell : MgmtPlace → Cell
  | .core c off =>
    if off < 0x4000 then
      match cregOf (off % 0x1000 / 8) with
      | some r => .creg (4 * c + off / 0x1000) r
      | none => .empty
    else if 0x8000 ≤ off && off < 0x8080 then tableCell (.aperture c) 0x8000 off
    else if 0x8080 ≤ off && off < 0x8100 then tableCell (.block c) 0x8080 off
    else if 0x8100 ≤ off && off < 0x8180 then tableCell (.burl c) 0x8100 off
    else .empty
  | .mgmt m off =>
    if off < 0x1800 then
      match cregOf (off / 8) with
      | some r => .creg (mgmtId m.val) r
      | none => .empty
    else if 0x8080 ≤ off && off < 0x8100 then tableCell (.mgmtBlock m.val) 0x8080 off
    else if off == 0x8180 then .soft m false
    else if off == 0x8188 then .soft m true
    else .empty
  | .sched off =>
    if 0x80000 ≤ off && off < 0x80040 then .sch ((off - 0x80000) / 8)
    else if 0x80040 ≤ off && off < 0x80080 then .slots ((off - 0x80040) / 8)
    else if 0x80080 ≤ off && off < 0x800C0 then .ctxp ((off - 0x80080) / 8)
    else if 0x800C0 ≤ off && off < 0x80100 then .ctxn ((off - 0x800C0) / 8)
    else if 0x80100 ≤ off && off < 0x80180 then tableCell (.system 0) 0x80100 off
    else if 0x200000 ≤ off then .qd (BitVec.ofNat 16 ((off - 0x200000) / 32)) (Fin.ofNat 4 (off % 32 / 8))
    else .empty
  | .memTables off =>
    if off < 0xC00 then .table (.mem (off / 0x80)) (off % 0x80 / 8)
    else if 0xFFF80 ≤ off then tableCell (.system 1) 0xFFF80 off
    else .empty
  | .link off =>
    if off < 8 * 65 then .fnctl (off / 8)
    else if off == 0x1000 then .domctl
    else if off == 0x1008 then .lrevoke
    else if off == 0x1010 then .lrvst
    else if 0x2000 ≤ off && off < 0x2800 then .table (.port ((off - 0x2000) / 0x80)) (off % 0x80 / 8)
    else if 0x3000 ≤ off && off < 0x4000 then if off % 16 == 0 then .lctl ((off - 0x3000) / 16) else .lbase ((off - 0x3000) / 16)
    else if 0x4000 ≤ off && off < 0x6000 then .peerst ((off - 0x4000) / 8)
    else if 0x8000 ≤ off && off < 0xC000 then if off % 16 == 0 then .cg0 ((off - 0x8000) / 16) else .cg1 ((off - 0x8000) / 16)
    else if 0xFFF80 ≤ off then tableCell (.system 2) 0xFFF80 off
    else .empty
  | .sec off =>
    if off == 0x020 then .bootcmd
    else if off < 0x1100 then .secWord off
    else if off == 0x1100 then .mcap
    else if 0xFFF80 ≤ off then tableCell (.system 3) 0xFFF80 off
    else .empty
  | .nothing => .empty

/-! ### Reads -/

/-- The hart that a context's registers are read from (R327): a context that holds none has the registers that the last one left, or
those of a reset, and its core's partition. -/
def State.contextHart (s : State) (id : HartId) : Hart :=
  match (s.hart? id).filter fun h => isMgmt id || h.resident with
  | some h => h
  | none => { (s.past.find? fun h => h.id == id).getD (Hart.vacant id) with part := Fin.ofNat 8 (s.partOfCore (coreOf id)) }

/-- Whether a context's registers are all readable: frozen, or without a hart (R327); those of a management core always (R429). -/
def Hart.readable (h : Hart) : Bool := isMgmt h.id || h.frozen || h.wait == .vacant

/-- A word of eight bytes of a list, the first lowest (R7). -/
def wordAt (bs : List Nat) (off : Nat) : Word := BitVec.ofNat 64 (ofBytes ((bs.drop off).take 8).reverse)

/-- IDPN: "IVH-A4384-LC", padded with zeros (R433). -/
def idpn : List Nat := [0x49, 0x56, 0x48, 0x2D, 0x41, 0x34, 0x33, 0x38, 0x34, 0x2D, 0x4C, 0x43, 0, 0, 0, 0]

/-- The read-only words of the security block (R433, R432). -/
def Security.word (c : Security) (off : Nat) : Word :=
  if off < 0x10 then wordAt idpn off
  else if off == 0x10 then Config.stepping.setWidth 64
  else if off == 0x18 then c.bootst
  else if 0x40 ≤ off && off < 0xA0 then
    wordAt (c.mr.toList.flatMap fun m => beBytes 32 m.toNat) (off - 0x40)
  else if 0x100 ≤ off && off < 0x1100 then wordAt c.logBytes (off - 0x100)
  else 0

/-- A cell as it reads (R8). -/
def State.readCell (s : State) (c : Cell) : Word :=
  match c with
  | .creg id r =>
    let h := s.contextHart id
    if h.readable || r == .hctl then s.creg h r else 0
  | .table t i => s.tableWord t i
  | .soft m mset =>
    match s.hart? (mgmtId m.val) with
    | some h => if (if mset then h.mset else h.sset).tstate.getLsbD 16 then 1 else 0
    | none => 0
  | .qd q word =>
    match s.queue? q with
    | none => 0
    | some x =>
      match word with
      | 0 => x.qd0
      | 1 => x.qd1
      | 2 => x.qd2
      | 3 => s.readQd3 x
  | .sch p | .slots p => (s.partAt p).sch
  | .ctxp p => (s.partAt p).ctxp
  | .ctxn p => (s.partAt p).ctxn
  | .fnctl f => Sparse.get 0 s.link.fnctl f
  | .domctl => s.link.domctl
  | .lrevoke => s.link.lrevoke
  | .lrvst => s.link.lrvst
  | .lctl n => Sparse.get 0 s.link.leases (2 * n)
  | .lbase n => Sparse.get 0 s.link.leases (2 * n + 1)
  | .peerst d => Sparse.get 0 s.link.peerst d
  | .cg0 g => Sparse.get 0 s.link.groups (2 * g)
  | .cg1 g => Sparse.get 0 s.link.groups (2 * g + 1)
  | .secWord off => s.sec.word off
  | .bootcmd => 0
  | .mcap => s.sec.mcap
  | .empty => 0

/-! ### Writes -/

/-- The MID of a master (R330). -/
def midOf : Master → Nat
  | .hart id => id
  | .mgmt m => mgmtId m.val
  | .pcie fn => 0x4000 + fn

/-- Whether a master is a hart or a management core that runs at a level. -/
def State.runsAt (s : State) (by' : Master) (l : Level) : Bool :=
  match by' with
  | .pcie _ => false
  | m => (s.hart? (midOf m)).any fun h => h.prv == l

/-- Root firmware, for the words that only it writes: a management core at M (R430). -/
def State.isRoot (s : State) (by' : Master) : Bool :=
  match by' with
  | .mgmt _ => s.runsAt by' .m
  | _ => false

/-- The partition manager of a partition: its management core at S (assumption 8), or a hart of it at S in a trap handler. -/
def State.manages (s : State) (by' : Master) (p : Nat) : Bool :=
  s.runsAt by' .s && match by' with
    | .mgmt m => m.val == p
    | .hart id => (s.hart? id).any fun h => h.part.val == p
    | .pcie _ => false

/-- Whether some master may write a table: root firmware each, a partition manager those of its cores (R333). -/
def State.mayWriteTable (s : State) (by' : Master) (t : Target) : Bool :=
  s.isRoot by' || match t with
    | .aperture c | .block c | .burl c =>
      s.runsAt by' .m
      || (List.range 8).any fun p => s.manages by' p && (s.partAt p).holdsCore c
    | _ => false

/-- PART of a group's word. -/
def groupPart (w : Word) : Nat := fld w.toNat 50 48

/-- Whether a cell takes a write from a master (R328, R333, R357, R386, R417 to R422, R430, R433); a refusal is a violation. -/
def State.mayWrite (s : State) (by' : Master) (c : Cell) (w : Word) : Bool :=
  let root := s.isRoot by'
  match c with
  | .table t _ => s.mayWriteTable by' t
  | .sch p | .ctxp p | .ctxn p => root || s.manages by' p
  | .fnctl f => root || s.manages by' (fld (s.fnctl f) 47 45)
  | .slots _ | .domctl | .lrevoke | .lrvst | .lctl _ | .lbase _ | .mcap | .bootcmd => root
  | .peerst d => root || s.manages by' (fld (s.peerstOf d) 50 48)
  | .cg0 g =>
    let old := Sparse.get 0 s.link.groups (2 * g)
    root || s.manages by' (groupPart (if old.getLsbD 63 then old else w))
  | .cg1 g => root || s.manages by' (groupPart (Sparse.get 0 s.link.groups (2 * g)))
  | _ => true

/-- Whether a place takes a write from a master: in the link block root firmware alone writes what no row gives to another master, and any
other write is a violation there (25_host_and_peers.md). -/
def State.mayWriteAt (s : State) (by' : Master) (m : MgmtPlace) (w : Word) : Bool :=
  s.mayWrite by' m.cell w && match m with
    | .link _ => m.cell != .empty || s.isRoot by'
    | _ => true

/-- The slots that all partitions but one hold. -/
def State.otherSlots (s : State) (p : Nat) : Nat := (((List.range 8).filter (· != p)).map s.slotsOf).sum

/-- SCH written: TSLICE alone (R357). -/
def State.writeSch (s : State) (p : Nat) (w : Word) : State :=
  s.updPart p fun q => { q with sch := BitVec.ofNat 64 (s.slotsOf p * 2 ^ 16 + fld w.toNat 15 0) }

/-- The M-only word of SLOTS written: ignored when all slots would pass 1,024 (R348, R357). It has the layout of SCH, and the model
takes it as SCH with SLOTS writable too: DEDUCED (assumption 39). -/
def State.writeSlots (s : State) (p : Nat) (w : Word) : State :=
  if fld w.toNat 26 16 + s.otherSlots p ≤ 1024 then s.updPart p fun q => { q with sch := w &&& 0x7FFFFFF#64 } else s

/-- FNCTL written: the partition manager writes CMD only (R417). -/
def State.writeFnctl (s : State) (root : Bool) (f : Nat) (w : Word) : State :=
  let s := if root then s.putFnctl f (putFld (putFld (s.fnctl f) 63 63 (fld w.toNat 63 63)) 47 45 (fld w.toNat 47 45)) else s
  if fld w.toNat 51 50 == 1 then s.unfreezeFunction f else if fld w.toNat 51 50 == 2 then s.killFunction f else s

/-- PEERST written (R420). -/
def State.writePeerst (s : State) (root : Bool) (d : Nat) (w : Word) : State :=
  let s := if root then s.putPeerst d (putFld (s.peerstOf d) 50 48 (fld w.toNat 50 48)) else s
  if fld w.toNat 1 0 == 1 then s.unfreezePeer d else s

/-- Whether any lease entry is valid. -/
def State.anyLease (s : State) : Bool := s.link.leases.any fun e => e.1 % 2 == 0 && e.2.getLsbD 63

/-- DOMCTL written: ignored when it changes DEVNO or clears V while a lease is valid (R419). -/
def State.writeDomctl (s : State) (w : Word) : State :=
  let old := s.link.domctl
  let w := w &&& 0x8000000003FF03FF#64
  if s.anyLease && ((old &&& 0x3FF#64) != (w &&& 0x3FF#64) || (old.getLsbD 63 && !w.getLsbD 63)) then s
  else { s with link.domctl := w }

/-- A word of the lease table written; a write of LCTL clears RVK when it writes V (R370). -/
def State.writeLease (s : State) (k : Nat) (w : Word) : State :=
  let mask : Word := if k % 2 == 0 then 0x87FC0000000003FF#64 else 0x000FFFFFFFE00000#64
  { s with link.leases := Sparse.set 0 s.link.leases k (w &&& mask) }

/-- A word of the group table written: while V = 0, but for a write of CG0 that clears V (R422, R426). V set counts the instances
from there (R424). -/
def State.writeGroup (s : State) (g : Nat) (first : Bool) (w : Word) : State :=
  let k := if first then 2 * g else 2 * g + 1
  let mask : Word := if first then 0x8007FFFF01FF03FF#64 else 0x000FFFFFFFFFFFFF#64
  let put (s : State) : State := { s with link.groups := Sparse.set 0 s.link.groups k (w &&& mask) }
  if (Sparse.get 0 s.link.groups (2 * g)).getLsbD 63 then
    if first && !w.getLsbD 63 then put (s.invalidateGroup g) else s
  else put s

/-- A register of a hart context written through the block (R327), or one of a management core at any time (R429). A context that
holds no hart keeps what is written to HCTL.SKEW; a FRZCMD write there is for a hart that is away (R336). -/
def State.writeContext (s : State) (id : HartId) (r : CReg) (w : Word) : State :=
  match (s.hart? id).filter fun h => isMgmt id || h.resident with
  | some h => if isMgmt id || h.frozen || r == .hctl || r == .frzcmd then s.putCreg h r w else s
  | none =>
    if r == .frzcmd then s.frzcmd id w
    else if r == .hctl then s.keepContext { s.contextHart id with skew := w.getLsbD 8 }
    else s

/-- A cell written by a master that may write it (R8). -/
def State.writeCell (s : State) (root : Bool) (c : Cell) (w : Word) : State :=
  match c with
  | .slots p => s.writeSlots p w
  | .creg id r => s.writeContext id r w
  | .table t i => s.putTable t i w
  | .soft m mset => if w == 0 || w == 1 then
      s.updHart (mgmtId m.val) fun h =>
        if mset then { h with mset := h.mset.ipend 0 (w == 1) } else { h with sset := h.sset.ipend 0 (w == 1) }
    else s
  | .qd q word => s.writeQd q word w
  | .sch p => s.writeSch p w
  | .ctxp p => if (s.partAt p).usedSlots.isEmpty then s.updPart p fun q => { q with ctxp := w &&& 0x800FFFFFFFE00000#64 } else s
  | .ctxn p => if (s.partAt p).usedSlots.isEmpty then s.updPart p fun q => { q with ctxn := w &&& 0xFFFFFFFF#64 } else s
  | .fnctl f => s.writeFnctl root f w
  | .domctl => s.writeDomctl w
  | .lrevoke => s.startRevoke w
  | .lctl n => s.writeLease (2 * n) w
  | .lbase n => s.writeLease (2 * n + 1) w
  | .peerst d => s.writePeerst root d w
  | .cg0 g => s.writeGroup g true w
  | .cg1 g => s.writeGroup g false w
  | .bootcmd => s.bootcmd w
  | .mcap => { s with sec.mcap := w &&& 0xFFFF#64 }
  | .lrvst => s
  | .secWord _ => s
  | .empty => s

/-- Whether a block answers: in recovery only the security block does (R431). -/
def State.answers (s : State) (m : MgmtPlace) : Bool :=
  s.sec.boot != .recovery || match m with
    | .sec _ => true
    | _ => false

/-- Whether a frozen master asks: a frozen hart or management core issues nothing, and a frozen function's requests end with Completer
Abort (R334). -/
def State.masterFrozen (s : State) (by' : Master) : Bool :=
  match by' with
  | .pcie fn => bitOf (s.fnctl fn) 62
  | m => (s.hart? (midOf m)).any Hart.frozen

/-- What a frozen master gets. -/
def State.refuseFrozen (s : State) (by' : Master) : State :=
  match by' with
  | .pcie _ => { s with reply := some .completerAbort }
  | _ => s

/-- Whether a master reaches a management address: the host reaches the system blocks through BAR2 of the physical function only (R414,
R428). -/
def reachesMgmt (by' : Master) (addr : Nat) : Bool :=
  match by' with
  | .pcie fn => fn == 0 && 0x2000000 ≤ addr
  | _ => true

/-- Whether a place lies in the block of a core or a management core. -/
def MgmtPlace.ofCore : MgmtPlace → Bool
  | .core _ _ | .mgmt _ _ => true
  | _ => false

/-- An access of 8 bytes in the management address space, checked against the block's table and, for a write, against who may write the
word (R333, R428 to R430); a violation is recorded with the address. Root firmware reaches the blocks of cores and management cores
whatever their tables hold: those grant nobody anything at reset, and they are written only there (assumption 80). -/
def State.checkMgmt (s : State) (by' : Master) (addr : Nat) (w : Option Word) : Option State :=
  let m := mgmtPlace addr
  let fail (t : Target) (k : Nat) : Option State := some (s.violate (midOf by') t k w.isSome (some addr))
  match m.target with
  | none => none
  | some t =>
    if m.ofCore && s.isRoot by' then none
    else match s.denied t (midOf by') (if w.isSome then .wr else .rd), w with
    | some k, _ => fail t k
    | none, some w => if s.mayWriteAt by' m w then none else fail t 2
    | none, none => none

/-- A write of 8 bytes there. -/
def State.writeMgmt (s : State) (by' : Master) (addr : Nat) (w : Word) : State :=
  if !s.answers (mgmtPlace addr) then { s with reply := none }
  else match s.checkMgmt by' addr (some w) with
  | some s => s
  | none => s.writeCell (s.isRoot by') (mgmtPlace addr).cell w

/-- A read of 8 bytes there: its value is the reply. -/
def State.readMgmt (s : State) (by' : Master) (addr : Nat) : State :=
  if !s.answers (mgmtPlace addr) then { s with reply := none }
  else match s.checkMgmt by' addr none with
  | some s => s
  | none => { s with reply := some (.value (s.readCell (mgmtPlace addr).cell)) }

/-- An access of a master in the management address space (R428). -/
def State.accessMgmt (s : State) (by' : Master) (addr : Nat) (w : Option Word) : State :=
  if s.masterFrozen by' then s.refuseFrozen by'
  else if !reachesMgmt by' addr then { s with reply := some .unsupportedRequest }
  else match w with
  | some w => s.writeMgmt by' addr w
  | none => s.readMgmt by' addr

/-- REGISTER_WRITE (R8). -/
def execRegisterWrite (by' : Master) (addr : Nat) (w : Option Word) (s : State) : Host.Outcome State Fault Refusal :=
  .next (s.accessMgmt by' addr w)

/-! ### Software interrupts and interrupt entry -/

/-- Code 0 of IPEND set or cleared in a management core's set (R429, R376). -/
def State.softInterrupt (s : State) (m : Fin 8) (mset on : Bool) : State := s.writeCell false (.soft m mset) (if on then 1 else 0)

/-- MGMT_SOFT_INTERRUPT_SET (R429). -/
def execMgmtSoftInterruptSet (m : Fin 8) (mset : Bool) (s : State) : Host.Outcome State Fault Refusal :=
  .next (s.softInterrupt m mset true)

/-- MGMT_SOFT_INTERRUPT_ACK (R429). -/
def execMgmtSoftInterruptAck (m : Fin 8) (mset : Bool) (s : State) : Host.Outcome State Fault Refusal :=
  .next (s.softInterrupt m mset false)

/-- A hart made the one that issues. -/
def State.focus (s : State) (id : HartId) : State :=
  if s.cur.id == id then s
  else match s.others.find? fun h => h.id == id with
  | none => s
  | some h =>
    let rest := s.others.filter fun x => x.id != id
    { s with cur := h, others := if s.cur.wait == .vacant then rest else s.cur :: rest }

/-- Whether a hart with some wait stands at an instruction boundary: it runs, or its next instruction stalls with nothing done (R376). -/
def Wait.atBoundary : Wait → Bool
  | .run | .idle | .busy _ | .probe _ | .host _ => true
  | _ => false

/-- INTERRUPT_ENTRY (R376): at an instruction boundary of management core m. -/
def execInterruptEntry (m : Fin 8) (s : State) : Host.Outcome State Fault Refusal :=
  match s.hart? (mgmtId m.val) with
  | some h => if h.wait.atBoundary then (s.focus (mgmtId m.val)).takeInterrupt else .next s
  | none => .next s

end Sys2Proof.Machine
end

