-- ==== Sys2Proof/Machine/Host.lean ====
section
/-! DEFINITION. Accesses of the host through the BARs (R340, R414, R430). -/

namespace Sys2Proof.Machine

/-- A request of a function: refused while the function is frozen (R334), unsupported while it is not assigned (R417). In recovery only the
security block answers, and so no other request of the host (R431). -/
def State.hostGate (s : State) (fn : Nat) (secBlock : Bool) (act : State) : State :=
  if s.sec.boot == .recovery && !secBlock then { s with reply := none }
  else if bitOf (s.fnctl fn) 62 then { s with reply := some .completerAbort }
  else if !bitOf (s.fnctl fn) 63 then { s with reply := some .unsupportedRequest }
  else act

/-- Whether a function reaches the doorbell page of a queue: a virtual one only those whose QD0.PART is its partition, registered or not
(R340, R414). -/
def State.reachesQueue (s : State) (fn : Nat) (q : BitVec 16) : Bool :=
  fn == 0 || ((s.queue? q).map fun x => x.part.val).getD 0 == fld (s.fnctl fn) 47 45

/-- BAR0_DOORBELL_ACCESS (R340, R414). -/
def State.bar0 (s : State) (fn off : Nat) (write : Option Word) : State :=
  let q : BitVec 16 := BitVec.ofNat 16 (off / 4096)
  match write with
  | none => { s with reply := some (.value (if s.reachesQueue fn q then s.headOf q.toNat else 0)) }
  | some w =>
    if s.reachesQueue fn q && off % 4096 == 0 then { s.announce q w with reply := some .done }
    else { s with reply := some .dropped }

/-- BAR0_DOORBELL_ACCESS (R414). -/
def execBar0DoorbellAccess (fn off : Nat) (write : Option Word) (s : State) : Host.Outcome State Fault Refusal :=
  .next (s.hostGate fn false (s.bar0 fn off write))

/-- BAR2_SYSTEM_ACCESS (R428, R430): offset o reaches management address 0x0200_0000 + o. -/
def State.bar2 (s : State) (fn off : Nat) (write : Option Word) : State :=
  let a := 0x2000000 + off
  match write with
  | none => s.readMgmt (.pcie fn) a
  | some w => ({ s with reply := some .done }).writeMgmt (.pcie fn) a w

/-- BAR2_SYSTEM_ACCESS (R430). -/
def execBar2SystemAccess (fn off : Nat) (write : Option Word) (s : State) : Host.Outcome State Fault Refusal :=
  .next (if fn == 0 then s.hostGate fn true (s.bar2 fn off write) else { s with reply := some .unsupportedRequest })

/-! ### Memory -/

/-- The parts of an access that no sector boundary cuts: the whole when it is aligned, else its bytes. -/
def hostPieces (va n : Nat) : List (Nat × Nat) := if va % n == 0 then [(va, n)] else (List.range n).map fun i => (va + i, 1)

/-- How a host access ends before any byte moves. -/
inductive HostProbe where
  | located (ls : List (Loc × Nat))
  | unsupported
  | refused (t : Target) (kind : Nat)
  | stalled
deriving DecidableEq, Repr

/-- The requester that a function is (R330, R414). -/
def State.fnReq (s : State) (fn : Nat) : Req := ⟨0x4000 + fn, .u, fld (s.fnctl fn) 47 45, none⟩

/-- Every part probed, in order. -/
def State.hostProbes (s : State) (r : Req) (a : Acc) : List (Nat × Nat) → HostProbe × State
  | [] => (.located [], s)
  | (va, n) :: rest =>
    match s.probed r a false va n with
    | (.ok l, s) =>
      match s.hostProbes r a rest with
      | (.located ls, s) => (.located ((l, n) :: ls), s)
      | e => e
    | (.error (.refused t k), s) => (.refused t k, s)
    | (.error (.stall _), s) => (.stalled, s)
    | (.error _, s) => (.unsupported, s.forgetRefused r.part)

/-- The parts read, lowest first: the value; none in it where one reports class 3 or above. No answer while a lessor has yet to give
one. -/
def State.hostLoads (s : State) (mid : Nat) : List (Loc × Nat) → Option (Option Nat) × State
  | [] => (some (some 0), s)
  | (l, n) :: rest =>
    match s.loadAt (engineId mid) mid l n with
    | (.wait _, s) => (none, s)
    | (.data c x, s) =>
      match s.hostLoads mid rest with
      | (some (some y), s) => (some (if 3 ≤ c then none else some (x + 2 ^ (8 * n) * y)), s)
      | r => r

/-- The parts written, lowest first; a store that its controller loses is reported there (R129). -/
def State.hostStores (s : State) (mid : Nat) : List (Loc × Nat) → Nat → State
  | [], _ => s
  | (l, n) :: rest, x => ((s.storeAt mid l n (x % 2 ^ (8 * n))).2).hostStores mid rest (x / 2 ^ (8 * n))

/-- A request of BAR4 made, or tried again: false while it has to wait (R369, R416). -/
def State.bar4Try (s : State) (fn va n : Nat) (write : Option Word) : Bool × State :=
  let a : Acc := if write.isSome then .store else .load
  let mid := 0x4000 + fn
  if 2 ^ 40 < va + n then (true, { s with reply := some .unsupportedRequest })
  else match s.hostProbes (s.fnReq fn) a (hostPieces va n) with
  | (.unsupported, s) => (true, { s with reply := some .unsupportedRequest })
  | (.refused t k, s) => (true, s.violate mid t k write.isSome)
  | (.stalled, s) => (false, s)
  | (.located ls, s) =>
    match write with
    | some w => (true, { s.hostStores mid ls w.toNat with reply := some .done })
    | none =>
      match s.hostLoads mid ls with
      | (none, s') => (false, { s with link := s'.link })
      | (some r, s) => (true, { s with
          reply := some (match r with
            | some x => .value (BitVec.ofNat 64 x)
            | none => .completerAbort)
          peerData := s.peerData.filter fun e => e.1.id != engineId mid })

/-- BAR4_MEMORY_ACCESS (R414): a request that has to wait stays outstanding. -/
def State.bar4 (s : State) (fn : Nat) (off : Word) (size : Size) (write : Option Word) : State :=
  match s.bar4Try fn off.toNat (2 ^ size.val) write with
  | (true, s) => s
  | (false, s) => { s with link.outstanding := s.link.outstanding ++ [(fn, off, size, write)] }

/-- BAR4_MEMORY_ACCESS (R414). -/
def execBar4MemoryAccess (fn : Nat) (off : Word) (size : Size) (write : Option Word) (s : State) : Host.Outcome State Fault Refusal :=
  .next (s.hostGate fn false (s.bar4 fn off size write))

/-- An outstanding request tried again. -/
def State.retryHost (s : State) (r : Nat × Word × Size × Option Word) : State :=
  match s.bar4Try r.1 r.2.1.toNat (2 ^ r.2.2.1.val) r.2.2.2 with
  | (true, s) => { s with link.outstanding := s.link.outstanding.erase r }
  | (false, s) => s

end Sys2Proof.Machine
end

