-- ==== Sys2Proof/Machine/Run.lean ====
section
/-! DEFINITION. What a step of the device is: a device step that comes next, or one piece of work that some unit can do now (a hart's
instruction among them), chosen free where there are several (assumption 3). -/

namespace Sys2Proof.Machine

/-! ### UnitWork that a unit can do -/

/-- One piece of work. -/
inductive UnitWork where
  | boot
  | ring (q : BitVec 16) (i : Word)
  | signal (g : Signal)
  | command (c : NmcCommand)
  | matrix (core : Nat)
  | sweep (gang : Nat)
  | collective (i : Instance)
  | remote (i : Instance) (rank : Nat)
  | expire (i : Instance)
  | rewalk (hart : HartId)
  | peer (r : Sent)
  | ats (p page : Nat)
  | page (p : Nat)
  | advance (hart : HartId) (k : KIdx)
  | refetch (hart : HartId) (k : KIdx)
  | acknowledge (hart : HartId) (lane : Fin 16)
  | rebuild (core word : Nat)
  | invalidate (p : Nat)
  | migrate (p : Nat)
  | examine (q : BitVec 16)
  | place (e : Eligible)
  | resume (gang : Nat)
  | preempt (gang : Nat)
  | slice (gang : Nat)
  | adopt (gang : Nat)
  | epoch
  | host (r : Nat × Word × Size × Option Word)
  /-- What the scheduler of a partition has left to do. -/
  | due (p : Nat)
  | spdm (r : SpdmRequest)
  | revoke (acknowledged : Bool)
  | outside (x : OutsideInva)
  | issue (core : Nat)
deriving DecidableEq, Repr

/-- Whether the accesses are performed that the entry of a raised trap waits for (R133, R134). -/
def State.mayEnter (s : State) (h : Hart) (t : Trap) : Bool :=
  s.cleared h (.stream 0 true) && s.cleared h (.buffer (h.trapSet (takenAt h.prv t.code)).frame 512)

/-- Whether a hart may go on: its gang is not being saved, or an instruction that pre-emption never divides is under way (R384). -/
def State.goesOn (s : State) (h : Hart) : Bool := h.underWay || !((h.gang.bind s.gang?).any fun x => x.leaving.isSome)

/-- Whether a hart can issue (R353): it runs; it has an interrupt to take (R203, R376); what stalls its instruction is gone; or the trap
that it has raised can be entered. -/
def State.canIssue (s : State) (h : Hart) : Bool :=
  !h.frozen && s.goesOn h && match h.wait with
    | .run => true
    | .busy c => s.cleared h c || s.mayInterrupt h
    | .trap t => s.mayEnter h t
    | w => w.atBoundary && s.mayInterrupt h

/-- The cores that have a hart to issue. -/
def State.issueWork (s : State) : List UnitWork := ((s.harts.filter s.canIssue).map fun h => coreOf h.id).eraseDups.map .issue

/-- The oldest Mandrel command of each hart, those of a gang that has left the context apart from its successor's. -/
def State.commandWork (s : State) : List UnitWork :=
  (s.nmcq.filter fun c => s.nmcq.find? (fun d => d.hart == c.hart && d.gang == c.gang) == some c).map .command

/-- The cores with matrix entries. -/
def State.matrixWork (s : State) : List UnitWork := ((s.mxq.map fun e => coreOf e.hart).eraseDups).map .matrix

/-- Gangs whose phase is to be swept (R36). -/
def State.sweepWork (s : State) : List UnitWork :=
  (s.gangs.filter fun x => (match x.phase with
    | some (b, _) => b
    | none => false) && x.size ≤ x.arr && !s.harts.any fun h => h.inGang x.id && h.imbalanced).map fun x => .sweep x.id

/-- Collective instances that run, that expire or have expired and owe a status word, or that a rank of another device joins (R424). -/
def State.collectiveWork (s : State) : List UnitWork :=
  s.link.instances.flatMap fun i =>
    (if s.instanceReady i then [.collective i]
      else if (if i.timedOut then i.joins.any (fun j => j.hart.isSome) else i.joins.length < i.ranks) then [.expire i] else [])
    ++ (s.missingRemote i).map (.remote i)

/-- Harts whose stalled probe may be made again, and the requests that lessors may answer: of each sector the oldest (R369, R371,
R416). -/
def State.waitWork (s : State) : List UnitWork :=
  s.harts.flatMap (fun h => match h.wait with
    | .probe _ => if s.mayRewalk h then [.rewalk h.id] else []
    | .host _ => if s.mayRewalk h then [.rewalk h.id] else []
    | _ => [])
    ++ (s.link.sent.filter fun r => s.isOut r && s.leads r).map .peer

/-- Window and scatter work of the harts (R101, R365, R35). -/
def State.windowWork (s : State) : List UnitWork :=
  s.harts.flatMap fun h =>
    if h.wait == .vacant || h.wait == .held then []
    else
      (((List.finRange 16).filter fun k => 0 < (h.k[k]).inflight && h.arrived k).map (.advance h.id))
      ++ (((List.finRange 16).filter fun k => h.win.any fun e => e.toFetch && e.holders.getLsbD k.val).map (.refetch h.id))
      ++ (((List.finRange 16).filter fun l => s.lanesOut h.id l < h.unacked[l]).map (.acknowledge h.id))

/-- What the units of one partition can do. -/
def State.partWork (s : State) (p : Nat) : List UnitWork :=
  let q := s.partAt p
  q.atsAsked.map (.ats p)
    ++ (if q.pageRequest.isSome then [.page p] else [])
    ++ (if q.inva.isEmpty then [] else [.invalidate p])
    ++ (if q.migration.isSome && !q.frozenEngines.contains (migMid p) then [.migrate p] else [])

/-- Whether a gang gives way: the lowest of its partition, while work of a higher level there cannot be placed otherwise (R355). -/
def State.givesWay (s : State) (x : Gang) : Bool :=
  (s.gangs.all fun y => y.part != x.part || x.prio ≤ y.prio)
    && ((s.eligible.any fun e => (s.queue? e.queue).any (fun q => q.part == x.part && x.prio < s.levelOf q) && !s.eligiblePlaceable e)
      || s.saved.any fun v => v.gang.part == x.part && x.prio < s.savedLevel v && !s.resumeOk v (s.resumeSlots v))

/-- The scheduler's work (R341, R348, R352, R355, R356, R436). -/
def State.schedWork (s : State) : List UnitWork :=
  (if s.queues.any Queue.valid then [.epoch] else [])
    ++ ((s.queues.filter fun x => x.ready && x.slot.isSome && !s.eligible.any fun e => e.queue == x.q).map fun x => .examine x.q)
    ++ ((s.eligible.filter fun e => s.isNext e && s.eligiblePlaceable e
        && !s.placementStopped (((s.queue? e.queue).map fun q => q.part.val).getD 0)).map .place)
    ++ ((s.saved.filter fun v => s.settled v && s.resumeOk v (s.resumeSlots v) && !s.placementStopped v.gang.part.val
        && s.ctxRuns v.gang.part.val).map fun v => .resume v.gang.id)
    ++ s.gangs.flatMap fun x =>
      if !s.ctxRuns x.part.val then []
      else (if x.leaving.isSome || s.givesWay x then [.preempt x.id] else []) ++ (if s.sliceRun x then [.slice x.id] else [])
        ++ (if x.pending.isSome then [.adopt x.id] else [])

/-- Everything that some unit can do now. Until boot has run there is only the boot ROM (R431). -/
def State.works (s : State) : List UnitWork :=
  if s.sec.boot == .pending then [.boot]
  else
    s.issueWork ++ (s.due.map Due.of).eraseDups.map .due ++ s.rings.map (fun r => .ring r.1 r.2) ++ s.signals.map .signal ++ s.commandWork ++ s.matrixWork ++ s.sweepWork
      ++ s.collectiveWork ++ s.waitWork ++ s.windowWork ++ s.rebuilding.map (fun r => .rebuild r.1 r.2)
      ++ (List.range 8).flatMap s.partWork ++ s.schedWork ++ s.link.outstanding.map .host
      ++ (if s.sec.done then s.sec.asked.map .spdm else []) ++ (if s.revoking then [.revoke true, .revoke false] else [])
      ++ s.link.inva.map .outside

/-- A free bit. -/
def State.freeBit (s : State) : Bool × State := (Config.freeBits 1 s.free == 1#1, { s with free := s.free + 1 })

/-- A lessor's answer to a request: what it reads, or that it is performed, or a refusal; free (R372, R394). With no port up it is
refused (R418). -/
def State.peerAnswers (s : State) (r : Sent) : State :=
  match if s.link.ports == 0 then (false, s) else s.freeBit with
  | (false, s) => s.deliver r.id r.pa .refused
  | (true, s) =>
    let x := s.free
    let s := { s with free := s.free + 2 }
    s.deliver r.id r.pa (match r.op with
      | .read | .linked => .data (Fin.ofNat 5 (Config.freeNat x)) (Config.freeBits 512 (x + 1))
      | .conditional _ _ => .conditional (Config.freeBits 1 x == 1)
      | _ => .done)

/-- The host's answer to a translation request: a page of the host or a refusal, free (R415). -/
def State.atsAnswers (s : State) (p page : Nat) : State :=
  match s.freeBit with
  | (true, s) => { s with free := s.free + 1 }.atsAnswer p page (some (Config.freeNat s.free % 2 ^ 38))
  | (false, s) => s.atsAnswer p page none

/-- The grant with which a gang starts or resumes: the one requested, or while a limit acts a free one with fewer lanes, 4 having none
below it (R24, R343, R436). -/
def State.chooseGrant (s : State) (p : Nat) (want : Grant) : Grant × State :=
  if (s.partAt p).throttled then
    match s.freeBit with
    | (true, s) => (⟨max 4 (want.lanes / 2), want.q⟩, s)
    | (false, s) => (⟨4, want.q⟩, s)
  else (want, s)

/-- A record placed by the dispatcher. -/
def State.dispatch (s : State) (e : Eligible) : State :=
  match s.demand e with
  | none => s
  | some (x, c) =>
    let (g, s) := s.chooseGrant x.part.val ⟨c.lanes, c.q⟩
    s.place e.queue (s.chooseSlots x.part.val c.gang c.bytes c.tiles) g

/-- A gang resumed by the scheduler. -/
def State.bringBack (s : State) (gang : Nat) : State :=
  match s.saved.find? fun v => v.gang.id == gang with
  | none => s
  | some v =>
    let (g, s) := s.chooseGrant v.gang.part.val v.gang.request
    s.resume gang (s.resumeSlots v) g

/-- A piece of work of a unit other than a core's issue selector, done. -/
def State.perform' (s : State) (w : UnitWork) : State :=
  match w with
  | .boot => s.bootSequence
  | .ring q i => ({ s with rings := s.rings.erase (q, i) }).announce q i
  | .signal g => ({ s with signals := s.signals.erase g }).signal g
  | .command c => s.perform c
  | .matrix core => s.completeEntry core
  | .sweep g => s.phaseSweep g
  | .collective i => s.runInstance i
  | .remote i rank => s.remoteJoin i rank
  | .expire i => s.expireInstance i
  | .rewalk id => s.rewalk id
  | .peer r => s.peerAnswers r
  | .due p => s.retryDue p
  | .ats p page => s.atsAnswers p page
  | .page p => let (b, s) := s.freeBit; s.pageAnswer p b
  | .advance id k => s.advanceComplete id k
  | .refetch id k => s.staleRefetch id k
  | .acknowledge id lane => s.scatterAcknowledge id lane
  | .rebuild core word => s.endRebuild core word
  | .invalidate p => s.completeInva p
  | .migrate p => s.finishMigration p
  | .examine q => s.examine q
  | .place e => s.dispatch e
  | .resume g => s.bringBack g
  | .preempt g => s.preempt g
  | .slice g => s.sliceEnd g
  | .adopt g => s.adoptTimeout g
  | .epoch => s.epochEnd
  | .host r => s.retryHost r
  | .spdm r => ({ s with sec := { s.sec with asked := s.sec.asked.erase r } }).answerSpdm r
  | .revoke ack => if ack then { s with link.lrvst := 0 } else s.revokeTimeout
  | .outside x => s.goOn x
  | .issue _ => s

/-! ### The issue selector -/

/-- The weight of a hart: by the class of its gang's queue (R353). -/
def State.weight (s : State) (h : Hart) : Int :=
  match h.gang.bind s.gang? with
  | some g => 2 ^ g.cls.toNat
  | none => 1

/-- The hart with the larger credit, the lower context on a tie. -/
def better (a b : Hart) : Hart := if b.credit < a.credit || (b.credit == a.credit && a.id < b.id) then a else b

/-- The hart that a core issues from, by R353, with the credits that the choice leaves. -/
def State.select (s : State) (core : Nat) : Option (HartId × State) :=
  let r := s.harts.filter fun h => coreOf h.id == core && s.canIssue h
  match r with
  | [] => none
  | [h] => some (h.id, s)
  | hs =>
    let raised := hs.map fun h => { h with credit := h.credit + s.weight h }
    match raised with
    | [] => none
    | x :: xs =>
      let pick := xs.foldl better x
      let sum := (hs.map s.weight).sum
      some (pick.id, s.mapHarts fun h =>
        if (hs.map Hart.id).contains h.id then
          { h with credit := h.credit + s.weight h - if h.id == pick.id then sum else 0 }
        else h)

/-! ### One step -/

/-- What a step comes to. -/
inductive Turn where
  /-- A device step that comes from outside. -/
  | event (i : Instr) (s : State)
  /-- UnitWork of a unit, an interrupt, or nothing to do. -/
  | settled (o : Host.Outcome State Fault Refusal)
  /-- The issuing hart fetches and executes; and the state before it was chosen. -/
  | issue (before s : State)

/-- The turn of one core: the hart that issues enters a trap that it has raised, takes an interrupt, or executes (R353, R376). -/
def State.coreTurn (s : State) (core : Nat) : Turn :=
  match s.select core with
  | none => .settled (.next s)
  | some (id, t) =>
    let t := t.focus id
    let go := { t with cur.wait := .run }
    match t.cur.wait with
    | .trap x => .settled (go.takeTrap x)
    | _ => if t.mayInterrupt t.cur then .settled t.takeInterrupt else .issue s go

/-- Whether a hart's instruction stalls, with nothing of it issued. -/
def Wait.stalls : Wait → Bool
  | .busy _ | .probe _ | .host _ | .peer _ => true
  | _ => false

/-- The outcome of the turn of a hart that a core has chosen: one whose instruction stalls could not issue, and the credits are those
before the choice (R353). -/
def State.issued (before : State) (o : Host.Outcome State Fault Refusal) (pc : Word) : Host.Outcome State Fault Refusal :=
  match o with
  | .next t =>
    if t.cur.wait.stalls && t.cur.pc == pc then
      .next (t.mapHarts fun h => { h with credit := ((before.hart? h.id).map Hart.credit).getD h.credit })
    else o
  | o => o

/-- What the step does: the first of the device steps to come, else one of the works. A device step of the agenda that names an
instruction with an encoding is passed over: harts alone execute those. -/
def State.turn (s : State) : Turn :=
  let s := { s with steps := s.steps + 1 }
  match s.agenda with
  | i :: rest =>
    let s := { s with agenda := rest }
    if (encode i).isSome || !i.wf then .settled (.next s) else .event i s
  | [] =>
    match s.pick s.works with
    | (none, s) => .settled (.next s)
    | (some (.issue core), s) => s.coreTurn core
    | (some w, s) => .settled (.next (s.perform' w))

/-- Whether a word asks for what its level may not have, whatever its must-be-zero fields hold (R168, R324, R325): at U a system
function from 0x8000 up, at S a control register from 0x200 up. -/
def asksPrivilege (l : Level) (w : Nat) : Bool :=
  match l with
  | .u => fld w 31 26 == 0x0F && 0x8000 ≤ fld w 15 0
  | .s => fld w 31 26 == 0x0E && fld w 15 12 < 5 && 0x200 ≤ fld w 11 0
  | .m => false

/-- The trap of a word that decodes to no instruction: privilege, or else the illegal instruction (R168). -/
def State.undecoded (s : State) (w : BitVec 32) : Host.Outcome State Fault Refusal :=
  s.takeTrap { code := if asksPrivilege s.cur.prv w.toNat then 0x02 else 0x01 }

/-- The instruction at the issuing hart's pc, fetched and given to `act` (R163, R168). -/
noncomputable def State.fetchAndRun (s : State) (act : Instr → State → Host.Outcome State Fault Refusal) :
    Host.Outcome State Fault Refusal :=
  match fetchWord s.cur.pc.toNat s with
  | .error e => e.outcome
  | .ok (w, s) =>
    let s := { s with cur.ir := w }
    match decodeWord w.toNat with
    | .ok i => act i s
    | .error _ => s.undecoded w

/-! ### An instruction placed where the next step fetches -/

/-- One table entry and the tag of its sector. -/
def State.plant (s : State) (pa n x : Nat) : State :=
  { s.putSector pa ⟨some 0, 0, 0, 0⟩ with mem := Memory.writeN s.mem pa n x }

/-- The sector of an address tagged as written whole (R439), its bytes as they are. -/
def State.tagSector (s : State) (pa : Nat) : State := s.putSector pa ⟨some 0, 0, 0, 0⟩

/-- A word placed at address 0, and hart 0 about to fetch it at U: one page of 1 GiB at address 0 with every permission, whose three
tables stand at 0x1000, 0x2000 and 0x3000; entry 0 of channel group 0's table open to every master; the sectors there written; and
nothing else to come (the load that assumption 17 names). -/
def State.withWord (s : State) (w : Nat) : State :=
  let s := { s with
    cur := { s.cur with id := 0, wait := .run, frozen := false, prv := .u, part := 0, pc := 0, lane := none, view := [], undivided := false }
    others := (s.others.filter fun (h : Hart) => h.id != 0).map fun (h : Hart) => { h with wait := .held }
    sec := { s.sec with boot := .running, asked := [] }
    link := { s.link with instances := [], outstanding := [], sent := [], lrvst := 0, inva := [] }
    parts := s.parts.map fun (q : Partition) => { q with inva := [], migration := none, atsAsked := [], pageRequest := none }
    memctl := { s.memctl with poison := [], quarantine := [] }
    gangs := [], saved := [], queues := [], eligible := [], signals := [], rings := [], nmcq := [], mxq := [], peerData := []
    due := [], stops := [], upsets := [], rebuilding := [], agenda := [] }
  let s := s.updPart 0 fun q => { q with ptroot := 0x8000000000001000#64 }
  let s := s.putTable (.mem 0) 0 0x8E00000000000000#64
  let s := ((s.plant 0x1000 8 0x2001).plant 0x2000 8 0x3001).plant 0x3000 8 0x7B
  let s := (List.range 8).foldl (fun s i => s.tagSector (64 * i)) s
  s.plant 0 4 (w % 2 ^ 32)

end Sys2Proof.Machine
end

