-- ==== Sys2Proof/Machine/Dispatch.lean ====
section
/-! DEFINITION. The meaning of every instruction and device step, one arm each. -/

namespace Sys2Proof.Machine

open Sys2Proof

def exec (i : Instr) (s : State) : Host.Outcome State Fault Refusal :=
  match i with
  | .add sd sa sb => Sys2Proof.Machine.execAdd sd sa sb s
  | .sub sd sa sb => Sys2Proof.Machine.execSub sd sa sb s
  | .and sd sa sb => Sys2Proof.Machine.execAnd sd sa sb s
  | .or sd sa sb => Sys2Proof.Machine.execOr sd sa sb s
  | .xor sd sa sb => Sys2Proof.Machine.execXor sd sa sb s
  | .sll sd sa sb => Sys2Proof.Machine.execSll sd sa sb s
  | .srl sd sa sb => Sys2Proof.Machine.execSrl sd sa sb s
  | .sra sd sa sb => Sys2Proof.Machine.execSra sd sa sb s
  | .slt sd sa sb => Sys2Proof.Machine.execSlt sd sa sb s
  | .sltu sd sa sb => Sys2Proof.Machine.execSltu sd sa sb s
  | .mul sd sa sb => Sys2Proof.Machine.execMul sd sa sb s
  | .mulh sd sa sb => Sys2Proof.Machine.execMulh sd sa sb s
  | .mulhu sd sa sb => Sys2Proof.Machine.execMulhu sd sa sb s
  | .div sd sa sb => Sys2Proof.Machine.execDiv sd sa sb s
  | .divu sd sa sb => Sys2Proof.Machine.execDivu sd sa sb s
  | .rem sd sa sb => Sys2Proof.Machine.execRem sd sa sb s
  | .remu sd sa sb => Sys2Proof.Machine.execRemu sd sa sb s
  | .min sd sa sb => Sys2Proof.Machine.execMin sd sa sb s
  | .max sd sa sb => Sys2Proof.Machine.execMax sd sa sb s
  | .minu sd sa sb => Sys2Proof.Machine.execMinu sd sa sb s
  | .maxu sd sa sb => Sys2Proof.Machine.execMaxu sd sa sb s
  | .clz sd sa => Sys2Proof.Machine.execClz sd sa s
  | .ctz sd sa => Sys2Proof.Machine.execCtz sd sa s
  | .popc sd sa => Sys2Proof.Machine.execPopc sd sa s
  | .slli sd sa sh => Sys2Proof.Machine.execSlli sd sa sh s
  | .srli sd sa sh => Sys2Proof.Machine.execSrli sd sa sh s
  | .srai sd sa sh => Sys2Proof.Machine.execSrai sd sa sh s
  | .addi sd sa imm => Sys2Proof.Machine.execAddi sd sa imm s
  | .andi sd sa imm => Sys2Proof.Machine.execAndi sd sa imm s
  | .ori sd sa imm => Sys2Proof.Machine.execOri sd sa imm s
  | .xori sd sa imm => Sys2Proof.Machine.execXori sd sa imm s
  | .slti sd sa imm => Sys2Proof.Machine.execSlti sd sa imm s
  | .lih sd sa imm => Sys2Proof.Machine.execLih sd sa imm s
  | .lpc sd imm => Sys2Proof.Machine.execLpc sd imm s
  | .lds sd base size uns off => Sys2Proof.Machine.execLds sd base size uns off s
  | .sts sd base size off => Sys2Proof.Machine.execSts sd base size off s
  | .beq sa sb off => Sys2Proof.Machine.execBeq sa sb off s
  | .bne sa sb off => Sys2Proof.Machine.execBne sa sb off s
  | .blt sa sb off => Sys2Proof.Machine.execBlt sa sb off s
  | .bge sa sb off => Sys2Proof.Machine.execBge sa sb off s
  | .bltu sa sb off => Sys2Proof.Machine.execBltu sa sb off s
  | .bgeu sa sb off => Sys2Proof.Machine.execBgeu sa sb off s
  | .jmp off => Sys2Proof.Machine.execJmp off s
  | .call off => Sys2Proof.Machine.execCall off s
  | .crget sd num => Sys2Proof.Machine.execCrget sd num s
  | .crput sa num => Sys2Proof.Machine.execCrput sa num s
  | .crsetb sd sa num => Sys2Proof.Machine.execCrsetb sd sa num s
  | .crclrb sd sa num => Sys2Proof.Machine.execCrclrb sd sa num s
  | .crswap sd sa num => Sys2Proof.Machine.execCrswap sd sa num s
  | .trap code => Sys2Proof.Machine.execTrap code s
  | .brk => Sys2Proof.Machine.execBrk s
  | .jr sa => Sys2Proof.Machine.execJr sa s
  | .callr sd sa => Sys2Proof.Machine.execCallr sd sa s
  | .synci => Sys2Proof.Machine.execSynci s
  | .done => Sys2Proof.Machine.execDone s
  | .tret => Sys2Proof.Machine.execTret s
  | .idle => Sys2Proof.Machine.execIdle s
  | .trapm code => Sys2Proof.Machine.execTrapm code s
  | .pfx pm inv cls idx => Sys2Proof.Machine.execPfx pm inv cls idx s
  | .strip sa vref w3 w2 w1 w0 => Sys2Proof.Machine.execStrip sa vref w3 w2 w1 w0 s
  | .claim sd sa base vref st => Sys2Proof.Machine.execClaim sd sa base vref st s
  | .gbar => Sys2Proof.Machine.execGbar s
  | .phend => Sys2Proof.Machine.execPhend s
  | .lfork sd off => Sys2Proof.Machine.execLfork sd off s
  | .ljoin => Sys2Proof.Machine.execLjoin s
  | .vfetch vd va m => Sys2Proof.Machine.execVfetch vd va m s
  | .lbend => Sys2Proof.Machine.execLbend s
  | .qpost sd base va => Sys2Proof.Machine.execQpost sd base va s
  | .vadd vd va vb ca cb m => Sys2Proof.Machine.execVadd vd va vb ca cb m s
  | .vaddVx vd va sb m => Sys2Proof.Machine.execVaddVx vd va sb m s
  | .vsub vd va vb ca cb m => Sys2Proof.Machine.execVsub vd va vb ca cb m s
  | .vsubVx vd va sb m => Sys2Proof.Machine.execVsubVx vd va sb m s
  | .vrsub vd va vb ca cb m => Sys2Proof.Machine.execVrsub vd va vb ca cb m s
  | .vrsubVx vd va sb m => Sys2Proof.Machine.execVrsubVx vd va sb m s
  | .vmul vd va vb ca cb m => Sys2Proof.Machine.execVmul vd va vb ca cb m s
  | .vmulVx vd va sb m => Sys2Proof.Machine.execVmulVx vd va sb m s
  | .vmulh vd va vb ca cb m => Sys2Proof.Machine.execVmulh vd va vb ca cb m s
  | .vmulhVx vd va sb m => Sys2Proof.Machine.execVmulhVx vd va sb m s
  | .vdiv vd va vb ca cb m => Sys2Proof.Machine.execVdiv vd va vb ca cb m s
  | .vdivVx vd va sb m => Sys2Proof.Machine.execVdivVx vd va sb m s
  | .vrem vd va vb ca cb m => Sys2Proof.Machine.execVrem vd va vb ca cb m s
  | .vremVx vd va sb m => Sys2Proof.Machine.execVremVx vd va sb m s
  | .vmin vd va vb ca cb m => Sys2Proof.Machine.execVmin vd va vb ca cb m s
  | .vminVx vd va sb m => Sys2Proof.Machine.execVminVx vd va sb m s
  | .vmax vd va vb ca cb m => Sys2Proof.Machine.execVmax vd va vb ca cb m s
  | .vmaxVx vd va sb m => Sys2Proof.Machine.execVmaxVx vd va sb m s
  | .vand vd va vb ca cb m => Sys2Proof.Machine.execVand vd va vb ca cb m s
  | .vandVx vd va sb m => Sys2Proof.Machine.execVandVx vd va sb m s
  | .vor vd va vb ca cb m => Sys2Proof.Machine.execVor vd va vb ca cb m s
  | .vorVx vd va sb m => Sys2Proof.Machine.execVorVx vd va sb m s
  | .vxor vd va vb ca cb m => Sys2Proof.Machine.execVxor vd va vb ca cb m s
  | .vxorVx vd va sb m => Sys2Proof.Machine.execVxorVx vd va sb m s
  | .vsll vd va vb ca cb m => Sys2Proof.Machine.execVsll vd va vb ca cb m s
  | .vsllVx vd va sb m => Sys2Proof.Machine.execVsllVx vd va sb m s
  | .vsrl vd va vb ca cb m => Sys2Proof.Machine.execVsrl vd va vb ca cb m s
  | .vsrlVx vd va sb m => Sys2Proof.Machine.execVsrlVx vd va sb m s
  | .vsra vd va vb ca cb m => Sys2Proof.Machine.execVsra vd va vb ca cb m s
  | .vsraVx vd va sb m => Sys2Proof.Machine.execVsraVx vd va sb m s
  | .vadds vd va vb ca cb m => Sys2Proof.Machine.execVadds vd va vb ca cb m s
  | .vaddsVx vd va sb m => Sys2Proof.Machine.execVaddsVx vd va sb m s
  | .vsubs vd va vb ca cb m => Sys2Proof.Machine.execVsubs vd va vb ca cb m s
  | .vsubsVx vd va sb m => Sys2Proof.Machine.execVsubsVx vd va sb m s
  | .vmuls vd va vb ca cb m => Sys2Proof.Machine.execVmuls vd va vb ca cb m s
  | .vmulsVx vd va sb m => Sys2Proof.Machine.execVmulsVx vd va sb m s
  | .vavg vd va vb ca cb m => Sys2Proof.Machine.execVavg vd va vb ca cb m s
  | .vavgVx vd va sb m => Sys2Proof.Machine.execVavgVx vd va sb m s
  | .vabsd vd va vb ca cb m => Sys2Proof.Machine.execVabsd vd va vb ca cb m s
  | .vabsdVx vd va sb m => Sys2Proof.Machine.execVabsdVx vd va sb m s
  | .vabs vd va ca m => Sys2Proof.Machine.execVabs vd va ca m s
  | .vpopc vd va ca m => Sys2Proof.Machine.execVpopc vd va ca m s
  | .vclz vd va ca m => Sys2Proof.Machine.execVclz vd va ca m s
  | .vfadd vd va vb ca cb m => Sys2Proof.Machine.execVfadd vd va vb ca cb m s
  | .vfaddVx vd va sb m => Sys2Proof.Machine.execVfaddVx vd va sb m s
  | .vfsub vd va vb ca cb m => Sys2Proof.Machine.execVfsub vd va vb ca cb m s
  | .vfsubVx vd va sb m => Sys2Proof.Machine.execVfsubVx vd va sb m s
  | .vfrsub vd va vb ca cb m => Sys2Proof.Machine.execVfrsub vd va vb ca cb m s
  | .vfrsubVx vd va sb m => Sys2Proof.Machine.execVfrsubVx vd va sb m s
  | .vfmul vd va vb ca cb m => Sys2Proof.Machine.execVfmul vd va vb ca cb m s
  | .vfmulVx vd va sb m => Sys2Proof.Machine.execVfmulVx vd va sb m s
  | .vfdiv vd va vb ca cb m => Sys2Proof.Machine.execVfdiv vd va vb ca cb m s
  | .vfdivVx vd va sb m => Sys2Proof.Machine.execVfdivVx vd va sb m s
  | .vfmin vd va vb ca cb m => Sys2Proof.Machine.execVfmin vd va vb ca cb m s
  | .vfminVx vd va sb m => Sys2Proof.Machine.execVfminVx vd va sb m s
  | .vfmax vd va vb ca cb m => Sys2Proof.Machine.execVfmax vd va vb ca cb m s
  | .vfmaxVx vd va sb m => Sys2Proof.Machine.execVfmaxVx vd va sb m s
  | .vfsqrt vd va ca m => Sys2Proof.Machine.execVfsqrt vd va ca m s
  | .vfabs vd va ca m => Sys2Proof.Machine.execVfabs vd va ca m s
  | .vfneg vd va ca m => Sys2Proof.Machine.execVfneg vd va ca m s
  | .vfsgnj vd va vb ca cb m => Sys2Proof.Machine.execVfsgnj vd va vb ca cb m s
  | .vfsgnjVx vd va sb m => Sys2Proof.Machine.execVfsgnjVx vd va sb m s
  | .vfma vd va vb ca cb m => Sys2Proof.Machine.execVfma vd va vb ca cb m s
  | .vfms vd va vb ca cb m => Sys2Proof.Machine.execVfms vd va vb ca cb m s
  | .vfnma vd va vb ca cb m => Sys2Proof.Machine.execVfnma vd va vb ca cb m s
  | .vfnms vd va vb ca cb m => Sys2Proof.Machine.execVfnms vd va vb ca cb m s
  | .vmadd vd va vb ca cb m => Sys2Proof.Machine.execVmadd vd va vb ca cb m s
  | .vmadds vd va vb ca cb m => Sys2Proof.Machine.execVmadds vd va vb ca cb m s
  | .vnmsub vd va vb ca cb m => Sys2Proof.Machine.execVnmsub vd va vb ca cb m s
  | .vcmpEq md va vb ca cb m => Sys2Proof.Machine.execVcmpEq md va vb ca cb m s
  | .vcmpNe md va vb ca cb m => Sys2Proof.Machine.execVcmpNe md va vb ca cb m s
  | .vcmpLt md va vb ca cb m => Sys2Proof.Machine.execVcmpLt md va vb ca cb m s
  | .vcmpLe md va vb ca cb m => Sys2Proof.Machine.execVcmpLe md va vb ca cb m s
  | .vcmpGt md va vb ca cb m => Sys2Proof.Machine.execVcmpGt md va vb ca cb m s
  | .vcmpGe md va vb ca cb m => Sys2Proof.Machine.execVcmpGe md va vb ca cb m s
  | .vcmpUn md va vb ca cb m => Sys2Proof.Machine.execVcmpUn md va vb ca cb m s
  | .vcmpEqVx md va sb m => Sys2Proof.Machine.execVcmpEqVx md va sb m s
  | .vcmpNeVx md va sb m => Sys2Proof.Machine.execVcmpNeVx md va sb m s
  | .vcmpLtVx md va sb m => Sys2Proof.Machine.execVcmpLtVx md va sb m s
  | .vcmpLeVx md va sb m => Sys2Proof.Machine.execVcmpLeVx md va sb m s
  | .vcmpGtVx md va sb m => Sys2Proof.Machine.execVcmpGtVx md va sb m s
  | .vcmpGeVx md va sb m => Sys2Proof.Machine.execVcmpGeVx md va sb m s
  | .vcmpUnVx md va sb m => Sys2Proof.Machine.execVcmpUnVx md va sb m s
  | .vnz md va m => Sys2Proof.Machine.execVnz md va m s
  | .mand md ma mb => Sys2Proof.Machine.execMand md ma mb s
  | .mor md ma mb => Sys2Proof.Machine.execMor md ma mb s
  | .mxor md ma mb => Sys2Proof.Machine.execMxor md ma mb s
  | .mandn md ma mb => Sys2Proof.Machine.execMandn md ma mb s
  | .mnot md ma => Sys2Proof.Machine.execMnot md ma s
  | .mpopc sd ma => Sys2Proof.Machine.execMpopc sd ma s
  | .mfirst sd ma => Sys2Proof.Machine.execMfirst sd ma s
  | .vexit ma => Sys2Proof.Machine.execVexit ma s
  | .vexitIncl ma => Sys2Proof.Machine.execVexitIncl ma s
  | .vredsum vd va vb m => Sys2Proof.Machine.execVredsum vd va vb m s
  | .vredsums vd va vb m => Sys2Proof.Machine.execVredsums vd va vb m s
  | .vredmin vd va vb m => Sys2Proof.Machine.execVredmin vd va vb m s
  | .vredmax vd va vb m => Sys2Proof.Machine.execVredmax vd va vb m s
  | .vredand vd va vb m => Sys2Proof.Machine.execVredand vd va vb m s
  | .vredor vd va vb m => Sys2Proof.Machine.execVredor vd va vb m s
  | .vredxor vd va vb m => Sys2Proof.Machine.execVredxor vd va vb m s
  | .vgmax vd va sb m => Sys2Proof.Machine.execVgmax vd va sb m s
  | .vgmin vd va sb m => Sys2Proof.Machine.execVgmin vd va sb m s
  | .vgor vd va sb m => Sys2Proof.Machine.execVgor vd va sb m s
  | .vmov vd va ca m => Sys2Proof.Machine.execVmov vd va ca m s
  | .vmerge vd va vb ca cb m => Sys2Proof.Machine.execVmerge vd va vb ca cb m s
  | .vbcast vd sb m => Sys2Proof.Machine.execVbcast vd sb m s
  | .vidx vd m => Sys2Proof.Machine.execVidx vd m s
  | .vextr sd va sb => Sys2Proof.Machine.execVextr sd va sb s
  | .vperm vd va vb m => Sys2Proof.Machine.execVperm vd va vb m s
  | .vslup vd va sb m => Sys2Proof.Machine.execVslup vd va sb m s
  | .vsldn vd va sb m => Sys2Proof.Machine.execVsldn vd va sb m s
  | .vsl1up vd va sb m => Sys2Proof.Machine.execVsl1up vd va sb m s
  | .vsl1dn vd va sb m => Sys2Proof.Machine.execVsl1dn vd va sb m s
  | .vcompress vd va m => Sys2Proof.Machine.execVcompress vd va m s
  | .vexpand vd va m => Sys2Proof.Machine.execVexpand vd va m s
  | .vconfm md va m => Sys2Proof.Machine.execVconfm md va m s
  | .vconfc vd va m => Sys2Proof.Machine.execVconfc vd va m s
  | .vfsr vd va sb m => Sys2Proof.Machine.execVfsr vd va sb m s
  | .vfsl vd va sb m => Sys2Proof.Machine.execVfsl vd va sb m s
  | .vfsrv vd va vb m => Sys2Proof.Machine.execVfsrv vd va vb m s
  | .vfslv vd va vb m => Sys2Proof.Machine.execVfslv vd va vb m s
  | .vcfg vd sb => Sys2Proof.Machine.execVcfg vd sb s
  | .vcvt vd va ca m => Sys2Proof.Machine.execVcvt vd va ca m s
  | .vcvtRne vd va ca m => Sys2Proof.Machine.execVcvtRne vd va ca m s
  | .vcvtRtz vd va ca m => Sys2Proof.Machine.execVcvtRtz vd va ca m s
  | .vcvtRdn vd va ca m => Sys2Proof.Machine.execVcvtRdn vd va ca m s
  | .vcvtRup vd va ca m => Sys2Proof.Machine.execVcvtRup vd va ca m s
  | .vcvtRna vd va ca m => Sys2Proof.Machine.execVcvtRna vd va ca m s
  | .vcvtSr vd va ca m => Sys2Proof.Machine.execVcvtSr vd va ca m s
  | .vqnt vd va m => Sys2Proof.Machine.execVqnt vd va m s
  | .vldImm vd base imm st m => Sys2Proof.Machine.execVldImm vd base imm st m s
  | .vldReg vd base sx st m => Sys2Proof.Machine.execVldReg vd base sx st m s
  | .vldk vd k sx st m => Sys2Proof.Machine.execVldk vd k sx st m s
  | .vldStr vd base sx st m => Sys2Proof.Machine.execVldStr vd base sx st m s
  | .vstImm vd base imm ca st m => Sys2Proof.Machine.execVstImm vd base imm ca st m s
  | .vstReg vd base sx ca st m => Sys2Proof.Machine.execVstReg vd base sx ca st m s
  | .vstk vd k sx ca st m => Sys2Proof.Machine.execVstk vd k sx ca st m s
  | .vstStr vd base sx ca st m => Sys2Proof.Machine.execVstStr vd base sx ca st m s
  | .vstu vd base sx ca st m => Sys2Proof.Machine.execVstu vd base sx ca st m s
  | .vldfImm vd base imm st m => Sys2Proof.Machine.execVldfImm vd base imm st m s
  | .vldfReg vd base sx st m => Sys2Proof.Machine.execVldfReg vd base sx st m s
  | .vldkf vd k sx st m => Sys2Proof.Machine.execVldkf vd k sx st m s
  | .vldfStr vd base sx st m => Sys2Proof.Machine.execVldfStr vd base sx st m s
  | .vgath vd base vi ca st m => Sys2Proof.Machine.execVgath vd base vi ca st m s
  | .vgathk vd k vi ca st m => Sys2Proof.Machine.execVgathk vd k vi ca st m s
  | .vgathB vd base vi ca st m => Sys2Proof.Machine.execVgathB vd base vi ca st m s
  | .vscatO vd base vi ca st m => Sys2Proof.Machine.execVscatO vd base vi ca st m s
  | .vscatkO vd k vi ca st m => Sys2Proof.Machine.execVscatkO vd k vi ca st m s
  | .vscat vd base vi ca st m => Sys2Proof.Machine.execVscat vd base vi ca st m s
  | .vscatk vd k vi ca st m => Sys2Proof.Machine.execVscatk vd k vi ca st m s
  | .vscatOB vd base vi ca st m => Sys2Proof.Machine.execVscatOB vd base vi ca st m s
  | .vscatB vd base vi ca st m => Sys2Proof.Machine.execVscatB vd base vi ca st m s
  | .vgll vd base vi ca st m => Sys2Proof.Machine.execVgll vd base vi ca st m s
  | .vscc vd base vi ca st m => Sys2Proof.Machine.execVscc vd base vi ca st m s
  | .vaadd vd base vi ca st m => Sys2Proof.Machine.execVaadd vd base vi ca st m s
  | .vamin vd base vi ca st m => Sys2Proof.Machine.execVamin vd base vi ca st m s
  | .vamax vd base vi ca st m => Sys2Proof.Machine.execVamax vd base vi ca st m s
  | .vaand vd base vi ca st m => Sys2Proof.Machine.execVaand vd base vi ca st m s
  | .vaor vd base vi ca st m => Sys2Proof.Machine.execVaor vd base vi ca st m s
  | .vaxchg vd base vi ca st m => Sys2Proof.Machine.execVaxchg vd base vi ca st m s
  | .fence scope mask => Sys2Proof.Machine.execFence scope mask s
  | .sbar mask => Sys2Proof.Machine.execSbar mask s
  | .ldacq sd scope size base st => Sys2Proof.Machine.execLdacq sd scope size base st s
  | .strel sa scope size base st => Sys2Proof.Machine.execStrel sa scope size base st s
  | .kset k sa => Sys2Proof.Machine.execKset k sa s
  | .kdim k sa dim => Sys2Proof.Machine.execKdim k sa dim s
  | .kadv c imm => Sys2Proof.Machine.execKadv c imm s
  | .kadvz c cz imm => Sys2Proof.Machine.execKadvz c cz imm s
  | .ksetc c sa => Sys2Proof.Machine.execKsetc c sa s
  | .krel k => Sys2Proof.Machine.execKrel k s
  | .kwait k => Sys2Proof.Machine.execKwait k s
  | .kqry k sa word => Sys2Proof.Machine.execKqry k sa word s
  | .nmc vc base sx st m => Sys2Proof.Machine.execNmc vc base sx st m s
  | .xlde vd base sx st m => Sys2Proof.Machine.execXlde vd base sx st m s
  | .xstc vd base sx ca st m => Sys2Proof.Machine.execXstc vd base sx ca st m s
  | .xefst vd base sx ca st m => Sys2Proof.Machine.execXefst vd base sx ca st m s
  | .coll vc base sx st => Sys2Proof.Machine.execColl vc base sx st s
  | .mop td va vb ca cb m => Sys2Proof.Machine.execMop td va vb ca cb m s
  | .mopn td va vb ca cb m => Sys2Proof.Machine.execMopn td va vb ca cb m s
  | .mopk td va vb ca cb m k => Sys2Proof.Machine.execMopk td va vb ca cb m k s
  | .tzero td => Sys2Proof.Machine.execTzero td s
  | .tmvr td va sb m => Sys2Proof.Machine.execTmvr td va sb m s
  | .tmvc td va sb m => Sys2Proof.Machine.execTmvc td va sb m s
  | .tmrv td va sb m => Sys2Proof.Machine.execTmrv td va sb m s
  | .tmcv td va sb m => Sys2Proof.Machine.execTmcv td va sb m s
  | .tchk td ma sb => Sys2Proof.Machine.execTchk td ma sb s
  | .tseal td => Sys2Proof.Machine.execTseal td s
  | .spadd vd va vb => Sys2Proof.Machine.execSpadd vd va vb s
  | .spmul vd va vb => Sys2Proof.Machine.execSpmul vd va vb s
  | .spsub vd va vb => Sys2Proof.Machine.execSpsub vd va vb s
  | .spack vd va m => Sys2Proof.Machine.execSpack vd va m s
  | .sunpk vd va m => Sys2Proof.Machine.execSunpk vd va m s
  | .splen vd sb => Sys2Proof.Machine.execSplen vd sb s
  | .prune vd va sb m => Sys2Proof.Machine.execPrune vd va sb m s
  | .pruneU vd va sb m => Sys2Proof.Machine.execPruneU vd va sb m s
  | .hclaim sd sb h => Sys2Proof.Machine.execHclaim sd sb h s
  | .hins md va vb m h => Sys2Proof.Machine.execHins md va vb m h s
  | .hprobe vd va mb m h => Sys2Proof.Machine.execHprobe vd va mb m h s
  | .hdel md va m h => Sys2Proof.Machine.execHdel md va m h s
  | .hacc md va vb m h => Sys2Proof.Machine.execHacc md va vb m h s
  | .hdrain vd va sb h => Sys2Proof.Machine.execHdrain vd va sb h s
  | .hrel h => Sys2Proof.Machine.execHrel h s
  | .hstat sd h => Sys2Proof.Machine.execHstat sd h s
  | .interruptEntry m => Sys2Proof.Machine.execInterruptEntry m s
  | .advanceComplete hart k => Sys2Proof.Machine.execAdvanceComplete hart k s
  | .staleRefetch hart k => Sys2Proof.Machine.execStaleRefetch hart k s
  | .matrixEntryComplete core => Sys2Proof.Machine.execMatrixEntryComplete core s
  | .mandrelAxpby hart => Sys2Proof.Machine.execMandrelAxpby hart s
  | .mandrelStep hart => Sys2Proof.Machine.execMandrelStep hart s
  | .mandrelFill hart => Sys2Proof.Machine.execMandrelFill hart s
  | .mandrelCopy hart => Sys2Proof.Machine.execMandrelCopy hart s
  | .mandrelIadd hart => Sys2Proof.Machine.execMandrelIadd hart s
  | .mandrelScrub hart => Sys2Proof.Machine.execMandrelScrub hart s
  | .allred group => Sys2Proof.Machine.execAllred group s
  | .redscat group => Sys2Proof.Machine.execRedscat group s
  | .allgath group => Sys2Proof.Machine.execAllgath group s
  | .bcast group => Sys2Proof.Machine.execBcast group s
  | .collInstanceTimeout group inst => Sys2Proof.Machine.execCollInstanceTimeout group inst s
  | .collGroupInvalidate group => Sys2Proof.Machine.execCollGroupInvalidate group s
  | .phaseSweep gang => Sys2Proof.Machine.execPhaseSweep gang s
  | .scatterAcknowledge hart lane => Sys2Proof.Machine.execScatterAcknowledge hart lane s
  | .doorbellAnnounce queue index => Sys2Proof.Machine.execDoorbellAnnounce queue index s
  | .examineRecord queue => Sys2Proof.Machine.execExamineRecord queue s
  | .epochEnd => Sys2Proof.Machine.execEpochEnd s
  | .gangPlace queue slots grant => Sys2Proof.Machine.execGangPlace queue slots grant s
  | .timeSliceEnd gang => Sys2Proof.Machine.execTimeSliceEnd gang s
  | .gangPreempt gang => Sys2Proof.Machine.execGangPreempt gang s
  | .gangResume gang slots grant => Sys2Proof.Machine.execGangResume gang slots grant s
  | .frzcmdUnfreeze hart => Sys2Proof.Machine.execFrzcmdUnfreeze hart s
  | .frzcmdKill hart => Sys2Proof.Machine.execFrzcmdKill hart s
  | .partWrite p w => Sys2Proof.Machine.execPartWrite p w s
  | .qdWrite queue word w => Sys2Proof.Machine.execQdWrite queue word w s
  | .queueUnregister queue => Sys2Proof.Machine.execQueueUnregister queue s
  | .invaWrite p w => Sys2Proof.Machine.execInvaWrite p w s
  | .invalidationComplete p => Sys2Proof.Machine.execInvalidationComplete p s
  | .probeRewalk hart => Sys2Proof.Machine.execProbeRewalk hart s
  | .mcmdStart p => Sys2Proof.Machine.execMcmdStart p s
  | .migrationComplete p => Sys2Proof.Machine.execMigrationComplete p s
  | .controllerRead mid sector layout => Sys2Proof.Machine.execControllerRead mid sector layout s
  | .controllerPartialStore mid sector layout data enable => Sys2Proof.Machine.execControllerPartialStore mid sector layout data enable s
  | .controllerFullStore mid sector layout data => Sys2Proof.Machine.execControllerFullStore mid sector layout data s
  | .linkResponseLost tag => Sys2Proof.Machine.execLinkResponseLost tag s
  | .responseTimeout tag => Sys2Proof.Machine.execResponseTimeout tag s
  | .scratchpadRebuild core word => Sys2Proof.Machine.execScratchpadRebuild core word s
  | .scratchpadRebuildComplete core word => Sys2Proof.Machine.execScratchpadRebuildComplete core word s
  | .laneSuspect core lane => Sys2Proof.Machine.execLaneSuspect core lane s
  | .errpop p w => Sys2Proof.Machine.execErrpop p w s
  | .pdatRemove p => Sys2Proof.Machine.execPdatRemove p s
  | .efrzcmdUnfreeze p w => Sys2Proof.Machine.execEfrzcmdUnfreeze p w s
  | .rowCounterRefresh stack bank row => Sys2Proof.Machine.execRowCounterRefresh stack bank row s
  | .periodicRefresh stack bank row => Sys2Proof.Machine.execPeriodicRefresh stack bank row s
  | .fallbackRefreshTakeover stack => Sys2Proof.Machine.execFallbackRefreshTakeover stack s
  | .patrolScrubSector unit => Sys2Proof.Machine.execPatrolScrubSector unit s
  | .patrolPassEnd unit late => Sys2Proof.Machine.execPatrolPassEnd unit late s
  | .powerSample module parts temp energy => Sys2Proof.Machine.execPowerSample module parts temp energy s
  | .powerGrantAdoptTimeout gang => Sys2Proof.Machine.execPowerGrantAdoptTimeout gang s
  | .bar0DoorbellAccess fn off write => Sys2Proof.Machine.execBar0DoorbellAccess fn off write s
  | .bar2SystemAccess fn off write => Sys2Proof.Machine.execBar2SystemAccess fn off write s
  | .bar4MemoryAccess fn off size write => Sys2Proof.Machine.execBar4MemoryAccess fn off size write s
  | .atsInvalidationRequest p addr sz => Sys2Proof.Machine.execAtsInvalidationRequest p addr sz s
  | .priResponse p ok => Sys2Proof.Machine.execPriResponse p ok s
  | .priTimeout p => Sys2Proof.Machine.execPriTimeout p s
  | .fnctlUnfreeze fn => Sys2Proof.Machine.execFnctlUnfreeze fn s
  | .fnctlKill fn => Sys2Proof.Machine.execFnctlKill fn s
  | .functionLevelReset fn => Sys2Proof.Machine.execFunctionLevelReset fn s
  | .peerRequest port dev pa size req => Sys2Proof.Machine.execPeerRequest port dev pa size req s
  | .peerstUnfreeze dev => Sys2Proof.Machine.execPeerstUnfreeze dev s
  | .lrevoke w => Sys2Proof.Machine.execLrevoke w s
  | .leaseRevocation window => Sys2Proof.Machine.execLeaseRevocation window s
  | .revocationAck => Sys2Proof.Machine.execRevocationAck s
  | .revocationTimeout => Sys2Proof.Machine.execRevocationTimeout s
  | .portDown port => Sys2Proof.Machine.execPortDown port s
  | .peerPathTimeout hart => Sys2Proof.Machine.execPeerPathTimeout hart s
  | .mgmtSoftInterruptSet m mset => Sys2Proof.Machine.execMgmtSoftInterruptSet m mset s
  | .mgmtSoftInterruptAck m mset => Sys2Proof.Machine.execMgmtSoftInterruptAck m mset s
  | .powerOnReset => Sys2Proof.Machine.execPowerOnReset s
  | .warmReset => Sys2Proof.Machine.execWarmReset s
  | .bootcmdWarm w => Sys2Proof.Machine.execBootcmdWarm w s
  | .bootSequence => Sys2Proof.Machine.execBootSequence s
  | .measurementExtend mr stage version digest => Sys2Proof.Machine.execMeasurementExtend mr stage version digest s
  | .spdmChallenge nonce => Sys2Proof.Machine.execSpdmChallenge nonce s
  | .spdmGetMeasurements index nonce => Sys2Proof.Machine.execSpdmGetMeasurements index nonce s
  | .spdmKeyExchange session stream peerKey => Sys2Proof.Machine.execSpdmKeyExchange session stream peerKey s
  | .registerWrite master addr w => Sys2Proof.Machine.execRegisterWrite master addr w s
  | .portUp port => Sys2Proof.Machine.execPortUp port s
  | .peerResponse id reply => Sys2Proof.Machine.execPeerResponse id reply s
  | .atsTranslationCompletion p page answer => Sys2Proof.Machine.execAtsTranslationCompletion p page answer s
  | .remoteRankJoin group inst rank block data => Sys2Proof.Machine.execRemoteRankJoin group inst rank block data s
  | .baseDieCoreRestart stack => Sys2Proof.Machine.execBaseDieCoreRestart stack s

end Sys2Proof.Machine
end

