-- ==== Sys2Proof/Machine/Step.lean ====
section
/-! DEFINITION. The step function, and a state whose next step runs a given word. -/

namespace Sys2Proof.Machine

/-- One step of the device: a device step from outside, a piece of work of some unit, or an instruction of the hart that issues. -/
noncomputable def step (s : State) : Host.Outcome State Fault Refusal :=
  match s.turn with
  | .event i s => exec i s
  | .settled o => o
  | .issue before s => before.issued (s.fetchAndRun exec) s.cur.pc

/-- s with an instruction of nbits bits placed so that the next step fetches and runs it (assumption 17). -/
def State.withFetchWord (s : State) (nbits w : Nat) : State := s.withWord (w % 2 ^ nbits)

end Sys2Proof.Machine
end

