-- ==== Sys2Proof/Safety.lean ====
section
/-! DEFINITION. The words in which the statements say what the rules give: sound states, what a retired instruction leaves of the
issuing hart, and the results of the families, written from the rules and not from the meanings. -/

namespace Sys2Proof.Machine

/-! ### Soundness -/

/-- Memory lists nothing that it would read without listing (the canonical form), and so do the tables of the claimed regions. -/
def State.MemorySound (s : State) : Prop :=
  Memory.wf s.mem = true ∧ (∀ r ∈ s.regions, Sparse.wf none r.slots = true)
    ∧ ∀ v ∈ s.saved, ∀ r ∈ v.regions, Sparse.wf none r.slots = true

/-- A sector of main memory with nothing wrong: not in a poison record, stored under this layout, no bit flipped since (R391, R395). -/
def State.intact (s : State) (unit base layout : Nat) : Prop :=
  s.memctl.poisoned (dieOf unit) base = false ∧ layout < 16 ∧ s.sectorAt base = ⟨some (BitVec.ofNat 4 layout), 0, 0, 0⟩

/-! ### Retirement -/

/-- The state in which the issuing hart has become `h` and nothing else has changed, but that the answers of peers which the hart's
instruction used are gone. -/
def State.after (s : State) (h : Hart) : State :=
  { s with cur := h, peerData := s.peerData.filter fun e => e.1.id != s.cur.id }

/-- The hart past its instruction: PC + 4, the lent state used up, everything else as it was (R163, R175); `undivided` is the model's
note that an instruction which may not be divided has begun. -/
def Hart.past (h : Hart) : Hart := { h with pc := h.pc + 4, pfxs := h.pfxs &&& 0x7FFF#16, undivided := false }

/-- The hart at a target: PFXS.V is 0 there (R175). -/
def Hart.jumped (h : Hart) (target : Word) : Hart := { h with pc := target, pfxs := h.pfxs &&& 0x7FFF#16, undivided := false }

/-- A word written to s[d], and to the copy register that lent state names: class 1 an s-register, class 3 an a-register (R173).
Writes to s0 are discarded (R51). -/
def Hart.wrote (h : Hart) (d : SReg) (w : Word) : Hart :=
  { h with
    s := Vector.ofFn fun r =>
      if r ≠ 0 ∧ (r = d ∨ (h.lent = true ∧ h.copyClass = 1 ∧ r.val = h.copyIndex)) then w else h.s[r]
    a := Vector.ofFn fun r => if h.lent = true ∧ h.copyClass = 3 ∧ r.val = h.copyIndex % 16 then w else h.a[r] }

/-- A word written to s[d] by an instruction that lends nothing. -/
def Hart.wroteOnly (h : Hart) (d : SReg) (w : Word) : Hart :=
  { h with s := Vector.ofFn fun r => if r ≠ 0 ∧ r = d then w else h.s[r] }

/-! ### Scalar instructions -/

/-- The destination and the result that R186, R187, R189 and R190 give a scalar instruction: sums, differences and products
modulo 2^64, shifts as products and quotients by a power of two, comparisons of the values read. -/
def scalarResult (h : Hart) : Instr → Option (SReg × Word)
  | .add d a b => some (d, .ofNat 64 ((h.rs a).toNat + (h.rs b).toNat))
  | .sub d a b => some (d, .ofInt 64 ((h.rs a).toNat - (h.rs b).toNat : Int))
  | .and d a b => some (d, .ofNat 64 ((h.rs a).toNat &&& (h.rs b).toNat))
  | .or d a b => some (d, .ofNat 64 ((h.rs a).toNat ||| (h.rs b).toNat))
  | .xor d a b => some (d, .ofNat 64 ((h.rs a).toNat ^^^ (h.rs b).toNat))
  | .sll d a b => some (d, .ofNat 64 ((h.rs a).toNat * 2 ^ ((h.rs b).toNat % 64)))
  | .srl d a b => some (d, .ofNat 64 ((h.rs a).toNat / 2 ^ ((h.rs b).toNat % 64)))
  | .sra d a b => some (d, .ofInt 64 ((h.rs a).toInt / 2 ^ ((h.rs b).toNat % 64)))
  | .slt d a b => some (d, if (h.rs a).toInt < (h.rs b).toInt then 1 else 0)
  | .sltu d a b => some (d, if (h.rs a).toNat < (h.rs b).toNat then 1 else 0)
  | .mul d a b => some (d, .ofNat 64 ((h.rs a).toNat * (h.rs b).toNat))
  | .mulh d a b => some (d, .ofInt 64 ((h.rs a).toInt * (h.rs b).toInt / 2 ^ 64))
  | .mulhu d a b => some (d, .ofNat 64 ((h.rs a).toNat * (h.rs b).toNat / 2 ^ 64))
  | .div d a b =>
    some (d, if h.rs b = 0 then 0xFFFFFFFFFFFFFFFF else .ofInt 64 ((h.rs a).toInt.tdiv (h.rs b).toInt))
  | .divu d a b =>
    some (d, if h.rs b = 0 then 0xFFFFFFFFFFFFFFFF else .ofNat 64 ((h.rs a).toNat / (h.rs b).toNat))
  | .rem d a b => some (d, if h.rs b = 0 then h.rs a else .ofInt 64 ((h.rs a).toInt.tmod (h.rs b).toInt))
  | .remu d a b => some (d, if h.rs b = 0 then h.rs a else .ofNat 64 ((h.rs a).toNat % (h.rs b).toNat))
  | .min d a b => some (d, .ofInt 64 (Min.min (h.rs a).toInt (h.rs b).toInt))
  | .max d a b => some (d, .ofInt 64 (Max.max (h.rs a).toInt (h.rs b).toInt))
  | .minu d a b => some (d, .ofNat 64 (Min.min (h.rs a).toNat (h.rs b).toNat))
  | .maxu d a b => some (d, .ofNat 64 (Max.max (h.rs a).toNat (h.rs b).toNat))
  | .clz d a => some (d, .ofNat 64 (((List.range 64).find? fun i => (h.rs a).getLsbD (63 - i)).getD 64))
  | .ctz d a => some (d, .ofNat 64 (((List.range 64).find? fun i => (h.rs a).getLsbD i).getD 64))
  | .popc d a => some (d, .ofNat 64 (((List.range 64).filter fun i => (h.rs a).getLsbD i).length))
  | .slli d a n => some (d, .ofNat 64 ((h.rs a).toNat * 2 ^ n.toNat))
  | .srli d a n => some (d, .ofNat 64 ((h.rs a).toNat / 2 ^ n.toNat))
  | .srai d a n => some (d, .ofInt 64 ((h.rs a).toInt / 2 ^ n.toNat))
  | .addi d a i => some (d, .ofInt 64 ((h.rs a).toNat + i.toInt))
  | .andi d a i => some (d, .ofNat 64 ((h.rs a).toNat &&& i.toNat))
  | .ori d a i => some (d, .ofNat 64 ((h.rs a).toNat ||| i.toNat))
  | .xori d a i => some (d, .ofNat 64 ((h.rs a).toNat ^^^ i.toNat))
  | .slti d a i => some (d, if (h.rs a).toInt < i.toInt then 1 else 0)
  | .lih d a i => some (d, .ofNat 64 ((h.rs a).toNat * 2 ^ 16 % 2 ^ 64 ||| i.toNat))
  | .lpc d i => if h.lane.isNone then some (d, .ofInt 64 (h.pc.toNat + i.toInt)) else none
  | _ => none

/-- Whether the copy of lent state may go with an s-register destination: none, or an s- or a-register (R174). -/
def Hart.scalarCopyOk (h : Hart) : Prop := h.lent = true → h.lentMask = 0 ∧ h.lentInv = false ∧ h.copyClass ≠ 2

/-- Lent state that an STS may take: plain m0 and no copy (R174). -/
def Hart.storeCopyOk (h : Hart) : Prop := h.lent = true → h.lentMask = 0 ∧ h.lentInv = false ∧ h.copyClass = 0

/-- The byte that the hart's fetch reads at a key: the older one that it still sees, else the one in memory (R201). -/
def Hart.fetchSees (h : Hart) (m : Memory) (key : Nat) : Byte :=
  match h.view.find? fun e => e.key == key with
  | some e => e.old
  | none => Memory.read m key

/-- The comparison of a compare-branch and its offset (R193, R166). -/
def branchForm (h : Hart) : Instr → Option (Bool × BitVec 13)
  | .beq a b off => some (decide (h.rs a = h.rs b), off)
  | .bne a b off => some (decide (h.rs a ≠ h.rs b), off)
  | .blt a b off => some (decide ((h.rs a).toInt < (h.rs b).toInt), off)
  | .bge a b off => some (decide ((h.rs b).toInt ≤ (h.rs a).toInt), off)
  | .bltu a b off => some (decide ((h.rs a).toNat < (h.rs b).toNat), off)
  | .bgeu a b off => some (decide ((h.rs b).toNat ≤ (h.rs a).toNat), off)
  | _ => none

/-- PC plus four times a signed offset (R193). -/
def Hart.target (h : Hart) (off : Int) : Word := BitVec.ofInt 64 (h.pc.toNat + 4 * off)

/-- A target that a lane block admits: strictly between its VFETCH and its LBEND (R40, R194). -/
def LaneBlock.admits (b : LaneBlock) (target : Word) : Prop := b.fetchPc.toNat < target.toNat ∧ target.toNat < b.endPc.toNat

/-- A taken transfer is legal: outside a lane block always, within one to an admitted target. -/
def Hart.mayJump (h : Hart) (target : Word) : Prop := ∀ b, h.lane = some b → b.admits target

/-- Nothing that the hart has posted orders before an access in a stream: no Mandrel command, no collective and no fetch of the Chuck in the
stream, and for a store no store to a lessor in the stream is out (R106, R133, R136, R271). -/
def State.clearStream (s : State) (stream : Nat) (store : Bool) : Prop := s.cleared s.cur (.stream stream store) = true

/-- No posted collective of the hart has a buffer or a status word, and no fetch of the Chuck for it an element, among n bytes at an address
(R108, R134). -/
def State.clearBytes (s : State) (va n : Nat) : Prop := s.cleared s.cur (.buffer va n) = true

/-- Every transfer that the hart's engines have begun in the streams of a mask has been performed, the stores to lessors with them when
`far` (R143, R263). -/
def State.clearTransfers (s : State) (mask : BitVec 8) (far : Bool) : Prop := s.cleared s.cur (.transfers mask far) = true

/-- A value of n bytes zero-extended or sign-extended to 64 bits (R191). -/
def extended (n : Nat) (unsigned : Bool) (x : Nat) : Word :=
  if unsigned then (BitVec.ofNat (8 * n) x).setWidth 64 else (BitVec.ofNat (8 * n) x).signExtend 64

/-- The address of an LDS or STS (R191): the base register plus a signed offset of 13 bits. -/
def Hart.address (h : Hart) (base : Base) (off : BitVec 13) : Nat :=
  (((match base with
    | .a r => (h.a[r]).toNat
    | .s r => (h.rs (r.castLE (by decide))).toNat : Nat) + off.toInt) % 2 ^ 64).toNat

/-- What raises an alarm in a probe, as the trap that an access of a scalar instruction takes (R192, R374). -/
def missTrap (a : Acc) (va : Nat) : Miss → Option Trap
  | .fault k => some { code := 0x05, deta := va, kind := k, acc := a.code }
  | .align => some { code := 0x06, deta := va, acc := a.code }
  | .residency => some { code := 0x07, deta := va, acc := a.code }
  | _ => none

/-- A state after a probe has failed: a refusal of the host is forgotten with the fault that it raises (R416). -/
def State.afterMiss (s : State) : Miss → State
  | .fault _ => s.forgetRefused s.cur.part.val
  | _ => s

/-- The access table entry of a control register by its number (R65, R324): the registers of privilege U. -/
def programRegister : Nat → Option CReg
  | 0x000 => some .gl
  | 0x001 => some .glanes
  | 0x002 => some .erix
  | 0x003 => some .fcs
  | 0x004 => some .gseedLo
  | 0x005 => some .gseedHi
  | 0x006 => some .gbr
  | 0x007 => some .pfxs
  | 0x008 => some .kstat
  | 0x009 => some .cyc
  | n => if h : 0x010 ≤ n ∧ n < 0x018 then some (.f ⟨n - 0x010, by omega⟩)
    else if h : 0x018 ≤ n ∧ n < 0x020 then some (.c ⟨n - 0x018, by omega⟩)
    else if h : 0x020 ≤ n ∧ n < 0x040 then some (.tag ⟨n - 0x020, by omega⟩)
    else none

/-- The writing forms of major 0x0E (R195): destination of the old value, register number, and the new value from the old one. -/
def registerWriteForm (h : Hart) : Instr → Option (Option SReg × BitVec 12 × (Word → Word))
  | .crput sa num => some (none, num, fun _ => h.rs sa)
  | .crsetb sd sa num => some (some sd, num, fun old => old ||| h.rs sa)
  | .crclrb sd sa num => some (some sd, num, fun old => old &&& ~~~(h.rs sa))
  | .crswap sd sa num => some (some sd, num, fun _ => h.rs sa)
  | _ => none

/-- The hart with a word in s[d], where a destination is given. -/
def Hart.wroteOptional (h : Hart) (d : Option SReg) (w : Word) : Hart :=
  match d with
  | some d => h.wroteOnly d w
  | none => h

/-- A hart with a register of privilege U written, each field as its map gives (R196, R60, R62, R63). -/
def Hart.programWrite (h : Hart) (w : Word) : CReg → Option Hart
  | .gl => some { h with gl := if 16384 < (w.setWidth 15).toNat then 16384 else w.setWidth 15 }
  | .erix => some { h with erix := w.setWidth 14 }
  | .fcs => some { h with fcs := w.setWidth 11 &&& 0x73F#11 }
  | .gseedLo => some { h with gseedLo := w }
  | .gseedHi => some { h with gseedHi := w }
  | .pfxs => some { h with pfxs := w.setWidth 16 &&& 0xFFF8#16 }
  | .f i => some { h with f := h.f.set i (w.setWidth 32 &&& 0xFF0701FF#32) }
  | _ => none

/-- The levels of R323 by which a number of major 0x0E may be named. -/
def levelAdmits (l : Level) (n : Nat) : Prop :=
  match l with
  | .u => n < 0x100
  | .s => n < 0x200
  | .m => True

/-! ### Traps -/

/-- The set of trap registers at entry (R373, R380): the record, with bits [56:0] of the resume address, FROM the level left, INH set, HOLDW
from HOLD, HOLD set, every other field of TSTATE as it was. -/
def TrapSet.Entered (t t' : TrapSet) (from' : Level) (resume cause deta detb : Word) : Prop :=
  t' = { t with tresume := resume &&& 0x01FFFFFFFFFFFFFF#64, tcause := cause, tdeta := deta, tdetb := detb, tstate := t'.tstate }
  ∧ (t'.tstate.extractLsb' 3 2).toNat = (match from' with
      | .u => 0
      | .s => 1
      | .m => 2)
  ∧ t'.tstate.getLsbD 7 = true ∧ t'.tstate.getLsbD 6 = true ∧ t'.tstate.getLsbD 5 = t.tstate.getLsbD 6
  ∧ ∀ i < 64, (i < 3 ∨ 8 ≤ i) → t'.tstate.getLsbD i = t.tstate.getLsbD i

/-- The hart at a handler of level S or M (R380): the level, the address of TBASE, and GL, ERIX and PFXS at 0; the trap set of that
level entered; every other register as it was. -/
def Hart.AtHandler (h k : Hart) (level : Level) (resume cause deta detb : Word) : Prop :=
  let base (t : TrapSet) : Word := t.tbase &&& 0x01FFFFFFFFFFFFFC#64
  match level with
  | .m => h.mset.Entered k.mset h.prv resume cause deta detb
      ∧ k = { h with mset := k.mset, gl := 0, erix := 0, pfxs := 0, undivided := false, prv := .m, pc := base h.mset }
  | _ => h.sset.Entered k.sset h.prv resume cause deta detb
      ∧ k = { h with sset := k.sset, gl := 0, erix := 0, pfxs := 0, undivided := false, prv := .s, pc := base h.sset }

/-- Word i of a trap frame (R382): the scalar state of the hart, and 0 beyond it. -/
def Hart.frameWord (h : Hart) (i : Nat) : Nat :=
  if hs : i < 32 then (h.rs ⟨i, hs⟩).toNat
  else if ha : i < 48 then (h.a[i - 32]'(by omega)).toNat
  else [h.gl.toNat, h.erix.toNat, h.fcs.toNat, h.pfxs.toNat, h.gseedLo.toNat, h.gseedHi.toNat].getD (i - 48) 0

/-- Every sector of a frame, as its turn to be written comes, leads to its place in main memory from a physical address on. -/
def State.FrameIn (s : State) (r : Req) (frame : Nat) (ws : List Nat) (u pa layout : Nat) : Prop :=
  ∀ k < 8, ∀ s1, State.writeFrame r k frame ws s = (.done, s1) →
    ∃ ns s2, s1.probed r .store false (frame + 64 * k) 8 = (.ok (.dram u (pa + 64 * k) layout ns), s2)

/-- The state in which a trapped hart enters its handler: the hart out of its lane block, its links gone, the answers and the reads of its
instruction at lessors left (R42, R148, R378). -/
def State.trapped (s : State) (h : Hart) : State :=
  { s with
    cur := h
    links := s.links.filter fun l => l.hart != h.id
    peerData := s.peerData.filter fun e => e.1.id != h.id
    link.sent := s.link.sent.map fun r => if r.id == h.id && !peerStores r.op then { r with id := orphanId h.id } else r }

/-- The scalar state of a hart after TRET has loaded a frame (R381, R382): word i of the frame to its register, the word of s0 not among
those loaded. -/
def Hart.reloaded (h : Hart) (ws : List Nat) : Hart :=
  let w (i : Nat) : Word := BitVec.ofNat 64 (ws.getD (i - 1) 0)
  { h with
    s := Vector.ofFn fun i => if i.val = 0 then h.s[i] else w i.val
    a := Vector.ofFn fun i => w (32 + i.val)
    gl := if 16384 < ((w 48).setWidth 15).toNat then 16384 else (w 48).setWidth 15
    erix := (w 49).setWidth 14
    fcs := (w 50).setWidth 11 &&& 0x73F#11
    pfxs := (w 51).setWidth 16 &&& 0xFFF8#16
    gseedLo := w 52
    gseedHi := w 53 }

/-! ### Turns -/

/-- What a step answers for a hart that a core has chosen, from what its instruction comes to (R353): a hart whose instruction stalls, with
nothing of it issued, was none that could issue, and every credit is what it was before the choice; else the answer itself. -/
def State.Turned (before chosen : State) (o r : Host.Outcome State Fault Refusal) : Prop :=
  (∀ t, o = .next t → t.cur.wait.stalls = true → t.cur.pc = chosen.cur.pc →
    r = .next (t.mapHarts fun h => { h with credit := ((before.hart? h.id).map Hart.credit).getD h.credit }))
  ∧ ((∀ t, o = .next t → t.cur.wait.stalls = false ∨ t.cur.pc ≠ chosen.cur.pc) → r = o)

/-! ### Classes of instructions -/

/-- The successors that never take lent state (R174): majors 0x0A to 0x0C and 0x0E to 0x15. -/
def takesNoLentState : Instr → Bool
  | .beq _ _ _ | .bne _ _ _ | .blt _ _ _ | .bge _ _ _ | .bltu _ _ _ | .bgeu _ _ _ | .jmp _ | .call _ => true
  | .crget _ _ | .crput _ _ | .crsetb _ _ _ | .crclrb _ _ _ | .crswap _ _ _ => true
  | .trap _ | .brk | .jr _ | .callr _ _ | .synci | .done | .tret | .idle | .trapm _ | .pfx _ _ _ _ => true
  | .strip _ _ _ _ _ _ | .claim _ _ _ _ _ | .gbar | .phend | .lfork _ _ | .ljoin | .vfetch _ _ _ | .qpost _ _ _ => true
  | _ => false

/-- The number of the control register that an instruction of major 0x0E names. -/
def registerNumber : Instr → Option (BitVec 12)
  | .crget _ n | .crput _ n | .crsetb _ _ n | .crclrb _ _ n | .crswap _ _ n => some n
  | _ => none

/-- Whether an instruction's first check is one of level that a hart may fail: the privileged functions of major 0x0F, and a control
register from 0x200 up at S (R324, R377). -/
def needsPrivilege (h : Hart) (i : Instr) : Bool :=
  match i with
  | .tret | .idle | .trapm _ => h.prv == .u
  | i => match registerNumber i with
    | some n => h.prv == .s && 0x200 ≤ n.toNat
    | none => false

/-- The instructions that a lane block admits (R40): SR integer, the immediate instructions, LDS, STS, compare-branch and JMP. -/
def inLaneBlock : Instr → Bool
  | .add _ _ _ | .sub _ _ _ | .and _ _ _ | .or _ _ _ | .xor _ _ _ | .sll _ _ _ | .srl _ _ _ | .sra _ _ _ | .slt _ _ _ | .sltu _ _ _
  | .mul _ _ _ | .mulh _ _ _ | .mulhu _ _ _ | .div _ _ _ | .divu _ _ _ | .rem _ _ _ | .remu _ _ _ | .min _ _ _ | .max _ _ _
  | .minu _ _ _ | .maxu _ _ _ | .clz _ _ | .ctz _ _ | .popc _ _ | .slli _ _ _ | .srli _ _ _ | .srai _ _ _ => true
  | .addi _ _ _ | .andi _ _ _ | .ori _ _ _ | .xori _ _ _ | .slti _ _ _ | .lih _ _ _ | .lds _ _ _ _ _ | .sts _ _ _ _ => true
  | .beq _ _ _ | .bne _ _ _ | .blt _ _ _ | .bge _ _ _ | .bltu _ _ _ | .bgeu _ _ _ | .jmp _ => true
  | _ => false

end Sys2Proof.Machine
end

