-- ==== Sys2Proof/Safety/Vector.lean ====
section
/-! DEFINITION. What the rules give the vector instructions of majors 0x18 to 0x20: for each instruction and hart, the elements that
are written, the flags that are set and the draws that are taken. -/

namespace Sys2Proof.Machine

/-! ### What a vector instruction leaves -/

/-- Element e, of w bits, of the group of g registers from r up (R55). -/
def Hart.elementAt (h : Hart) (r g w e : Nat) : Nat := h.groupBits r g / 2 ^ (e * w) % 2 ^ w

/-- The group of g registers from r up, in elements of w bits, after a write: x gives the elements written, every other element keeps
its value, and so do the bits beyond the last whole element (R52). -/
def Hart.GroupWritten (h k : Hart) (r g w : Nat) (x : Nat → Option Nat) : Prop :=
  (∀ e < 16384 * g / w, k.elementAt r g w e = ((x e).map (· % 2 ^ w)).getD (h.elementAt r g w e))
  ∧ k.groupBits r g / 2 ^ (16384 * g / w * w) = h.groupBits r g / 2 ^ (16384 * g / w * w)

/-- The hart after a vector destination d has been written, and with the same elements the copy group that lent state names, which
also takes d's tag (R52, R173), unless GL is 0 (R29); every other register and tag keeps its value. -/
def Hart.VecWritten (h k : Hart) (d : Vec) (x : Nat → Option Nat) : Prop :=
  let copy := h.lent = true ∧ h.copyClass = 2 ∧ h.gl ≠ 0
  k = { h with v := k.v, tag := k.tag }
  ∧ h.GroupWritten k d.reg d.group d.w x
  ∧ (copy → h.GroupWritten k h.copyIndex d.group d.w x)
  ∧ ∀ r : VReg,
      (¬(d.reg ≤ r.val ∧ r.val < d.reg + d.group) ∧ ¬(copy ∧ h.copyIndex ≤ r.val ∧ r.val < h.copyIndex + d.group) → k.v[r] = h.v[r])
      ∧ k.tag[r] = if copy ∧ h.copyIndex ≤ r.val ∧ r.val < h.copyIndex + d.group then d.tag else h.tag[r]

/-- The hart after a mask destination has been written: p below GL, clear from GL up, nothing when GL is 0 or the mask is m0 (R52, R29,
R51). -/
def Hart.MaskWritten (h k : Hart) (md : MReg) (p : Nat → Bool) : Prop :=
  k = { h with m := k.m }
  ∧ ∀ (r : MReg), ∀ e < 16384, (k.m[r]).getLsbD e =
      if r = md ∧ r ≠ 0 ∧ h.gl ≠ 0 then decide (e < h.gl.toNat) && p e else (h.m[r]).getLsbD e

/-- The copy of lent state may go with a vector destination: none, or a v-register group that is aligned and apart (R174). -/
def Hart.vecCopyOk (h : Hart) (d : Vec) : Prop :=
  h.lent = true → h.copyClass = 0 ∨
    (h.copyClass = 2 ∧ h.copyIndex % d.group = 0 ∧ (h.copyIndex + d.group ≤ d.reg ∨ d.reg + d.group ≤ h.copyIndex))

/-- No copy goes with an instruction that writes a mask register, or no register at all (R174). -/
def Hart.noCopy (h : Hart) : Prop := h.lent = true → h.copyClass = 0

/-- No copy in a v-register goes with an s-register destination (R174). -/
def Hart.sregCopyOk (h : Hart) : Prop := h.lent = true → h.copyClass ≠ 2

/-- The comparison of the Skew pass has nothing to find: the pass is off, or no upset of the hart is to come (R375). -/
def State.steady (s : State) : Prop := s.cur.skew = false ∨ ∀ u ∈ s.upsets, u.hart ≠ s.cur.id

/-- Nothing stops a restartable instruction of the hart between two elements: no asynchronous stop is to come, and the comparison of
the Skew pass has nothing to find (R126, R375). -/
def State.unstopped (s : State) : Prop := s.steady ∧ ∀ x ∈ s.stops, x.1 ≠ s.cur.id

/-- The two words of GSEED after n draws, and draw[63:32] of draw number n (R81). -/
def seedAfter (lo hi : Word) : Nat → Word × Word
  | 0 => (lo, hi)
  | n + 1 => let p := seedAfter lo hi n; let q := drawSeed p.1 p.2; (q.1, q.2.1)

def drawAt (lo hi : Word) (n : Nat) : Nat :=
  let p := seedAfter lo hi n
  (drawSeed p.1 p.2).2.2.toNat / 2 ^ 32

/-- What a vector instruction does to the registers of a hart: its destination, the encodings written by element, the flags set and
the draws taken. -/
structure VecExpect where
  d : Vec
  elem : Nat → Option Nat
  flags : Nat
  draws : Nat

/-- The hart with flags set and draws taken (R63, R83). -/
def Hart.flagged (h : Hart) (flags draws : Nat) : Hart :=
  { h with
    fcs := h.fcs ||| BitVec.ofNat 11 (flags % 64)
    gseedLo := (seedAfter h.gseedLo h.gseedHi draws).1
    gseedHi := (seedAfter h.gseedLo h.gseedHi draws).2 }

/-- A register operand that R58 accepts: its format and number, and GL within its group. -/
def Hart.operand? (h : Hart) (r : VReg) : Option Vec := (h.vec? r).filter fun o => o.lengthOk h.gl.toNat

/-- The flags of the active elements together (R63). -/
def allFlags (es : List Nat) (f : Nat → Nat) : Nat := es.foldl (fun x e => x ||| f e) 0

/-- Whether element e is active: below GL and set in the effective mask (R176). -/
def Hart.isActive (h : Hart) (m : MReg) (e : Nat) : Bool := decide (e < h.gl.toNat) && h.maskBit m e

/-- The active elements in ascending order. -/
def Hart.actives (h : Hart) (m : MReg) : List Nat := (List.range h.gl.toNat).filter (h.maskBit m)

/-- The place of an element among the active ones: the number of the draw it takes (R83). -/
def Hart.place (h : Hart) (m : MReg) (e : Nat) : Nat := ((List.range e).filter (h.maskBit m)).length

/-! ### Integers -/

/-- The operations of R224. -/
inductive IntOp where
  | add | sub | rsub | mul | mulh | div | rem | min | max | and | or | xor | sll | srl | sra | adds | subs | muls | avg | absd
  | abs | popc | clz
deriving DecidableEq, Repr

/-- The exact result r of R224's table: widths of va and vd, va's encoding u, and the values x and y. -/
def IntOp.exact (op : IntOp) (wa wd u : Nat) (x y : Int) : Int :=
  match op with
  | .add | .adds => x + y
  | .sub | .subs => x - y
  | .rsub => y - x
  | .mul | .muls => x * y
  | .mulh => x * y / 2 ^ wd
  | .div => if y = 0 then 2 ^ wd - 1 else x.tdiv y
  | .rem => if y = 0 then x else x - y * x.tdiv y
  | .min => if x < y then x else y
  | .max => if x < y then y else x
  | .and => Int.land x y
  | .or => Int.lor x y
  | .xor => Int.xor x y
  | .sll => x * 2 ^ (y % wa).toNat
  | .srl => ((u / 2 ^ (y % wa).toNat : Nat) : Int)
  | .sra => x / 2 ^ (y % wa).toNat
  | .avg => (x + y + 1) / 2
  | .absd => if x < y then y - x else x - y
  | .abs => if x < 0 then -x else x
  | .popc => (((List.range wa).filter fun i => u.testBit i).length : Nat)
  | .clz => (((List.range wa).find? fun i => u.testBit (wa - 1 - i)).getD wa : Nat)

/-- The saturating operations of R224. -/
def IntOp.saturates : IntOp → Bool
  | .adds | .subs | .muls => true
  | _ => false

/-- A second source: vb, sb read as one element of va's format (R220), or none. -/
inductive Second where
  | v (vb : VReg)
  | s (sb : SReg)
  | none
deriving DecidableEq, Repr

/-- The instructions of majors 0x18 and 0x1A (R224): operation, destination, first and second source, mask. -/
def intForm : Instr → Option (IntOp × VReg × VReg × Second × MReg)
  | .vadd d a b _ _ m => some (.add, d, a, .v b, m)
  | .vaddVx d a b m => some (.add, d, a, .s b, m)
  | .vsub d a b _ _ m => some (.sub, d, a, .v b, m)
  | .vsubVx d a b m => some (.sub, d, a, .s b, m)
  | .vrsub d a b _ _ m => some (.rsub, d, a, .v b, m)
  | .vrsubVx d a b m => some (.rsub, d, a, .s b, m)
  | .vmul d a b _ _ m => some (.mul, d, a, .v b, m)
  | .vmulVx d a b m => some (.mul, d, a, .s b, m)
  | .vmulh d a b _ _ m => some (.mulh, d, a, .v b, m)
  | .vmulhVx d a b m => some (.mulh, d, a, .s b, m)
  | .vdiv d a b _ _ m => some (.div, d, a, .v b, m)
  | .vdivVx d a b m => some (.div, d, a, .s b, m)
  | .vrem d a b _ _ m => some (.rem, d, a, .v b, m)
  | .vremVx d a b m => some (.rem, d, a, .s b, m)
  | .vmin d a b _ _ m => some (.min, d, a, .v b, m)
  | .vminVx d a b m => some (.min, d, a, .s b, m)
  | .vmax d a b _ _ m => some (.max, d, a, .v b, m)
  | .vmaxVx d a b m => some (.max, d, a, .s b, m)
  | .vand d a b _ _ m => some (.and, d, a, .v b, m)
  | .vandVx d a b m => some (.and, d, a, .s b, m)
  | .vor d a b _ _ m => some (.or, d, a, .v b, m)
  | .vorVx d a b m => some (.or, d, a, .s b, m)
  | .vxor d a b _ _ m => some (.xor, d, a, .v b, m)
  | .vxorVx d a b m => some (.xor, d, a, .s b, m)
  | .vsll d a b _ _ m => some (.sll, d, a, .v b, m)
  | .vsllVx d a b m => some (.sll, d, a, .s b, m)
  | .vsrl d a b _ _ m => some (.srl, d, a, .v b, m)
  | .vsrlVx d a b m => some (.srl, d, a, .s b, m)
  | .vsra d a b _ _ m => some (.sra, d, a, .v b, m)
  | .vsraVx d a b m => some (.sra, d, a, .s b, m)
  | .vadds d a b _ _ m => some (.adds, d, a, .v b, m)
  | .vaddsVx d a b m => some (.adds, d, a, .s b, m)
  | .vsubs d a b _ _ m => some (.subs, d, a, .v b, m)
  | .vsubsVx d a b m => some (.subs, d, a, .s b, m)
  | .vmuls d a b _ _ m => some (.muls, d, a, .v b, m)
  | .vmulsVx d a b m => some (.muls, d, a, .s b, m)
  | .vavg d a b _ _ m => some (.avg, d, a, .v b, m)
  | .vavgVx d a b m => some (.avg, d, a, .s b, m)
  | .vabsd d a b _ _ m => some (.absd, d, a, .v b, m)
  | .vabsdVx d a b m => some (.absd, d, a, .s b, m)
  | .vabs d a _ m => some (.abs, d, a, .none, m)
  | .vpopc d a _ m => some (.popc, d, a, .none, m)
  | .vclz d a _ m => some (.clz, d, a, .none, m)
  | _ => none

/-- The least and the largest value of an integer format (R68). -/
def Fmt.least (f : Fmt) : Int := if f.isSigned then -(2 ^ (f.width - 1)) else 0
def Fmt.most (f : Fmt) : Int := if f.isSigned then 2 ^ (f.width - 1) - 1 else 2 ^ f.width - 1

/-- An exact integer as an element: wrapped, or clamped to the format's range (R69, R224). -/
def Fmt.stored (f : Fmt) (saturating : Bool) (r : Int) : Nat :=
  ((if saturating then Max.max f.least (Min.min f.most r) else r) % 2 ^ f.width).toNat

/-- SAT when a saturating result leaves the range of the format. -/
def Fmt.satFlag (f : Fmt) (saturating : Bool) (r : Int) : Nat :=
  if saturating && (decide (r < f.least) || decide (f.most < r)) then flSAT else 0

/-- An operand of the integer class without a scale (R219). -/
def Hart.intOperand? (h : Hart) (r : VReg) : Option Vec := (h.operand? r).filter Vec.isInt

/-- The value of the second source at an element. -/
def Hart.secondInt? (h : Hart) (a : Vec) : Second → Option (Nat → Int)
  | .v vb => (h.intOperand? vb).map fun b e => b.fmt.int (b.elem e)
  | .s sb => some fun _ => a.fmt.int ((h.rs sb).toNat % 2 ^ a.w)
  | .none => some fun _ => 0

/-- An element-wise result: r and its flags at each active element, nothing elsewhere (R223). -/
def Hart.elementwise (h : Hart) (d : Vec) (m : MReg) (r fl : Nat → Nat) (draws : Nat) : VecExpect where
  d := d
  elem e := if h.isActive m e then some (r e) else none
  flags := allFlags (h.actives m) fl
  draws := draws

/-- R224. -/
def intExpect (h : Hart) (i : Instr) : Option VecExpect :=
  (intForm i).bind fun (op, vd, va, y, m) =>
  (h.intOperand? vd).bind fun d =>
  (h.intOperand? va).bind fun a =>
  (h.secondInt? a y).map fun y =>
    let r e := op.exact a.w d.w (a.elem e) (a.fmt.int (a.elem e)) (y e)
    h.elementwise d m (fun e => d.fmt.stored op.saturates (r e)) (fun e => d.fmt.satFlag op.saturates (r e)) 0

/-- The integer forms of R226: whether they saturate, whether the product is subtracted, and the operands. -/
def intFusedForm : Instr → Option (Bool × Bool × VReg × VReg × VReg × MReg)
  | .vmadd d a b _ _ m => some (false, false, d, a, b, m)
  | .vmadds d a b _ _ m => some (true, false, d, a, b, m)
  | .vnmsub d a b _ _ m => some (false, true, d, a, b, m)
  | _ => none

/-- R226, integer forms. -/
def intFusedExpect (h : Hart) (i : Instr) : Option VecExpect :=
  (intFusedForm i).bind fun (sat, minus, vd, va, vb, m) =>
  (h.intOperand? vd).bind fun d =>
  (h.intOperand? va).bind fun a =>
  (h.intOperand? vb).map fun b =>
    let r e := d.fmt.int (d.elem e) + (if minus then -1 else 1) * (a.fmt.int (a.elem e) * b.fmt.int (b.elem e))
    h.elementwise d m (fun e => d.fmt.stored sat (r e)) (fun e => d.fmt.satFlag sat (r e)) 0

/-! ### Floating values -/

/-- The operations of R225. -/
inductive FloatOp where
  | add | sub | rsub | mul | div | min | max | sqrt | abs | neg | sgnj
deriving DecidableEq, Repr

/-- The exact result of R225's table and its flags, from the values, the stored sign of y, and the rounding mode (which decides the
sign of an exact zero). -/
def FloatOp.exact (op : FloatOp) (mode : Nat) (x y : Val) (ySign : Bool) : Res × Nat :=
  match op with
  | .add => addRes mode x y
  | .sub => addRes mode x y.neg
  | .rsub => addRes mode y x.neg
  | .mul => mulRes x y
  | .div => divRes x y
  | .min => toResult (minVal x y)
  | .max => toResult (maxVal x y)
  | .sqrt => sqrtRes x
  | .abs => ((x.withSign false).toRes, x.sigFlag)
  | .neg => (x.neg.toRes, x.sigFlag)
  | .sgnj => ((x.withSign ySign).toRes, x.sigFlag ||| y.sigFlag)

/-- The instructions of majors 0x19 and 0x1B (R225). -/
def floatForm : Instr → Option (FloatOp × VReg × VReg × Second × MReg)
  | .vfadd d a b _ _ m => some (.add, d, a, .v b, m)
  | .vfaddVx d a b m => some (.add, d, a, .s b, m)
  | .vfsub d a b _ _ m => some (.sub, d, a, .v b, m)
  | .vfsubVx d a b m => some (.sub, d, a, .s b, m)
  | .vfrsub d a b _ _ m => some (.rsub, d, a, .v b, m)
  | .vfrsubVx d a b m => some (.rsub, d, a, .s b, m)
  | .vfmul d a b _ _ m => some (.mul, d, a, .v b, m)
  | .vfmulVx d a b m => some (.mul, d, a, .s b, m)
  | .vfdiv d a b _ _ m => some (.div, d, a, .v b, m)
  | .vfdivVx d a b m => some (.div, d, a, .s b, m)
  | .vfmin d a b _ _ m => some (.min, d, a, .v b, m)
  | .vfminVx d a b m => some (.min, d, a, .s b, m)
  | .vfmax d a b _ _ m => some (.max, d, a, .v b, m)
  | .vfmaxVx d a b m => some (.max, d, a, .s b, m)
  | .vfsgnj d a b _ _ m => some (.sgnj, d, a, .v b, m)
  | .vfsgnjVx d a b m => some (.sgnj, d, a, .s b, m)
  | .vfsqrt d a _ m => some (.sqrt, d, a, .none, m)
  | .vfabs d a _ m => some (.abs, d, a, .none, m)
  | .vfneg d a _ m => some (.neg, d, a, .none, m)
  | _ => none

/-- A source of the floating class whose scales can be decoded (R219, R58). -/
def Hart.floatOperand? (h : Hart) (r : VReg) : Option Vec := (h.operand? r).filter fun o => o.isFloat h.gl.toNat

/-- A destination of the floating class, which is neither scaled nor E8 (R219). -/
def Hart.floatDest? (h : Hart) (r : VReg) : Option (Vec × FloatFmt) :=
  (h.operand? r).bind fun d => d.floatDest?.map fun f => (d, f)

/-- The value, flags and stored sign of the second source at an element; the unary forms read va. -/
def Hart.secondFloat? (h : Hart) (a : Vec) : Second → Option (Nat → Val × Nat × Bool)
  | .v vb => (h.floatOperand? vb).map fun b e =>
      ((b.value h e).1, (b.value h e).2, b.fmt.isSigned && (b.elem e).testBit (b.w - 1))
  | .s sb => some fun _ =>
      (a.fmt.decode ((h.rs sb).toNat % 2 ^ a.w), 0, a.fmt.isSigned && (h.rs sb).toNat.testBit (a.w - 1))
  | .none => some fun e => ((a.value h e).1, (a.value h e).2, false)

/-- Results that are rounded once to f: `r` gives the exact result and its flags, each active element takes one draw when FCS.RM is 5
(R78, R83). -/
def Hart.rounded (h : Hart) (d : Vec) (f : FloatFmt) (m : MReg) (r : Nat → Res × Nat) : VecExpect :=
  let code e := f.round h.rmode (if h.rmode = 5 then drawAt h.gseedLo h.gseedHi (h.place m e) else 0) (r e).1
  h.elementwise d m (fun e => (code e).1) (fun e => (r e).2 ||| (code e).2) (if h.rmode = 5 then (h.actives m).length else 0)

/-- R225. -/
def floatExpect (h : Hart) (i : Instr) : Option VecExpect :=
  (floatForm i).bind fun (op, vd, va, y, m) =>
  (h.floatDest? vd).bind fun (d, f) =>
  (h.floatOperand? va).bind fun a =>
  (h.secondFloat? a y).map fun y =>
    h.rounded d f m fun e =>
      let (y, fy, sign) := y e
      let (z, fz) := op.exact h.rmode (a.value h e).1 y sign
      (z, (a.value h e).2 ||| fy ||| fz)

/-- The floating forms of R226: whether the product and whether d is negated. -/
def floatFusedForm : Instr → Option (Bool × Bool × VReg × VReg × VReg × MReg)
  | .vfma d a b _ _ m => some (false, false, d, a, b, m)
  | .vfms d a b _ _ m => some (false, true, d, a, b, m)
  | .vfnma d a b _ _ m => some (true, false, d, a, b, m)
  | .vfnms d a b _ _ m => some (true, true, d, a, b, m)
  | _ => none

/-- R226, floating forms. -/
def floatFusedExpect (h : Hart) (i : Instr) : Option VecExpect :=
  (floatFusedForm i).bind fun (np, nd, vd, va, vb, m) =>
  (h.floatDest? vd).bind fun (d, f) =>
  (h.floatOperand? va).bind fun a =>
  (h.floatOperand? vb).map fun b =>
    h.rounded d f m fun e =>
      let x := (a.value h e).1
      let z := f.decode (d.elem e)
      let p := mulVal (if np then x.neg else x) (b.value h e).1
      let r := addRes h.rmode p.1 (if nd then z.neg else z)
      (r.1, (a.value h e).2 ||| (b.value h e).2 ||| p.2 ||| r.2)

/-! ### Compares -/

/-- The compares of major 0x1D (R227): relation, mask destination, sources, mask. -/
def compareForm : Instr → Option (Rel × MReg × VReg × Second × MReg)
  | .vcmpEq d a b _ _ m => some (.eq, d, a, .v b, m)
  | .vcmpNe d a b _ _ m => some (.ne, d, a, .v b, m)
  | .vcmpLt d a b _ _ m => some (.lt, d, a, .v b, m)
  | .vcmpLe d a b _ _ m => some (.le, d, a, .v b, m)
  | .vcmpGt d a b _ _ m => some (.gt, d, a, .v b, m)
  | .vcmpGe d a b _ _ m => some (.ge, d, a, .v b, m)
  | .vcmpUn d a b _ _ m => some (.un, d, a, .v b, m)
  | .vcmpEqVx d a b m => some (.eq, d, a, .s b, m)
  | .vcmpNeVx d a b m => some (.ne, d, a, .s b, m)
  | .vcmpLtVx d a b m => some (.lt, d, a, .s b, m)
  | .vcmpLeVx d a b m => some (.le, d, a, .s b, m)
  | .vcmpGtVx d a b m => some (.gt, d, a, .s b, m)
  | .vcmpGeVx d a b m => some (.ge, d, a, .s b, m)
  | .vcmpUnVx d a b m => some (.un, d, a, .s b, m)
  | _ => none

/-- A relation between exact integers (R227). -/
def Rel.ofInts (r : Rel) (x y : Int) : Bool :=
  match r with
  | .eq => decide (x = y)
  | .ne => decide (x ≠ y)
  | .lt => decide (x < y)
  | .le => decide (x ≤ y)
  | .gt => decide (y < x)
  | .ge => decide (y ≤ x)
  | .un => false

/-- A relation between floating values: .ne and .un hold, and every other fails, when either is a NaN (R227). -/
def Rel.ofFloats (r : Rel) (x y : Val) : Bool :=
  if x.isNan || y.isNan then r == .ne || r == .un
  else match r, x.cmp y with
  | .eq, .eq => true
  | .ne, .lt => true
  | .ne, .gt => true
  | .lt, .lt => true
  | .le, .lt => true
  | .le, .eq => true
  | .gt, .gt => true
  | .ge, .gt => true
  | .ge, .eq => true
  | _, _ => false

/-- NV of a comparison: a signalling NaN in every form, a quiet NaN in .lt, .le, .gt and .ge (R227). -/
def Rel.flags (r : Rel) (x y : Val) : Nat :=
  if (x.isNan || y.isNan) && (r == .lt || r == .le || r == .gt || r == .ge) then flNV else x.sigFlag ||| y.sigFlag

/-- A mask result: the destination, the bit of each active element, and the flags. -/
structure MaskExpect where
  md : MReg
  bit : Nat → Bool
  flags : Nat

/-- R227. -/
def compareExpect (h : Hart) (i : Instr) : Option MaskExpect :=
  (compareForm i).bind fun (rel, md, va, y, m) =>
  match h.intOperand? va with
  | some a => (h.secondInt? a y).map fun y => ⟨md, fun e => h.isActive m e && rel.ofInts (a.fmt.int (a.elem e)) (y e), 0⟩
  | none =>
    (h.floatOperand? va).bind fun a =>
    (h.secondFloat? a y).map fun y =>
      ⟨md, fun e => h.isActive m e && rel.ofFloats (a.value h e).1 (y e).1,
       allFlags (h.actives m) fun e => (a.value h e).2 ||| (y e).2.1 ||| rel.flags (a.value h e).1 (y e).1⟩

/-- Whether an encoding counts as nonzero: any value bit of an integer, any exponent or mantissa bit, every E8 (R88). -/
def Fmt.countsNonzero (f : Fmt) (x : Nat) : Bool :=
  match f with
  | .uint w => x % 2 ^ w != 0
  | .sint w => x % 2 ^ w != 0
  | .float g => x % 2 ^ (g.expW + g.manW) != 0
  | .e8 => true

/-- The mask writers that are no compare: VNZ (R228), the mask logic (R229) and VCONFM (R240). -/
def maskExpect (h : Hart) (i : Instr) : Option MaskExpect :=
  let lend (e : Nat) : Bool := !h.lent || ((h.rm h.lentMask).getLsbD e != h.lentInv)
  match i with
  | .vnz md va m => (h.operand? va).map fun a => ⟨md, fun e => h.isActive m e && a.fmt.countsNonzero (a.elem e), 0⟩
  | .vconfm md va m => (h.operand? va).map fun a =>
      ⟨md, fun e => h.isActive m e && (List.range e).all fun j => !(h.isActive m j && a.elem j == a.elem e), 0⟩
  | .mand md a b => some ⟨md, fun e => ((h.rm a).getLsbD e && (h.rm b).getLsbD e) && lend e, 0⟩
  | .mor md a b => some ⟨md, fun e => ((h.rm a).getLsbD e || (h.rm b).getLsbD e) && lend e, 0⟩
  | .mxor md a b => some ⟨md, fun e => ((h.rm a).getLsbD e ^^ (h.rm b).getLsbD e) && lend e, 0⟩
  | .mandn md a b => some ⟨md, fun e => ((h.rm a).getLsbD e && !(h.rm b).getLsbD e) && lend e, 0⟩
  | .mnot md a => some ⟨md, fun e => !(h.rm a).getLsbD e && lend e, 0⟩
  | _ => none

/-! ### Reductions and groups -/

/-- A reduction of R231: the integer operation, whether it saturates, and the floating operation where there is one. -/
def reduceForm : Instr → Option ((Int → Int → Int) × Bool × Option FloatOp × VReg × VReg × VReg × MReg)
  | .vredsum d a b m => some (fun x y => x + y, false, some .add, d, a, b, m)
  | .vredsums d a b m => some (fun x y => x + y, true, none, d, a, b, m)
  | .vredmin d a b m => some (fun x y => if x < y then x else y, false, some .min, d, a, b, m)
  | .vredmax d a b m => some (fun x y => if x < y then y else x, false, some .max, d, a, b, m)
  | .vredand d a b m => some (Int.land, false, none, d, a, b, m)
  | .vredor d a b m => some (Int.lor, false, none, d, a, b, m)
  | .vredxor d a b m => some (Int.xor, false, none, d, a, b, m)
  | _ => none

/-- The integer reductions of R231: element 0 receives the seed combined with every active element, when GL is at least 1. -/
def intReduceExpect (h : Hart) (i : Instr) : Option VecExpect :=
  (reduceForm i).bind fun (op, sat, _, vd, va, vb, m) =>
  (h.intOperand? vd).bind fun d =>
  (h.intOperand? va).bind fun a =>
  (h.intOperand? vb).map fun b =>
    let r := ((h.actives m).map fun e => a.fmt.int (a.elem e)).foldl op (b.fmt.int (b.elem 0))
    { d := d
      elem e := if e = 0 ∧ h.gl ≠ 0 then some (d.fmt.stored sat r) else none
      flags := if h.gl = 0 then 0 else d.fmt.satFlag sat r
      draws := 0 }

/-- One level of the tree of R84: the nodes joined in pairs. -/
def joinPairs (acc : FloatFmt) (rm : Nat) (op : FloatOp) : List Node → List Node
  | x :: y :: rest =>
    (match x, y with
      | (none, _), y => y
      | x, (none, _) => x
      | (some a, fa), (some b, fb) =>
        let r := op.exact rm a b false
        let c := acc.round rm 0 r.1
        (some (acc.decode c.1), fa ||| fb ||| r.2 ||| c.2)) :: joinPairs acc rm op rest
  | rest => rest

/-- The tree of R84: k levels of pairs. -/
def pairLevels (acc : FloatFmt) (rm : Nat) (op : FloatOp) : Nat → List Node → List Node
  | 0, ns => ns
  | k + 1, ns => pairLevels acc rm op k (joinPairs acc rm op ns)

/-- The floating reductions of R231 with the tree and the last rounding of R84. -/
def floatReduceExpect (h : Hart) (i : Instr) : Option VecExpect :=
  (reduceForm i).bind fun (_, _, op, vd, va, vb, m) =>
  op.bind fun op =>
  (h.floatDest? vd).bind fun (d, f) =>
  (h.floatOperand? va).bind fun a =>
  (h.floatOperand? vb).map fun b =>
    let acc := if d.fmt = .float fp64 ∨ a.fmt = .float fp64 ∨ b.fmt = .float fp64 then fp64 else fp32
    let inner := if h.rmode = 5 then 0 else h.rmode
    let draw := if h.rmode = 5 then drawAt h.gseedLo h.gseedHi 0 else 0
    let levels := Nat.clog 2 h.gl.toNat
    let leaves : List Node := (List.range (2 ^ levels)).map fun e =>
      if h.isActive m e then (some (a.value h e).1, (a.value h e).2) else (none, 0)
    let seed := b.value h 0
    let result : Nat × Nat :=
      match (pairLevels acc inner op levels leaves).headD (none, 0) with
      | (none, _) =>
        if b.scale.isNone ∧ b.fmt = d.fmt then (b.elem 0, 0)
        else ((f.round h.rmode draw seed.1.toRes).1, seed.2 ||| seed.1.sigFlag ||| (f.round h.rmode draw seed.1.toRes).2)
      | (some v, fl) =>
        if f = acc then
          let r := op.exact h.rmode seed.1 v false
          let c := f.round h.rmode draw r.1
          (c.1, seed.2 ||| fl ||| r.2 ||| c.2)
        else
          let r := op.exact inner seed.1 v false
          let c := acc.round inner 0 r.1
          let z := f.round h.rmode draw (acc.decode c.1).toRes
          (z.1, seed.2 ||| fl ||| r.2 ||| c.2 ||| z.2)
    { d := d
      elem e := if e = 0 ∧ h.gl ≠ 0 then some result.1 else none
      flags := if h.gl = 0 then 0 else result.2
      draws := if h.gl ≠ 0 ∧ h.rmode = 5 then 1 else 0 }

/-- The group combinations of R232. -/
def groupForm : Instr → Option ((Int → Int → Int) × VReg × VReg × SReg × MReg)
  | .vgmax d a b m => some (fun x y => if x < y then y else x, d, a, b, m)
  | .vgmin d a b m => some (fun x y => if x < y then x else y, d, a, b, m)
  | .vgor d a b m => some (Int.lor, d, a, b, m)
  | _ => none

/-- R232: element j receives the combination over the active elements of block j, 0 where there are none. -/
def groupExpect (h : Hart) (i : Instr) : Option VecExpect :=
  (groupForm i).bind fun (op, vd, va, sb, m) =>
  (h.intOperand? vd).bind fun d =>
  (h.intOperand? va).bind fun a =>
    let B := (h.rs sb).toNat
    if ∃ k < 15, 1 ≤ k ∧ B = 2 ^ k then
      some {
        d := d
        elem j :=
          if j * B < h.gl.toNat then
            some (d.fmt.stored false
              (match ((h.actives m).filter fun e => e / B == j).map fun e => a.fmt.int (a.elem e) with
                | [] => 0
                | x :: xs => xs.foldl op x))
          else none
        flags := 0
        draws := 0 }
    else none

/-! ### Moves -/

/-- An operand of an encoding move: vd unscaled, its width w (R219, R233). -/
def Hart.moveDest? (h : Hart) (r : VReg) : Option Vec := (h.operand? r).filter fun d => d.scale.isNone

/-- A source whose width is that of vd. -/
def Hart.moveSource? (h : Hart) (d : Vec) (r : VReg) : Option Vec := (h.operand? r).filter fun a => a.w == d.w

/-- The result of a move: r at the elements that p selects. -/
def moveResult (d : Vec) (p : Nat → Bool) (r : Nat → Nat) : VecExpect where
  d := d
  elem e := if p e then some (r e) else none
  flags := 0
  draws := 0

/-- An element of va at a position, the all-zero encoding at and above GL (R238). -/
def Hart.sourceAt (h : Hart) (a : Vec) (e : Nat) : Nat := if e < h.gl.toNat then a.elem e else 0

/-- The moves, permutes, slides and funnel shifts of major 0x1F with a vector destination (R233 to R241). -/
def moveExpect (h : Hart) (i : Instr) : Option VecExpect :=
  let gl := h.gl.toNat
  match i with
  | .vmov vd va _ m => (h.moveDest? vd).bind fun d => (h.moveSource? d va).map fun a => moveResult d (h.isActive m) a.elem
  | .vbcast vd sb m => (h.moveDest? vd).map fun d => moveResult d (h.isActive m) fun _ => (h.rs sb).toNat % 2 ^ d.w
  | .vidx vd m => (h.intOperand? vd).map fun d => moveResult d (h.isActive m) fun e => e % 2 ^ d.w
  | .vmerge vd va vb _ _ m =>
    (h.moveDest? vd).bind fun d => (h.moveSource? d va).bind fun a => (h.moveSource? d vb).map fun b =>
      moveResult d (fun e => decide (e < gl)) fun e => if h.maskBit m e then a.elem e else b.elem e
  | .vperm vd va vb m =>
    (h.moveDest? vd).bind fun d => (h.moveSource? d va).bind fun a => (h.intOperand? vb).map fun b =>
      moveResult d (h.isActive m) fun e =>
        let i : Int := b.fmt.int (b.elem e)
        if 0 ≤ i ∧ i < (gl : Int) then a.elem i.toNat else 0
  | .vslup vd va sb m =>
    (h.moveDest? vd).bind fun d => (h.moveSource? d va).map fun a =>
      moveResult d (fun e => h.isActive m e && decide ((h.rs sb).toNat ≤ e)) fun e => a.elem (e - (h.rs sb).toNat)
  | .vsldn vd va sb m =>
    (h.moveDest? vd).bind fun d => (h.moveSource? d va).map fun a =>
      moveResult d (h.isActive m) fun e => h.sourceAt a (e + (h.rs sb).toNat)
  | .vsl1up vd va sb m =>
    (h.moveDest? vd).bind fun d => (h.moveSource? d va).map fun a =>
      moveResult d (h.isActive m) fun e => if e = 0 then (h.rs sb).toNat % 2 ^ d.w else a.elem (e - 1)
  | .vsl1dn vd va sb m =>
    (h.moveDest? vd).bind fun d => (h.moveSource? d va).map fun a =>
      moveResult d (h.isActive m) fun e => if e + 1 = gl then (h.rs sb).toNat % 2 ^ d.w else h.sourceAt a (e + 1)
  | .vcompress vd va m =>
    (h.moveDest? vd).bind fun d => (h.moveSource? d va).map fun a =>
      moveResult d (fun n => decide (n < (h.actives m).length)) fun n => a.elem ((h.actives m).getD n 0)
  | .vexpand vd va m =>
    (h.moveDest? vd).bind fun d => (h.moveSource? d va).map fun a => moveResult d (h.isActive m) fun e => a.elem (h.place m e)
  | .vconfc vd va m =>
    (h.intOperand? vd).bind fun d => (h.operand? va).map fun a =>
      moveResult d (h.isActive m) fun e =>
        ((List.range e).filter fun j => h.isActive m j && a.elem j == a.elem e).length % 2 ^ d.w
  | .vfsr vd va sb m => funnel vd va m true fun w => some fun _ => (h.rs sb).toNat % w
  | .vfsl vd va sb m => funnel vd va m false fun w => some fun _ => (h.rs sb).toNat % w
  | .vfsrv vd va vb m => funnel vd va m true fun w => (h.intOperand? vb).map fun b e => (b.fmt.int (b.elem e) % (w : Int)).toNat
  | .vfslv vd va vb m => funnel vd va m false fun w => (h.intOperand? vb).map fun b e => (b.fmt.int (b.elem e) % (w : Int)).toNat
  | _ => none
where
  /-- The funnel shifts of R241: the element joined with its upper or lower neighbour and shifted. -/
  funnel (vd va : VReg) (m : MReg) (right : Bool) (amount : Nat → Option (Nat → Nat)) : Option VecExpect :=
    (h.intOperand? vd).bind fun d => (h.intOperand? va).bind fun a =>
      if d.w = a.w then
        (amount d.w).map fun n =>
          moveResult d (h.isActive m) fun e =>
            if right then (h.sourceAt a (e + 1) * 2 ^ d.w + a.elem e) / 2 ^ n e % 2 ^ d.w
            else (a.elem e * 2 ^ d.w + if e = 0 then 0 else a.elem (e - 1)) * 2 ^ n e / 2 ^ d.w % 2 ^ d.w
      else none

/-- Every vector instruction of majors 0x18 to 0x1F with a vector destination. -/
def vecExpect (h : Hart) (i : Instr) : Option VecExpect :=
  (intExpect h i).orElse fun _ => (intFusedExpect h i).orElse fun _ => (floatExpect h i).orElse fun _ =>
  (floatFusedExpect h i).orElse fun _ => (intReduceExpect h i).orElse fun _ => (floatReduceExpect h i).orElse fun _ =>
  (groupExpect h i).orElse fun _ => moveExpect h i

/-! ### Conversions -/

/-- The mode of each VCVT form (R242). -/
def convertForm (h : Hart) : Instr → Option (Nat × VReg × VReg × MReg)
  | .vcvt d a _ m => some (h.rmode, d, a, m)
  | .vcvtRne d a _ m => some (0, d, a, m)
  | .vcvtRtz d a _ m => some (1, d, a, m)
  | .vcvtRdn d a _ m => some (2, d, a, m)
  | .vcvtRup d a _ m => some (3, d, a, m)
  | .vcvtRna d a _ m => some (4, d, a, m)
  | .vcvtSr d a _ m => some (5, d, a, m)
  | _ => none

/-- One converted element (R244): one rounding to a floating format; a scaled or floating source rounded to an integer; an unscaled
integer clamped with SAT. -/
def convertedElement (h : Hart) (d a : Vec) (mode draw e : Nat) : Nat × Nat :=
  let x := a.value h e
  match d.fmt with
  | .float f => ((f.round mode draw x.1.toRes).1, x.2 ||| x.1.sigFlag ||| (f.round mode draw x.1.toRes).2)
  | f =>
    if a.fmt.isInt ∧ a.scale.isNone then (f.stored true (a.fmt.int (a.elem e)), f.satFlag true (a.fmt.int (a.elem e)))
    else
      let r := roundToInt f.isSigned f.width mode draw x.1.toRes
      (r.1, x.2 ||| r.2)

/-- VCVT (R244): the active elements from ERIX up. -/
def convertExpect (h : Hart) (i : Instr) : Option VecExpect :=
  (convertForm h i).bind fun (mode, vd, va, m) =>
  ((h.operand? vd).filter fun d => d.scale.isNone && d.fmt != .e8).bind fun d =>
  ((h.operand? va).filter fun a => a.scaleOk h.gl.toNat).map fun a =>
    let es := (h.actives m).filter fun e => h.erix.toNat ≤ e
    let draw e := if mode = 5 then drawAt h.gseedLo h.gseedHi (es.filter (· < e)).length else 0
    { d := d
      elem e := if h.isActive m e ∧ h.erix.toNat ≤ e then some (convertedElement h d a mode (draw e) e).1 else none
      flags := allFlags es fun e => (convertedElement h d a mode (draw e) e).2
      draws := if mode = 5 then es.length else 0 }

/-- The bytes that R245 gives the scale of a block: 0xFF with a special value in it, 127 for a block of zeros, else the least byte
whose power of two brings every magnitude within the largest of the format, 254 at most. -/
def scaleByte (d : Fmt) (vs : List Val) : Nat :=
  let within (k : Nat) (v : Val) : Bool :=
    match v with
    | .fin _ m e => !bigger m e d.largest.1 (d.largest.2 + (k - 127 : Int))
    | _ => false
  if vs.any Val.special then 0xFF
  else if vs.all (fun v => match v with
    | .fin _ m _ => m == 0
    | _ => false) then 127
  else ((List.range 254).find? fun k => vs.all (within k)).getD 254

/-- An element of a block under its scale (R245): rounded once, or the NaN result of R73 (0 for an integer format) with NV. -/
def quantisedElement (d : Fmt) (scale mode draw : Nat) (x : Val) : Nat × Nat :=
  let y : Res := match x with
    | .fin n m e => .ex ⟨n, m, e - (scale - 127 : Int), false⟩
    | v => v.toRes
  if scale = 0xFF then
    match d with
    | .float f => (f.nanCode.1, f.nanCode.2 ||| flNV)
    | _ => (0, flNV)
  else
    match d with
    | .float f => f.round mode draw y
    | d => roundToInt d.isSigned d.width mode draw y

/-- VQNT (R245): the scale register, the scale byte of each block that is processed, and the elements. -/
structure QuantExpect where
  vec : VecExpect
  scale : Nat
  byte : Nat → Option Nat

/-- R245. -/
def quantExpect (h : Hart) : Instr → Option QuantExpect
  | .vqnt vd va m =>
    (h.operand? vd).bind fun d =>
    (h.operand? va).bind fun a =>
    d.scale.bind fun (B, sr, sf) =>
      let gl := h.gl.toNat
      let eidx := h.erix.toNat
      if sf = .e8 ∧ d.fmt ≠ .e8 ∧ a.scale = none ∧ ¬(d.reg ≤ sr ∧ sr < d.reg + d.group) ∧ ¬(a.reg ≤ sr ∧ sr < a.reg + a.group)
          ∧ eidx % B = 0 ∧ (gl + B - 1) / B ≤ 2048 then
        let es := (h.actives m).filter fun e => eidx ≤ e
        let byte (j : Nat) : Nat := scaleByte d.fmt ((es.filter fun e => e / B == j).map fun e => (a.value h e).1)
        let draw e := if h.rmode = 5 then drawAt h.gseedLo h.gseedHi (es.filter (· < e)).length else 0
        let r e := quantisedElement d.fmt (byte (e / B)) h.rmode (draw e) (a.value h e).1
        some {
          vec := {
            d := d
            elem e := if h.isActive m e ∧ eidx ≤ e then some (r e).1 else none
            flags := allFlags es fun e => (r e).2
            draws := if h.rmode = 5 then es.length else 0 }
          scale := sr
          byte j := if j * B < gl ∧ eidx < (j + 1) * B then some (byte j) else none }
      else none
  | _ => none

/-! ### Scalar results and control registers -/

/-- MPOPC, MFIRST (R229) and VEXTR (R236): destination and result for GL ≥ 1. -/
def vecScalarResult (h : Hart) (i : Instr) : Option (SReg × Word) :=
  let lend (e : Nat) : Bool := !h.lent || ((h.rm h.lentMask).getLsbD e != h.lentInv)
  let set (ma : MReg) : List Nat := (List.range h.gl.toNat).filter fun e => (h.rm ma).getLsbD e && lend e
  match i with
  | .mpopc sd ma => some (sd, BitVec.ofNat 64 (set ma).length)
  | .mfirst sd ma => some (sd, BitVec.ofNat 64 ((set ma).headD h.gl.toNat))
  | .vextr sd va sb =>
    (h.operand? va).map fun a =>
      let i := (h.rs sb).toNat
      (sd, if 16384 * a.group / a.w ≤ i then 0
        else if a.fmt.isInt then BitVec.ofInt 64 (a.fmt.int (a.elem i)) else BitVec.ofNat 64 (a.elem i))
  | _ => none

/-- GL after VEXIT and VEXIT.incl (R230). -/
def exitGl (h : Hart) : Instr → Option (BitVec 15)
  | .vexit ma => some (cut ma 0)
  | .vexitIncl ma => some (cut ma 1)
  | _ => none
where
  /-- The first position found, plus what is kept, else GL. -/
  cut (ma : MReg) (keep : Nat) : BitVec 15 :=
    match (List.range h.gl.toNat).find? fun e => (h.rm ma).getLsbD e && (!h.lent || ((h.rm h.lentMask).getLsbD e != h.lentInv)) with
    | some f => BitVec.ofNat 15 (f + keep)
    | none => h.gl

/-- The group of registers that a tag put on register q takes (R55). -/
def groupOf (t : Word) (q : Nat) : Nat × Nat := (q / tagGroup t * tagGroup t, tagGroup t)

/-- The tags after VCFG (R243): the new tag on the group, FMT NONE on every other register whose group overlapped it. -/
def configuredTag (h : Hart) (vd : VReg) (t : Word) (q : VReg) : Word :=
  let g := groupOf (h.tag[q]) q.val
  if vd.val ≤ q.val ∧ q.val < vd.val + tagGroup t then t
  else if g.1 < vd.val + tagGroup t ∧ vd.val < g.1 + g.2 then h.tag[q] &&& 0xFFFFFFFFFFFFFFE0#64
  else h.tag[q]

/-- The vector operands whose format, alignment and length every instruction of majors 0x18 to 0x20 checks before anything else of its
operands (R58): the destination and the first source. -/
def vectorOperands (i : Instr) : List VReg :=
  match intForm i with
  | some (_, d, a, _, _) => [d, a]
  | none => match floatForm i with
    | some (_, d, a, _, _) => [d, a]
    | none => match compareForm i with
      | some (_, _, a, _, _) => [a]
      | none => match reduceForm i with
        | some (_, _, _, d, a, b, _) => [d, a, b]
        | none => match i with
          | .vmadd d a b _ _ _ | .vmadds d a b _ _ _ | .vnmsub d a b _ _ _ => [d, a, b]
          | .vfma d a b _ _ _ | .vfms d a b _ _ _ | .vfnma d a b _ _ _ | .vfnms d a b _ _ _ => [d, a, b]
          | .vnz _ a _ | .vconfm _ a _ | .vextr _ a _ => [a]
          | .vgmax d a _ _ | .vgmin d a _ _ | .vgor d a _ _ => [d, a]
          | .vmov d a _ _ | .vslup d a _ _ | .vsldn d a _ _ | .vsl1up d a _ _ | .vsl1dn d a _ _ => [d, a]
          | .vcompress d a _ | .vexpand d a _ | .vconfc d a _ | .vfsr d a _ _ | .vfsl d a _ _ => [d, a]
          | .vmerge d a b _ _ _ | .vperm d a b _ => [d, a, b]
          | .vfsrv d a b _ | .vfslv d a b _ => [d, a, b]
          | .vbcast d _ _ | .vidx d _ => [d]
          | .vcvt d a _ _ | .vcvtRne d a _ _ | .vcvtRtz d a _ _ | .vcvtRdn d a _ _ | .vcvtRup d a _ _ | .vcvtRna d a _ _
          | .vcvtSr d a _ _ => [d, a]
          | .vqnt d a _ => [d, a]
          | _ => []

end Sys2Proof.Machine
end

