-- ==== Sys2Proof/Safety/Gang.lean ====
section
/-! DEFINITION. What the rules give STRIP, CLAIM, the barrier, fork and join, lane blocks and the end of a hart. -/

namespace Sys2Proof.Machine

/-- The hart may execute an instruction of majors 0x11 to 0x15: outside a lane block, with no lent state (R40, R174). -/
def Hart.plain (h : Hart) : Prop := h.lane = none ∧ h.lent = false

/-- A reference register of STRIP or CLAIM, in a format f and groups of g (R206). -/
def Hart.Refers (h : Hart) (r : VReg) (g : Nat) (f : Fmt) : Prop :=
  g = tagGroup h.tag[r] ∧ fmtOf h.f (tagFmt h.tag[r]) = some f ∧ r.val % g = 0

/-- The maximum vector length (R25). -/
def lengthMax (x : Grant) (g : Nat) (f : Fmt) : Nat := x.lanes * 16 * x.q * g * 8 / f.width

/-- A pending grant adopted (R30): its lanes halved at each fork above the hart and again for a live child, and at least 4 (R45); the
grant that the child's LJOIN gives back is the one without that last half (R44). -/
def Hart.adopted (h : Hart) : Hart :=
  match h.pending with
  | none => h
  | some p =>
    let own := p.lanes / 2 ^ h.depth
    { h with
      grant := ⟨Max.max 4 (if h.child.isSome then p.lanes / 2 ^ (h.depth + 1) else own), p.q⟩
      forkGrant := ⟨Max.max 4 own, p.q⟩, pending := none }

/-- GL of a strip (R28). -/
def stripGl (req vmax w : Nat) : Nat :=
  let gl := Min.min req (Min.min vmax 16384)
  if gl < req ∧ w < 8 then gl - gl % (8 / w) else gl

/-- The bits that a pointer's width code stands for (R205): 1 is 2 bits, 6 is 64 bits. -/
def pointerBits (c : BitVec 3) : Nat := 2 ^ c.toNat

/-- The hart past a STRIP (R28). -/
def Hart.stripped (h : Hart) (sa : SReg) (g : Nat) (f : Fmt) (code : Nat → BitVec 3) : Hart :=
  let k := h.adopted
  let gl := stripGl (h.rs sa).toNat (lengthMax k.grant g f) f.width
  ({ k with
    gl := BitVec.ofNat 15 gl
    a := Vector.ofFn fun i => if i.val < 4 ∧ code i.val ≠ 0
      then h.a[i] + BitVec.ofNat 64 ((gl * pointerBits (code i.val) + 7) / 8) else h.a[i] }).past

/-- Gangs that differ at most in the grant in force and the pending grant. -/
def SameGangs (xs ys : List Gang) : Prop :=
  xs.map (fun (g : Gang) => { g with grant := ⟨0, 0⟩, pending := none })
    = ys.map fun (g : Gang) => { g with grant := ⟨0, 0⟩, pending := none }

/-- The hart is a launched one, without a live child, of gang x, the only record of that number (R34, R209). -/
def State.Launched (s : State) (x : Gang) : Prop :=
  s.cur.plain ∧ s.cur.child = none ∧ s.cur.parent = none ∧ s.cur.gang = some x.id ∧ s.gangs.filter (fun g => g.id == x.id) = [x]

/-- The gangs with every record of x's number replaced. -/
def State.withGang (s : State) (x : Gang) : List Gang := s.gangs.map fun g => if g.id == x.id then x else g

/-- A hart that waits at the barrier of gang x departs; another stays as it is (R33, R210). -/
def Hart.departed (x : Gang) (h : Hart) : Hart :=
  if h.gang = some x.id ∧ (h.wait = .barrier ∨ h.wait = .phase) then { h with wait := .run } else h

/-- Gang x in its next generation (R210): GEN advances, ARR returns to the ended harts; the counts of a phase start again. -/
def Gang.next (x : Gang) : Gang :=
  { x with
    gen := x.gen + 1, arr := x.ended, phase := none, sweeps := 0
    sent := if x.phase.isSome then 0 else x.sent
    received := if x.phase.isSome then 0 else x.received }

/-- The state in which the hart k has arrived at the barrier of gang x and waits, or, when it is the last of its generation and the
phase needs no sweep, departs with every other (R33, R35, R210). -/
def State.arrived (s : State) (k : Hart) (x : Gang) (sweep : Bool) : State :=
  let y := { x with arr := x.arr + 1 }
  if y.arr < y.size ∨ y.ended = y.size ∨ sweep = true then { s.after k with gangs := s.withGang y }
  else { s.after (k.departed y) with others := s.others.map (Hart.departed y), gangs := s.withGang y.next }

/-- A child of a fork beside its parent h (R43, R212, R440, R441). -/
def Hart.Forked (h c : Hart) (id : HartId) (sd : SReg) (target : Word) : Prop :=
  (c.id = id ∧ c.parent = some h.id ∧ c.depth = h.depth + 1 ∧ c.gang = h.gang ∧ c.child = none ∧ c.wait = .run ∧ c.frozen = false)
  ∧ (c.pc = target ∧ c.s = (h.wroteOnly sd 2).s ∧ c.a = h.a ∧ c.c = h.c ∧ c.m = h.m ∧ c.v = h.v ∧ c.tag = h.tag ∧ c.f = h.f)
  ∧ (c.fcs = h.fcs ∧ c.gl = h.gl ∧ (c.gseedLo, c.gseedHi) = seedAfter h.gseedLo h.gseedHi 1 ∧ c.erix = 0 ∧ c.pfxs = 0)
  ∧ (c.grant = ⟨h.grant.lanes / 2, h.grant.q⟩ ∧ c.forkGrant = c.grant ∧ c.laneBase = h.laneBase + h.grant.lanes / 2 ∧ c.pending = h.pending)
  ∧ (c.prv = h.prv ∧ c.part = h.part ∧ c.skew = h.skew ∧ c.frzst = 0 ∧ c.frzadr = 0)
  ∧ ((∀ r : KIdx, (c.k[r]).phase = .invalid) ∧ c.h = Vector.replicate 4 0 ∧ c.tiles = 0 ∧ c.win = [])
  ∧ ∀ level, let t := c.trapSet level; let u := h.trapSet level
      t.tbase = u.tbase ∧ t.tframe = u.tframe + 512 ∧ (t.tresume = 0 ∧ t.tcause = 0 ∧ t.tdeta = 0 ∧ t.tdetb = 0)
      ∧ ∀ i < 64, t.tstate.getLsbD i = (i == 5 || i == 6 || (decide (8 ≤ i ∧ i < 16) && u.tstate.getLsbD i))

/-- The child of a hart is gone: no hart of its identity still runs as this hart's child. -/
def State.childGone (s : State) (id : HartId) : Prop :=
  ∀ h ∈ s.cur :: s.others, h.id = id → h.parent = some s.cur.id → h.wait = .ended

/-- A hart whose child has left (R44): the lanes that it held before LFORK, or its share of a pending grant; its length cap as it was
(R30). -/
def Hart.rejoined (h : Hart) : Hart :=
  { h with
    child := none
    grant := ⟨match h.pending with
      | none => h.forkGrant.lanes
      | some p => Max.max 4 (p.lanes / 2 ^ h.depth), h.grant.q⟩ }

/-- A hart that ended: the vacant record of its context, with its gang and parent (R44, R202). -/
def Hart.endedAs (h : Hart) : Hart := { Hart.vacant h.id with gang := h.gang, parent := h.parent, wait := .ended }

/-- Element e as s30 receives it (R214): sign-extended in a signed integer format, else zero-extended. -/
def Vec.laneValue (o : Vec) (e : Nat) : Word :=
  if o.fmt.isInt && o.fmt.isSigned then (BitVec.ofNat o.w (o.elem e)).signExtend 64 else BitVec.ofNat 64 (o.elem e)

/-- The lane-thread of element e at its start (R39). -/
def Hart.threadOf (h : Hart) (b : LaneBlock) (o : Vec) (e : Nat) : Hart :=
  { h with
    lane := some { b with elem := e }
    s := Vector.ofFn fun i => if i = 30 then o.laneValue e else if i = 31 then BitVec.ofNat 64 e else b.saved[i]
    pc := b.fetchPc + 4 }

/-- The first active element at or above an index. -/
def Hart.nextActive (h : Hart) (m : MReg) (lo : Nat) : Option Nat :=
  (List.range h.gl.toNat).find? fun e => decide (lo ≤ e) && h.maskBit m e

/-- A lane block goes on at element lo: the next active element's lane-thread starts, or the block is left behind (R39, R62, R214). -/
def Hart.laneGoesOn (h : Hart) (b : LaneBlock) (o : Vec) (lo : Nat) : Hart :=
  match h.nextActive b.m lo with
  | some e => h.threadOf b o e
  | none => { h with lane := none, s := b.saved, pc := b.endPc + 4, erix := 0 }

/-- The fields of a queue's header, when it passes the checks of R217 and R337: ring base, log2 of its size, TAIL, HEAD and doorbell
address. -/
def headerFields (x : Nat) : Option (Nat × Nat × Nat × Nat × Nat) :=
  let w (i : Nat) : Nat := x / 2 ^ (64 * i) % 2 ^ 64
  if w 0 < 2 ^ 57 ∧ w 0 % 64 = 0 ∧ 4 ≤ w 1 ∧ w 1 ≤ 8 ∧ w 4 < 2 ^ 57 ∧ w 4 % 4096 = 0 then some (w 0, w 1, w 2, w 3, w 4) else none

end Sys2Proof.Machine
end

