-- ==== Sys2Proof/Safety/Memory.lean ====
section
/-! DEFINITION. What the rules give the vector memory instructions of majors 0x22 to 0x27: the addresses of their elements, where
those are in memory, and what loads, stores, windows, atomics and linked accesses leave. -/

namespace Sys2Proof.Machine

/-! ### Addresses -/

/-- An access by element of a data register: its mask, stream, and the address of element e of width w. `wide` forms need elements of
8 bits or more (R247), `dense` forms a register that is not sparse (R250); a `first` form is a first-fault load (R255); an `ordered`
store keeps the highest-numbered element's value, and an `unaligned` one asks for no alignment (R254, R257). -/
structure AccessForm where
  vd : VReg
  m : MReg
  stream : Nat
  addr : Nat → Nat → Nat
  wide : Bool := false
  dense : Bool := false
  first : Bool := false
  ordered : Bool := true
  unaligned : Bool := false

/-- Addresses of unit stride from a start (R247). -/
def unitStride (start : Int) (w e : Nat) : Nat := ((start + (e * w / 8 : Nat)) % 2 ^ 64).toNat

/-- The addresses a[base] + 256 × imm5 and a[base] + s[sX] onwards, and a[base] + e × s[sX] (R247). -/
def Hart.immAddr (h : Hart) (base : AReg) (imm : BitVec 5) : Nat → Nat → Nat :=
  unitStride ((h.a[base]).toNat + 256 * imm.toNat)
def Hart.regAddr (h : Hart) (base : AReg) (sx : SReg) : Nat → Nat → Nat := unitStride ((h.a[base]).toNat + (h.rs sx).toNat)
def Hart.strideAddr (h : Hart) (base : AReg) (sx : SReg) (_w e : Nat) : Nat :=
  (((h.a[base]).toNat + e * (h.rs sx).toInt) % 2 ^ 64).toNat

/-- An index register: of the integer class and not sparse (R246, R250). -/
def Hart.index? (h : Hart) (vi : VReg) : Option Vec := (h.operand? vi).filter fun i => i.fmt.isInt && !i.sparse

/-- The address a[base] + index × element size, or index × 1 in the byte forms (R247). -/
def Hart.indexedAddr (h : Hart) (base : AReg) (i : Vec) (bytes : Bool) (w e : Nat) : Nat :=
  (((h.a[base]).toNat + i.fmt.int (i.elem e) * (if bytes then 1 else w / 8 : Nat)) % 2 ^ 64).toNat

/-- The loads of majors 0x22, 0x24 and 0x25 from a register base. -/
def loadForm (h : Hart) : Instr → Option AccessForm
  | .vldImm vd b imm st m => some { vd, m, stream := st.val, addr := h.immAddr b imm }
  | .vldReg vd b sx st m => some { vd, m, stream := st.val, addr := h.regAddr b sx }
  | .vldStr vd b sx st m => some { vd, m, stream := st.val, addr := h.strideAddr b sx, wide := true }
  | .vldfImm vd b imm st m => some { vd, m, stream := st.val, addr := h.immAddr b imm, first := true }
  | .vldfReg vd b sx st m => some { vd, m, stream := st.val, addr := h.regAddr b sx, first := true }
  | .vldfStr vd b sx st m => some { vd, m, stream := st.val, addr := h.strideAddr b sx, wide := true, first := true }
  | .vgath vd b vi _ st m => (h.index? vi).map fun i =>
    { vd, m, stream := st.val, addr := h.indexedAddr b i false, wide := true, dense := true }
  | .vgathB vd b vi _ st m => (h.index? vi).map fun i =>
    { vd, m, stream := st.val, addr := h.indexedAddr b i true, wide := true, dense := true }
  | _ => none

/-- The stores of majors 0x23 and 0x26 to a register base. -/
def storeForm (h : Hart) : Instr → Option AccessForm
  | .vstImm vd b imm _ st m => some { vd, m, stream := st.val, addr := h.immAddr b imm }
  | .vstReg vd b sx _ st m => some { vd, m, stream := st.val, addr := h.regAddr b sx }
  | .vstStr vd b sx _ st m => some { vd, m, stream := st.val, addr := h.strideAddr b sx, wide := true }
  | .vstu vd b sx _ st m => some { vd, m, stream := st.val, addr := h.regAddr b sx, wide := true, unaligned := true }
  | .vscatO vd b vi _ st m => (h.index? vi).map fun i =>
    { vd, m, stream := st.val, addr := h.indexedAddr b i false, wide := true, dense := true }
  | .vscat vd b vi _ st m => (h.index? vi).map fun i =>
    { vd, m, stream := st.val, addr := h.indexedAddr b i false, wide := true, dense := true, ordered := false }
  | .vscatOB vd b vi _ st m => (h.index? vi).map fun i =>
    { vd, m, stream := st.val, addr := h.indexedAddr b i true, wide := true, dense := true }
  | .vscatB vd b vi _ st m => (h.index? vi).map fun i =>
    { vd, m, stream := st.val, addr := h.indexedAddr b i true, wide := true, dense := true, ordered := false }
  | _ => none

/-- Whether an instruction is a scatter, whose elements are counted (R35, R36). -/
def isScatter : Instr → Bool
  | .vscatO _ _ _ _ _ _ | .vscat _ _ _ _ _ _ | .vscatOB _ _ _ _ _ _ | .vscatB _ _ _ _ _ _ => true
  | _ => false

/-- The data register of a form: R58 accepts it, and its width and tag suit the form. -/
def Hart.dataReg (h : Hart) (x : AccessForm) (d : Vec) : Prop :=
  h.operand? x.vd = some d ∧ (x.wide = true → 8 ≤ d.w) ∧ (x.dense = true → d.sparse = false)

/-- The accesses that hold element e: for each, the bytes of the element before it, its address and its size. An element of 8 bits or
more is one access, or single bytes where an unaligned form needs them; a smaller one is the byte or the two bytes that hold its bits
(R55, R247). -/
def AccessForm.accesses (x : AccessForm) (w e : Nat) : List (Nat × Nat × Nat) :=
  let a := x.addr w e
  if w < 8 then (List.range ((e * w % 8 + w + 7) / 8)).map fun i => (i, (a + i) % 2 ^ 64, 1)
  else if x.unaligned && a % (w / 8) != 0 then (List.range (w / 8)).map fun i => (i, (a + i) % 2 ^ 64, 1)
  else [(0, a, w / 8)]

/-- An element that the instruction accesses: active, and at or above ERIX (R62). -/
def AccessForm.takes (x : AccessForm) (h : Hart) (e : Nat) : Prop := h.isActive x.m e = true ∧ h.erix.toNat ≤ e

/-! ### Places -/

/-- The n bytes at a location are undamaged and mean what memory holds: a sector of main memory with nothing wrong; scratchpad words
without a flipped bit and outside every window; host memory. -/
def State.exact (s : State) (l : Loc) (n : Nat) : Prop :=
  match l with
  | .dram u pa k _ => pa % 64 + n ≤ 64 ∧ s.intact u (pa / 64 * 64) k
  | .host _ _ => True
  | .spad c off =>
    (∀ w, off / 4 ≤ w → 4 * w < off + n → Sparse.get 0 s.spadFlips (c * 393216 + w) = 0)
      ∧ (∀ b, off ≤ b → b < off + n → s.windowAt c b = false) ∧ ∀ r ∈ s.lost, ∀ b, off ≤ b → b < off + n → inRange c b r = false
  | .lease _ _ => False
  | .doorbell _ _ _ => False

/-- A page that may not be read ahead (R124); scratchpad lies on none. -/
def Loc.noSpeculation : Loc → Bool
  | .spad _ _ => false
  | .dram _ _ _ ns | .host _ ns | .lease _ ns | .doorbell _ _ ns => ns

/-- The issuing hart reaches n bytes at an address: the probe gives a location with undamaged bytes, whose first has the given memory
key, and changes nothing; no collective of the hart is in the way. -/
def State.reaches (s : State) (a : Acc) (ahead : Prop) (va n key : Nat) : Prop :=
  s.clearBytes va n
    ∧ ∃ l : Loc, s.probe s.cur.req a false va n = (.ok l, s) ∧ s.exact l n ∧ l.key = key ∧ (ahead → l.noSpeculation = false)

/-- Every access of element e is reached, at keys that depend on the address. -/
def State.reachesElem (s : State) (a : Acc) (ahead : Prop) (x : AccessForm) (w : Nat) (key : Nat → Nat) (e : Nat) : Prop :=
  ∀ p ∈ x.accesses w e, s.reaches a ahead p.2.1 p.2.2 (key p.2.1)

/-- An element that cannot be read ahead: its first access would fault, or lies on a page that may not be read ahead (R124, R255). -/
def State.stopsAhead (s : State) (x : AccessForm) (w e : Nat) : Prop :=
  ∃ p, (x.accesses w e).head? = some p ∧
    ((∃ k, s.probe s.cur.req .load false p.2.1 p.2.2 = (.error (.fault k), s))
      ∨ s.probe s.cur.req .load false p.2.1 p.2.2 = (.error .align, s)
      ∨ ∃ l : Loc, s.probe s.cur.req .load false p.2.1 p.2.2 = (.ok l, s) ∧ l.noSpeculation = true)

/-- The bytes of element e as memory holds them, lowest first, as one number. -/
def State.bytesOf (s : State) (x : AccessForm) (w : Nat) (key : Nat → Nat) (e : Nat) : Nat :=
  ((x.accesses w e).map fun p => Memory.readN s.mem (key p.2.1) p.2.2 * 256 ^ p.1).sum

/-- Element e's encoding in memory (R55). -/
def State.loaded (s : State) (x : AccessForm) (w : Nat) (key : Nat → Nat) (e : Nat) : Nat :=
  s.bytesOf x w key e / 2 ^ (if w < 8 then e * w % 8 else 0) % 2 ^ w

/-- Bit i of the byte of memory at key b is bit o of element e. -/
def AccessForm.covers (x : AccessForm) (w : Nat) (key : Nat → Nat) (e b i o : Nat) : Prop :=
  i < 8 ∧ o < w ∧ ∃ p ∈ x.accesses w e, key p.2.1 ≤ b ∧ b < key p.2.1 + p.2.2
    ∧ (if w < 8 then e * w % 8 else 0) + o = 8 * (p.1 + (b - key p.2.1)) + i

/-! ### Frames -/

/-- The state after reads alone: what the units keep of requests, and what the hart's fetch may see later, may differ. -/
def State.HasRead (s t : State) (k : Hart) : Prop :=
  t = { s with
    cur := { k with view := t.cur.view }
    seqCount := t.seqCount, performed := t.performed, peerData := s.peerData.filter fun e => e.1.id != s.cur.id }

/-- The hart without what its fetch may see later. -/
def Hart.noView (h : Hart) : Hart := { h with view := [] }

/-- The state after stores: memory, links, what the units keep of requests and what fetch may see later may differ; no sector's tag or
damage and no record of poison does, and no link is new. -/
def State.HasStored (s t : State) (k : Hart) : Prop :=
  t = { s with
    cur := { k with view := t.cur.view }
    others := t.others, mem := t.mem, sectors := t.sectors, memctl := t.memctl, spadFlips := t.spadFlips, lost := t.lost
    links := t.links, seqCount := t.seqCount, performed := t.performed
    peerData := s.peerData.filter fun e => e.1.id != s.cur.id
    gangs := t.gangs, free := t.free }
  ∧ t.others.map Hart.noView = s.others.map Hart.noView ∧ (∀ b, t.sectorAt b = s.sectorAt b)
  ∧ (∀ die pa, t.memctl.poisoned die pa = s.memctl.poisoned die pa) ∧ ∀ l ∈ t.links, l ∈ s.links

/-! ### Windows -/

/-- An access through a residency register: data register, residency register, relative index by element, mask; loads or stores,
first-fault and ordered forms. -/
structure WindowForm where
  vd : VReg
  k : KIdx
  m : MReg
  index : Nat → Nat
  wide : Bool := false
  first : Bool := false
  ordered : Bool := true

/-- The relative index s[sX] + e, and an index register's element (R247). -/
def Hart.offsetOf (h : Hart) (sx : SReg) (e : Nat) : Nat := ((h.rs sx).toNat + e) % 2 ^ 64
def Vec.indexOf (i : Vec) (e : Nat) : Nat := (i.fmt.int (i.elem e) % 2 ^ 64).toNat

/-- The window loads (R252, R255, R256). -/
def windowLoadForm (h : Hart) : Instr → Option WindowForm
  | .vldk vd k sx _ m => some { vd, k, m, index := h.offsetOf sx }
  | .vldkf vd k sx _ m => some { vd, k, m, index := h.offsetOf sx, first := true }
  | .vgathk vd k vi _ _ m => (h.index? vi).map fun i => { vd, k, m, index := i.indexOf, wide := true }
  | _ => none

/-- The window stores (R252, R256). -/
def windowStoreForm (h : Hart) : Instr → Option WindowForm
  | .vstk vd k sx _ _ m => some { vd, k, m, index := h.offsetOf sx }
  | .vscatkO vd k vi _ _ m => (h.index? vi).map fun i => { vd, k, m, index := i.indexOf, wide := true }
  | .vscatk vd k vi _ _ m => (h.index? vi).map fun i => { vd, k, m, index := i.indexOf, wide := true, ordered := false }
  | _ => none

/-- The data register of a window access: elements of the residency register's size, sub-byte elements counted by bytes (R92, R94). -/
def Hart.windowData (h : Hart) (x : WindowForm) (d : Vec) : Prop :=
  ∃ o, h.vec? x.vd = some o ∧ o.lengthOk 0 = true ∧ d = (if o.w < 8 then { o with fmt := .uint 8 } else o)
    ∧ h.gl.toNat ≤ 16384 * d.group / d.w
    ∧ (x.wide = true → 8 ≤ o.w ∧ o.sparse = false)
    ∧ h.parent = none ∧ (h.k[x.k]).phase = .valid ∧ d.w = 8 * (h.k[x.k]).esz

def WindowForm.takes (x : WindowForm) (h : Hart) (e : Nat) : Prop := h.isActive x.m e = true ∧ h.erix.toNat ≤ e

/-- Element e names coordinates of the declared set with a copy in the window that has arrived and is not stale (R94, R95, R102, R365). -/
def Hart.inWindow (h : Hart) (x : WindowForm) (at' : Nat → List Nat) (copy : Nat → WinElem) (e : Nat) : Prop :=
  (h.k[x.k]).locate h.c (x.index e) = some (at' e) ∧ h.copy? h.k[x.k] (at' e) = some (copy e) ∧ (copy e).stale = false
    ∧ (copy e).arrival = .arrived

/-! ### Atomics -/

/-- A form of major 0x27: data register, base, index register, stream, mask. -/
structure LinkedForm where
  vd : VReg
  base : AReg
  vi : VReg
  stream : Nat
  m : MReg

/-- The operands of a form of major 0x27 (R247, R250): elements of 8 bits or more, neither sparse nor scaled. -/
def Hart.linked (h : Hart) (x : LinkedForm) (d i : Vec) : Prop :=
  h.operand? x.vd = some d ∧ h.index? x.vi = some i ∧ 8 ≤ d.w ∧ d.sparse = false ∧ d.scale = none

/-- The accesses of a form of major 0x27. -/
def LinkedForm.access (x : LinkedForm) (h : Hart) (i : Vec) : AccessForm :=
  { vd := x.vd, m := x.m, stream := x.stream, addr := h.indexedAddr x.base i false }

/-- The atomics of major 0x27 with given operands (R259). -/
def atomics (vd : VReg) (base : AReg) (vi : VReg) (ca : Bool) (st : Stream) (m : MReg) : List Instr :=
  [.vaadd vd base vi ca st m, .vamin vd base vi ca st m, .vamax vd base vi ca st m, .vaand vd base vi ca st m, .vaor vd base vi ca st m,
    .vaxchg vd base vi ca st m]

/-- The formats that an atomic admits (R259): integers for the bitwise ones, any for the exchange, else integers and rounded formats. -/
def atomicAdmits (f : Fmt) : Instr → Bool
  | .vaand _ _ _ _ _ _ | .vaor _ _ _ _ _ _ => f.isInt
  | .vaxchg _ _ _ _ _ _ => true
  | _ => match f with
    | .e8 => false
    | _ => true

/-- Whether an atomic takes draws: the arithmetic ones on a floating format under stochastic rounding (R83, R259). -/
def Hart.atomicDraws (h : Hart) (f : Fmt) : Instr → Bool
  | .vaand _ _ _ _ _ _ | .vaor _ _ _ _ _ _ | .vaxchg _ _ _ _ _ _ => false
  | _ => match f with
    | .float _ => decide (h.rmode = 5)
    | _ => false

/-- What element e of an atomic leaves in memory, and its flags, from the value read and a draw (R259). -/
def Hart.atomicResult (h : Hart) (d : Vec) (i : Instr) (e old draw : Nat) : Nat × Nat :=
  let arith (int : Int → Int → Int) (op : FloatOp) : Nat × Nat :=
    match d.fmt with
    | .float f =>
      let (z, fz) := op.exact h.rmode (f.decode old) (f.decode (d.elem e)) ((d.elem e).testBit (d.w - 1))
      let (c, fc) := f.round h.rmode draw z
      (c, fz ||| fc)
    | g => ((int (g.int old) (g.int (d.elem e)) % 2 ^ d.w).toNat, 0)
  match i with
  | .vaadd _ _ _ _ _ _ => arith (fun x y => x + y) .add
  | .vamin _ _ _ _ _ _ => arith (fun x y => if y < x then y else x) .min
  | .vamax _ _ _ _ _ _ => arith (fun x y => if x < y then y else x) .max
  | .vaand _ _ _ _ _ _ => (old &&& d.elem e, 0)
  | .vaor _ _ _ _ _ _ => (old ||| d.elem e, 0)
  | _ => (d.elem e, 0)

/-- One element of an atomic: its number, the value read, the value left, its flags. -/
structure Atom where
  elem : Nat
  old : Nat
  new : Nat
  flags : Nat

/-- The elements of an atomic in turn, the latest first (R147): each reads what the latest one of its address has left, or else memory;
the n-th of them takes draw n. -/
def atomRun (m : Memory) (bytes : Nat) (at' : Nat → Nat) (draw : Nat → Nat) (f : Nat → Nat → Nat → Nat × Nat) :
    List Nat → List Atom → List Atom
  | [], done => done
  | e :: es, done =>
    let old := match done.find? fun a => at' a.elem == at' e with
      | some a => a.new
      | none => Memory.readN m (at' e) bytes
    let r := f e old (draw done.length)
    atomRun m bytes at' draw f es (⟨e, old, r.1, r.2⟩ :: done)

/-- What the elements of an atomic come to, in a state. -/
def State.atoms (s : State) (d : Vec) (i : Instr) (at' : Nat → Nat) (es : List Nat) : List Atom :=
  atomRun s.mem (d.w / 8) at' (fun n => if s.cur.atomicDraws d.fmt i then drawAt s.cur.gseedLo s.cur.gseedHi n else 0)
    (s.cur.atomicResult d i) es []

/-- The elements that an access takes, ascending. -/
def Hart.taken (h : Hart) (m : MReg) : List Nat := (List.range h.gl.toNat).filter fun e => decide (h.erix.toNat ≤ e) && h.maskBit m e

/-- Elements counted as sent and received by their gang and as unacknowledged by the lane that processes each (R35, R36, R258). -/
def State.Counted (s t : State) (w : Nat) (es : List Nat) : Prop :=
  (∀ l : Fin 16, t.cur.unacked[l] = s.cur.unacked[l] +
    (es.filter fun e => (s.cur.laneBase + e * w / 128 % s.cur.grant.lanes) % 16 == l.val).length)
  ∧ t.gangs = s.gangs.map fun g => if some g.id = s.cur.gang then
      { g with sent := g.sent + BitVec.ofNat 64 es.length, received := g.received + BitVec.ofNat 64 es.length } else g

end Sys2Proof.Machine
end

