-- ==== Sys2Proof/Safety/Engines.lean ====
section
/-! DEFINITION. What the rules give the residency, Mandrel, transform, matrix, sparse and Burl instructions of majors 0x29 to 0x34. -/

namespace Sys2Proof.Machine

/-! ### Residency -/

/-- The coordinates of a box in ascending relative order (R96); none when it is empty (R93). -/
def Box.coords (b : Box) : List (List Nat) := if b.isEmpty then [] else b.elements

/-- The window registers that an advance of some counters affects: valid, with one of them in CTRS (R96). -/
def Hart.touches (h : Hart) (changed : Nat) (i : KIdx) : Prop := (h.k[i]).phase = .valid ∧ (h.k[i]).ctrs &&& changed ≠ 0

/-- The hart has what a residency instruction other than an advance asks for (R43, R268). -/
def State.mayResidency (s : State) : Prop :=
  s.cur.lane = none ∧ s.cur.noCopy ∧ s.cur.parent = none

/-- The words of KSET pass R91: reserved bits clear, an element size of 1 to 8 bytes that divides the base, and a window that is not
empty, lies in the scratchpad, holds three elements, and meets no other window and no region. -/
def State.ksetOk (s : State) (k : KIdx) (base cfg : Word) : Prop :=
  let esz := 2 ^ (cfg.extractLsb' 16 4).toNat
  let off := (cfg.extractLsb' 51 13).toNat * 256
  let len := (cfg.extractLsb' 38 13).toNat * 256
  base.toNat < 2 ^ 57 ∧ cfg.extractLsb' 32 3 = 0 ∧ cfg.extractLsb' 26 2 = 0 ∧ cfg.extractLsb' 20 4 = 0 ∧ cfg.extractLsb' 0 16 = 0
    ∧ esz ≤ 8 ∧ base.toNat % esz = 0 ∧ 0 < len ∧ off + len ≤ 0x180000 ∧ 3 * esz ≤ len ∧ s.windowFree k off len = true

/-- A register may be released now (R101, R106, R108): when it is valid, its advances have completed, nothing that the hart has posted
orders before a store of its stream, and no collective has the bytes of an element to be written back. -/
def State.mayRelease (s : State) (k : KIdx) : Prop :=
  let r := s.cur.k[k]
  r.phase = .valid → r.inflight = 0 ∧ s.clearStream r.strm true
    ∧ ∀ x ∈ (r.box s.cur.c).coords, ∀ e, s.cur.copy? r x = some e → e.dirty = true → s.clearBytes (r.address x) r.esz

/-- A dirty element of register k's declared set that no other register holds: a release of k writes it back (R99, R103). -/
def Hart.dirtyAlone (h : Hart) (k : KIdx) (x : List Nat) (e : WinElem) : Prop :=
  x ∈ ((h.k[k]).box h.c).coords ∧ h.copy? h.k[k] x = some e ∧ e.dirty = true ∧ e.holders = 1#16 <<< k.val

/-- The translation that the Chuck holds for an element lets the hart write it to undamaged main memory at a physical address: the leaf has
W, and U for a hart at U, and no table refuses it (R103, R332, R362, R364). -/
def State.heldAt (s : State) (e : WinElem) (pa bytes : Nat) : Prop :=
  ∃ t u layout ns, e.held = some t ∧ t.loc = .dram u pa layout ns ∧ t.entry.testBit 5 = true
    ∧ (s.cur.prv = .u → t.entry.testBit 3 = true) ∧ s.denied (.mem u) s.cur.id .wr = none
    ∧ pa % 64 + bytes ≤ 64 ∧ s.intact u (pa / 64 * 64) layout

/-- Every element that a release of register k writes back is written to a place of its own. -/
def State.WritesBack (s : State) (k : KIdx) (place : List Nat → Nat) : Prop :=
  ∀ x e, s.cur.dirtyAlone k x e → s.heldAt e (place x) (s.cur.k[k]).esz
    ∧ ∀ y f, s.cur.dirtyAlone k y f → y ≠ x →
      place x + (s.cur.k[k]).esz ≤ place y ∨ place y + (s.cur.k[k]).esz ≤ place x

/-- Memory in which a release of register k has written back its elements' bytes, and no others (R103). -/
def State.WroteBack (s : State) (k : KIdx) (place : List Nat → Nat) (m : Memory) : Prop :=
  (∀ x e, s.cur.dirtyAlone k x e → Memory.readN m (place x) (s.cur.k[k]).esz = e.data.toNat % 2 ^ (8 * (s.cur.k[k]).esz))
  ∧ ∀ key, (∀ x e, s.cur.dirtyAlone k x e → key < place x ∨ place x + (s.cur.k[k]).esz ≤ key) → Memory.read m key = Memory.read s.mem key

/-- A claimed region given back by one handle: gone with its last attachment, else with one attachment fewer (R299, R310). -/
def State.regionsLeft (s : State) (r : Region) : List Region :=
  if r.refs ≤ 1 then s.regions.filter fun x => !(x.core == r.core && x.off == r.off)
  else s.regions.map fun x => if x.core == r.core && x.off == r.off then { x with refs := x.refs - 1 } else x

/-! ### Matrix -/

/-- The checks of R283: tile name and GL. -/
def Hart.mayMatrix (h : Hart) (td : TReg) : Prop := h.lane = none ∧ td.val < h.tiles ∧ h.gl.toNat ≤ 128

/-- Sources of a MOP (R58, R281, R283). -/
def Hart.mopOperands (h : Hart) (va vb : VReg) (a b : Vec) : Prop :=
  h.operand? va = some a ∧ h.operand? vb = some b ∧ b.sparse = false ∧ a.mopSource = true ∧ b.mopSource = true
    ∧ a.fmt.isFloat = b.fmt.isFloat ∧ a.scaleOk (if a.sparse then a.slen else h.gl.toNat) = true ∧ b.scaleOk h.gl.toNat = true

/-- The values of the active elements, with their numbers. -/
def Hart.valuesOf (h : Hart) (o : Vec) (m : MReg) : List (Nat × Val) := (h.actives m).map fun e => (e, (o.value h e).1)

/-- The pairs of a sparse group that its mask keeps (R292). -/
def Hart.pairsOf (h : Hart) (o : Vec) (m : MReg) : List Nat := (List.range o.slen).filter (h.maskBit m)

/-- The rows of MOP and MOPN (R284, R285): by element, or by coordinate below 128 of a sparse source; and the flags of the scales. -/
def Hart.mopRows (h : Hart) (a : Vec) (m : MReg) : List (Nat × Val) × Nat :=
  if a.sparse then
    let ps := (h.pairsOf a m).filter fun p => decide (a.coord p < 128)
    (ps.map fun p => (a.coord p, (a.pairValue h p).1), allFlags ps fun p => (a.pairValue h p).2)
  else (h.valuesOf a m, allFlags (h.actives m) fun e => (a.value h e).2)

/-- The state with an entry posted to the matrix queue (R280). -/
def State.posted (s : State) (td : TReg) (op : MxOp) (flags : Nat) : State :=
  { s with mxq := s.mxq ++ [⟨s.cur.id, td, op, flags⟩] }

/-- The matrix queue of the hart's core has a place for it (R280, R354). -/
def State.mayPost (s : State) : Prop := s.cleared s.cur .posting = true

/-- The entry of a hart's own is the oldest of its core (R280). -/
def State.oldestEntry (s : State) (td : TReg) (op : MxOp) : Prop :=
  (s.entriesOf (coreOf s.cur.id)).head? = some ⟨s.cur.id, td, op, 0⟩

/-- The state in which the hart's own entry has completed and the hart has become k. -/
def State.completed (s : State) (td : TReg) (op : MxOp) (k : Hart) : State :=
  { s with mxq := s.mxq.erase ⟨s.cur.id, td, op, 0⟩, cur := k }

/-! ### Sparse groups -/

/-- A sparse group d of the hart k holds the pairs ps (R292): SLEN is their number, pair p its coordinate and encoding. -/
def Hart.HoldsPairs (k : Hart) (r g w : Nat) (tag : Word) (ps : List (Nat × Nat)) : Prop :=
  (∀ i : VReg, r ≤ i.val → i.val < r + g → k.tag[i] = (tag.setWidth 48).setWidth 64 ||| (BitVec.ofNat 64 ps.length <<< 48))
  ∧ ∀ p < ps.length, k.elementAt r g 32 p = (ps.getD p (0, 0)).1 % 2 ^ 32
      ∧ k.groupBits r g / 2 ^ (8192 * g + p * w) % 2 ^ w = (ps.getD p (0, 0)).2 % 2 ^ w

/-- The hart after a sparse destination, and the copy that lent state names, have received pairs (R294, R173). -/
def Hart.PairsWritten (h k : Hart) (d : Vec) (ps : List (Nat × Nat)) : Prop :=
  let copy := h.lent = true ∧ h.copyClass = 2
  k = { h with v := k.v, tag := k.tag }
  ∧ k.HoldsPairs d.reg d.group d.w d.tag ps ∧ (copy → k.HoldsPairs h.copyIndex d.group d.w d.tag ps)
  ∧ ∀ r : VReg, ¬(d.reg ≤ r.val ∧ r.val < d.reg + d.group) →
      ¬(copy ∧ h.copyIndex ≤ r.val ∧ r.val < h.copyIndex + d.group) → k.v[r] = h.v[r] ∧ k.tag[r] = h.tag[r]

/-- Coordinates strictly ascend (R292). -/
def Vec.ascending (o : Vec) : Prop := ∀ p q, p < q → q < o.slen → o.coord p < o.coord q

/-- The pair of a coordinate. -/
def Vec.pairAt (o : Vec) (c : Nat) : Option Nat := (List.range o.slen).find? fun p => o.coord p == c

/-- The merges of R294: whether only common coordinates stay, and y negated. -/
def mergeForm : Instr → Option (VReg × VReg × VReg × Bool × Bool)
  | .spadd d a b => some (d, a, b, false, false)
  | .spsub d a b => some (d, a, b, false, true)
  | .spmul d a b => some (d, a, b, true, false)
  | _ => none

/-- The result of one merged coordinate (R294): encoding and flags, from the pairs present and a draw. -/
def mergedValue (h : Hart) (d a b : Vec) (mul minus : Bool) (x y : Option Nat) (draw : Nat) : Nat × Nat :=
  match d.floatDest? with
  | some f =>
    let u := (x.map (a.pairValue h)).map fun p => (p.1, p.2)
    let v := (y.map (b.pairValue h)).map fun p => (if minus then p.1.neg else p.1, p.2)
    let (z, fz) := match u, v with
      | some u, some v => ((if mul then mulRes u.1 v.1 else addRes h.rmode u.1 v.1).1,
          u.2 ||| v.2 ||| (if mul then mulRes u.1 v.1 else addRes h.rmode u.1 v.1).2)
      | some u, none => (u.1.toRes, u.2 ||| u.1.sigFlag)
      | none, some v => (v.1.toRes, v.2 ||| v.1.sigFlag)
      | none, none => (.ex ⟨false, 0, 0, false⟩, 0)
    let (c, fc) := f.round h.rmode draw z
    (c, fz ||| fc)
  | none =>
    let u := x.map fun i => a.fmt.int (a.pairElem i)
    let v := y.map fun j => b.fmt.int (b.pairElem j)
    let r : Int := match mul, u, v with
      | true, some u, some v => u * v
      | _, u, v => u.getD 0 + (if minus then -1 else 1) * v.getD 0
    ((r % 2 ^ d.w).toNat, 0)

/-- Operands of a merge (R296): all sparse, of one class, the destination unscaled and able to hold the result. -/
def Hart.mergeOperands (h : Hart) (vd va vb : VReg) (d a b : Vec) : Prop :=
  h.operand? vd = some d ∧ h.operand? va = some a ∧ h.operand? vb = some b
    ∧ d.sparse = true ∧ a.sparse = true ∧ b.sparse = true ∧ d.scale = none
    ∧ ((a.isFloat a.slen = true ∧ b.isFloat b.slen = true ∧ d.floatDest?.isSome = true)
        ∨ (a.isInt = true ∧ b.isInt = true ∧ d.isInt = true))

/-- One element of PRUNE (R297), threshold τ: a NaN becomes the format's NaN; an element of |x| ≥ τ stays; a smaller one stays, or in
the unbiased form becomes τ with its sign, where the draw is below |x| / τ × 2^32, else it becomes zero with its sign. -/
def pruned (unbiased : Bool) (f : FloatFmt) (t : Val) (draw enc : Nat) : Nat × Nat :=
  match f.decode enc with
  | .nan signalling => ((f.nanCode).1, (f.nanCode).2 ||| if signalling then flNV else 0)
  | .inf _ => (enc, 0)
  | .fin neg m e =>
    if (Val.fin false m e).cmp t ≠ .lt then (enc, 0)
    else if draw < ratio32 (.fin false m e) t then (if unbiased then f.round 0 0 (t.withSign neg).toRes else (enc, 0))
    else (f.pack neg 0 0, 0)

/-! ### Burl -/

/-- The bucket that holds a key in its group, in the order of R301. -/
def Region.bucketOf (r : Region) (key : Nat) : Option Nat :=
  let n := r.log2 - 7
  let x := key * 0x9C4F2D61E8A3B57D % 2 ^ 64
  let g := x / 2 ^ (64 - n)
  let s0 := x / 2 ^ (61 - n) % 8
  ((List.range 8).map fun i => 8 * g + (s0 + i) % 8).find? fun b => ((r.slot b).map Prod.fst) == some key

/-- The value that a region holds for a key. -/
def Region.lookup (r : Region) (key : Nat) : Option Nat := (r.bucketOf key).bind fun b => (r.slot b).map Prod.snd

/-- An instruction of major 0x34 reaches region r through handle h, whose table alone is in use and in its canonical form: no spill
area, no damaged word, and the access table permits it (R306, R332). -/
def State.atRegion (s : State) (h : HReg) (r : Region) (p : Perm) : Prop :=
  s.cur.lane = none ∧ s.regionOf s.cur.id s.cur.h[h] = some r ∧ s.clearStream r.sstr true ∧ s.steady ∧ r.scap = 0 ∧ r.scnt = 0 ∧ Sparse.wf none r.slots = true
    ∧ s.denied (.burl (coreOf s.cur.id)) s.cur.id p = none
    ∧ (∀ b < 2 ^ r.log2, Sparse.get 0 s.spadFlips (r.core * 393216 + (r.off + b) / 4) = 0)

/-- The regions with r's record replaced. -/
def State.withRegion (s : State) (r : Region) : List Region :=
  s.regions.map fun x => if x.core == r.core && x.off == r.off then r else x

/-- The highest active element with the key of element e. -/
def lastOfKey (es : List Nat) (a : Vec) (e : Nat) : Nat := ((es.filter fun j => a.elem j == a.elem e).getLast?).getD e

/-! ### Transform and engines -/

/-- A packed block (R273, R275): all zeros is the byte 0x80; else a header with the least width that holds every element, signed
(mode 1) or unsigned (mode 0), and the values of that width from bit 0 upward. -/
def IsBlock (signed : Bool) (w : Nat) (xs bytes : List Nat) : Prop :=
  if ∀ x ∈ xs, x = 0 then bytes = [0x80]
  else
    let fits (width : Nat) : Prop := ∀ x ∈ xs, if signed then -(2 ^ width : Int) ≤ 2 * sext w x ∧ 2 * sext w x < 2 ^ width
      else x < 2 ^ width
    ∃ width, 1 ≤ width ∧ width ≤ w ∧ fits width ∧ (∀ n, 1 ≤ n → n < width → ¬fits n)
      ∧ bytes.length = 1 + (xs.length * width + 7) / 8
      ∧ bytes.headD 0 = (if signed then 64 else 0) + (width - 1)
      ∧ ∀ i < (xs.length * width + 7) / 8,
          bytes.getD (i + 1) 0 = (xs.zipIdx.map fun p => p.1 % 2 ^ width * 2 ^ (width * p.2)).sum / 256 ^ i % 256

/-- The elements of block b of a register with n elements a block, below GL. -/
def blockElements (n gl b : Nat) : List Nat := (List.range gl).filter fun e => decide (b * n ≤ e ∧ e < (b + 1) * n)

/-- Blocks that code a register's elements (R275), inactive elements as 0. -/
def Hart.Packs (h : Hart) (d : Vec) (m : MReg) (bs : List (List Nat)) : Prop :=
  let n := 128 / d.w
  bs.length = (h.gl.toNat + n - 1) / n
    ∧ ∀ b < bs.length, IsBlock d.fmt.isSigned d.w
        ((blockElements n h.gl.toNat b).map fun e => if h.maskBit m e then d.elem e else 0) (bs.getD b [])

/-- The data register of XLDE and XSTC (R250, R274): an integer of 8 bits or more, neither sparse nor scaled. -/
def Hart.packed? (h : Hart) (vd : VReg) : Option Vec :=
  (h.operand? vd).filter fun d => d.isInt && decide (8 ≤ d.w) && !d.sparse

/-- Every one of n bytes from an address up is reached by single bytes. -/
def State.reachesBytes (s : State) (a : Acc) (start n : Nat) (key : Nat → Nat) : Prop :=
  ∀ i < n, s.reaches a False ((start + i) % 2 ^ 64) 1 (key i)

/-- The formats that XEFST may write (R277): FP16, BF16, FP32 and the narrow formats. -/
def Hart.feedback? (h : Hart) (code : Nat) : Option FloatFmt :=
  if code = 0x0D ∨ code = 0x0E ∨ code = 0x0F ∨ 0x18 ≤ code then
    match fmtOf h.f code with
    | some (.float f) => some f
    | _ => none
  else none

end Sys2Proof.Machine
end

