-- ==== Sys2Proof/Safety/Device.lean ====
section
/-! DEFINITION. What the rules give the steps of the device's own units: accesses of engines, launch records, collectives. -/

namespace Sys2Proof.Machine

/-! ### Places that a unit reaches -/

/-- A byte lies among n from a key up. -/
def within (key n b : Nat) : Prop := key ≤ b ∧ b < key + n

/-- Two runs of bytes share none. -/
def apart (k n l m : Nat) : Prop := k + n ≤ l ∨ l + m ≤ k

/-- A requester reaches n undamaged bytes at an address, at a memory key, whatever the bytes that `free` names hold. -/
def State.reachedBy (s : State) (free : Nat → Prop) (r : Req) (a : Acc) (va n key : Nat) : Prop :=
  ∀ m : Memory, (∀ b, ¬free b → Memory.read m b = Memory.read s.mem b) →
    ∃ l : Loc, ({ s with mem := m } : State).probe r a false va n = (.ok l, { s with mem := m }) ∧ s.exact l n ∧ l.key = key

/-- The scheduler of a partition reads a value in 8 bytes at an address (R341). -/
def State.schedSees (s : State) (p va x : Nat) : Prop :=
  ∃ key, s.reachedBy (fun _ => False) ⟨0x2000 + p, .s, p, none⟩ .load va 8 key ∧ Memory.readN s.mem key 8 = x

/-- An undamaged sector of main memory whose controller lets a master in. -/
def State.admits (s : State) (mid pa layout : Nat) (p : Perm) : Prop :=
  ∃ u, placeOf pa = .dram u ∧ s.denied (.mem u) mid p = none ∧ s.intact u (pa / 64 * 64) layout

/-- The poison record and the quarantine table of a unit's die are in canonical form and name a sector at most once (R395, R396). -/
def State.recordOnce (s : State) (unit pa : Nat) : Prop :=
  let entry (i : Nat) : Nat := Sparse.get 0 s.memctl.poison (512 * dieOf unit + i)
  let frame (i : Nat) : Nat × BitVec 64 := Sparse.get (0, 0#64) s.memctl.quarantine (64 * dieOf unit + i)
  let holds (i : Nat) : Prop := (frame i).1 = pa / 4096 * 4096 ∧ (frame i).2 ≠ 0
  Sparse.wf 0 s.memctl.poison = true ∧ Sparse.wf (0, 0#64) s.memctl.quarantine = true
    ∧ (∀ i < 512, ∀ j < 512, entry i = pa + 1 → entry j = pa + 1 → i = j) ∧ (∀ i < 64, ∀ j < 64, holds i → holds j → i = j)
    ∧ ((∃ i < 512, entry i = pa + 1) → ∀ i < 64, holds i → (frame i).2.getLsbD (pa % 4096 / 64) = false)

/-- Every hart but what its fetch may see later. -/
def State.quietHarts (s t : State) : Prop := t.harts.map Hart.noView = s.harts.map Hart.noView

/-- A hart's interrupt of level S is pending at the management core of a partition (R376). -/
def State.pendingS (s : State) (p code : Nat) : Prop := ∀ h, s.hart? (0x8000 + p) = some h → h.sset.tstate.getLsbD (16 + code) = true

/-- A virtual address lies in the range of an invalidation by its size code: 4 KiB, 64 KiB, 2 MiB, 64 MiB, 1 GiB, or everything
(R363). -/
def invalidated (sz addr va : Nat) : Prop :=
  match sz with
  | 0 => va / 2 ^ 12 = addr / 2 ^ 12
  | 1 => va / 2 ^ 16 = addr / 2 ^ 16
  | 2 => va / 2 ^ 21 = addr / 2 ^ 21
  | 3 => va / 2 ^ 26 = addr / 2 ^ 26
  | 4 => va / 2 ^ 30 = addr / 2 ^ 30
  | _ => True

/-- The bytes of a sector after a store of the enabled ones, every other byte of memory as it was (R371). -/
def State.sectorStored (s t : State) (base : Nat) (w : BitVec 512) (en : BitVec 64) : Prop :=
  (∀ b < 64, Memory.read t.mem (base + b) = if en.getLsbD b then w.extractLsb' (8 * b) 8 else Memory.read s.mem (base + b))
    ∧ ∀ y, ¬within base 64 y → Memory.read t.mem y = Memory.read s.mem y

/-- No hart of a partition has an element in a window. -/
def State.noWindows (s : State) (p : Nat) : Prop := ∀ h ∈ s.harts, h.part.val = p → h.win = []

/-! ### Mandrel commands -/

/-- What a command of opcode 1 to 5 writes to an element, and its flags (R270). -/
def mandrelResult (c : NmcCommand) (f : Fmt) (x y : Nat) : Nat × Nat :=
  let alpha := fp32.decode c.alpha.toNat
  let beta := fp32.decode c.beta.toNat
  match f with
  | .float g =>
    let X := g.decode x
    let Y := g.decode y
    if c.opc = 1 then
      let p := mulRes alpha X
      let q := mulRes beta Y
      let r := addRes c.rm p.1.val q.1.val
      let k := g.round c.rm 0 r.1
      (k.1, p.2 ||| q.2 ||| r.2 ||| k.2)
    else if c.opc = 2 then
      let p := mulRes beta X
      let q := addRes 0 Y p.1.val
      let t := mulRes alpha q.1.val
      let r := addRes c.rm X t.1.val.neg
      let k := g.round c.rm 0 r.1
      (k.1, p.2 ||| q.2 ||| t.2 ||| r.2 ||| k.2)
    else if c.opc = 3 then ((g.round c.rm 0 alpha.toRes).1, alpha.sigFlag ||| (g.round c.rm 0 alpha.toRes).2)
    else (y, 0)
  | f =>
    if c.opc = 3 then roundToInt f.isSigned f.width c.rm 0 alpha.toRes
    else if c.opc = 5 then ((x + y) % 2 ^ f.width, 0)
    else (y, 0)

/-- Addresses of element e of x and of y. -/
def NmcCommand.xAddr (c : NmcCommand) (f : Fmt) (e : Nat) : Nat := (c.base + e * (f.width / 8)) % 2 ^ 64
def NmcCommand.yAddr (c : NmcCommand) (f : Fmt) (e : Nat) : Nat := (c.yaddr + e * (f.width / 8)) % 2 ^ 64

/-- The status word of a transfer that met no error (R272). -/
def statusOf (code flags : Nat) : Nat := 0xFFFFFFFF * 2 ^ 32 + flags % 32 * 2 ^ 8 + code

/-- The device step of a command. -/
noncomputable def mandrelInstr (opc : Nat) (id : HartId) : Instr :=
  match opc with
  | 1 => .mandrelAxpby id
  | 2 => .mandrelStep id
  | 3 => .mandrelFill id
  | 4 => .mandrelCopy id
  | _ => .mandrelIadd id

/-! ### Collectives -/

/-- The combination of integers (R278): sum modulo the width, least, greatest, and, or, exclusive or. -/
def combined (rop : Nat) (f : Fmt) (xs : List Nat) : Nat :=
  match xs with
  | [] => 0
  | x :: xs =>
    match rop with
    | 0 => (x :: xs).sum % 2 ^ f.width
    | 1 => xs.foldl (fun a b => if f.int b < f.int a then b else a) x
    | 2 => xs.foldl (fun a b => if f.int a < f.int b then b else a) x
    | 3 => xs.foldl (· &&& ·) x
    | 4 => xs.foldl (· ||| ·) x
    | _ => xs.foldl (· ^^^ ·) x

/-- The device step of a collective (R279). -/
noncomputable def collInstr (opc g : Nat) : Instr :=
  match opc with
  | 1 => .allred g
  | 2 => .redscat g
  | 3 => .allgath g
  | _ => .bcast g

/-- What rank q's element e becomes (R279), from the elements `x r e` of every rank r; none where the operation leaves it. -/
def collected (opc rop : Nat) (f : Fmt) (p n root : Nat) (x : Nat → Nat → Nat) (q e : Nat) : Option Nat :=
  match opc with
  | 1 => if e < n then some (combined rop f ((List.range p).map fun r => x r e)) else none
  | 2 => if e < n then some (combined rop f ((List.range p).map fun r => x r (q * n + e))) else none
  | 3 => if e < n * p then some (x (e / n) e) else none
  | _ => if e < n then some (x root e) else none

/-! ### Launch records -/

/-- A record's words pass the field checks of R342 and R349. -/
def legalRecord (r : List Word) : Prop :=
  let w (i : Nat) : Word := r.getD i 0
  let f (hi lo : Nat) : Nat := (w 7).toNat / 2 ^ lo % 2 ^ (hi + 1 - lo)
  1 ≤ f 63 55 ∧ f 63 55 ≤ 384 ∧ f 54 53 ≠ 3 ∧ 1 ≤ f 52 49 ∧ f 52 49 ≤ 8 ∧ f 47 35 ≤ 6144 ∧ f 34 27 ≤ 128 ∧ f 26 24 ≤ 4 ∧ f 23 0 = 0
    ∧ (w 0).toNat < 2 ^ 57 ∧ (w 0).toNat % 4 = 0
    ∧ ∀ i ∈ [3, 4, 5], (w i).toNat < 2 ^ 57 ∧ (w i).toNat % 8 = 0

/-- Some cluster of a partition could hold the gang of a record, and a context slot its save (R349, R386). -/
def Partition.largeEnough (q : Partition) (ctl : Word) : Prop :=
  let f (hi lo : Nat) : Nat := ctl.toNat / 2 ^ lo % 2 ^ (hi + 1 - lo)
  (∃ cl < 4, f 63 55 ≤ (if f 26 24 = 0 then 4 else 4 / f 26 24)
      * ((List.range 96).filter fun c => q.part.getLsbD 63 && q.part.getLsbD ((96 * cl + c) / 48)).length)
    ∧ f 47 35 * 256 + f 34 27 * 4096 ≤ 0x180000
    ∧ 4096 + f 63 55 * 912 * 1024 ≤ q.ctxn.toNat % 2 ^ 16 * 2 ^ 20

/-- A wait of a record is met (R345): no counter, or one at or above its threshold without the killed mark. -/
def State.waitMet (s : State) (p counter threshold : Nat) : Prop :=
  counter = 0 ∨ ∃ x, s.schedSees p counter x ∧ threshold ≤ x ∧ x < 2 ^ 63

/-- The hart that a launch puts in a context (R51, R343). -/
def Hart.Launches (h : Hart) (g : Gang) (record : List Word) (i : Nat) (skew : Bool) : Prop :=
  h.gang = some g.id ∧ h.index = i ∧ h.parent = none ∧ h.child = none ∧ h.wait = .run ∧ h.frozen = false ∧ h.prv = .u ∧ h.part = g.part
    ∧ h.skew = skew ∧ h.pc = record.getD 0 0
    ∧ (∀ r : SReg, h.s[r] = if r = 1 then record.getD 1 0 else if r = 2 then BitVec.ofNat 64 i
        else if r = 3 then BitVec.ofNat 64 g.size else 0)
    ∧ h.a = Vector.replicate 16 0 ∧ h.c = Vector.replicate 8 0 ∧ h.v = Vector.replicate 32 0 ∧ h.tag = Vector.replicate 32 0
    ∧ h.m = Vector.replicate 16 0 ∧ h.t = Vector.replicate 4 Tile.zero ∧ h.f = Vector.replicate 8 0 ∧ h.h = Vector.replicate 4 0
    ∧ h.gl = 0 ∧ h.erix = 0 ∧ h.fcs = 0 ∧ h.pfxs = 0 ∧ h.gseedLo = record.getD 2 0 ∧ h.gseedHi = BitVec.ofNat 64 (i + 1)
    ∧ h.grant = g.grant ∧ h.pending = none ∧ h.tiles = g.tiles ∧ (∀ k : KIdx, (h.k[k]).phase = .invalid)

end Sys2Proof.Machine
end

