-- ==== Sys2Proof/Certificates/Slice0/Obligations.lean ====
section
/-! DEFINITION. The statements about the model: what the rules of the specification give its instructions, its traps, its resets and
its device steps. -/

open Sys2Proof Sys2Proof.Machine

/-- For every well-formed instruction that has an encoding, the word that encodes it has 32 bits and decodes to that instruction, with every operand at every value. (09_encodings_and_assembly.md: The instruction word, 09_encodings_and_assembly.md: Opcode map) -/
def Obligations.EncodeDecode : Prop :=
  ∀ (i : Instr) (w : Nat), i.wf = true → encode i = some w → w < 2 ^ 32 ∧ decodeWord w = .ok i

/-- A word of 32 bits that decodes to an instruction is the encoding of that instruction, so no bit of a word is ignored. (09_encodings_and_assembly.md: The instruction word, 09_encodings_and_assembly.md: Opcode map) -/
def Obligations.DecodeEncode : Prop :=
  ∀ (i : Instr) (w : Nat), w < 2 ^ 32 → decodeWord w = .ok i → encode i = some w

/-- Words that the entries of every major family give as examples decode to the instructions that they stand for; the all-zero word, a word of major 0x3F and a word of a reserved major decode to none. (09_encodings_and_assembly.md: Opcode map, 10_scalar_and_control_instructions.md, 11_vector_instructions.md, 12_memory_residency_and_engine_instructions.md, 13_matrix_sparse_and_burl_instructions.md) -/
def Obligations.KnownWords : Prop :=
  (decodeWord 0x04842801 = .ok (.sub 4 4 5) ∧ decodeWord 0x04C20078 = .ok (.slli 6 2 3)
    ∧ decodeWord 0x08A00001 = .ok (.addi 5 0 1) ∧ decodeWord 0x34E00040 = .ok (.lpc 7 0x40#16))
  ∧ (decodeWord 0x2061A010 = .ok (.lds 3 (.a 1) 2 true 16#13) ∧ decodeWord 0x2545C000 = .ok (.sts 10 (.a 5) 3 0#13)
    ∧ decodeWord 0x29063FFF = .ok (.bne 8 6 0x1FFF#13) ∧ decodeWord 0x30000010 = .ok (.call 16#26))
  ∧ (decodeWord 0x38A00003 = .ok (.crget 5 3#12) ∧ decodeWord 0x3C008105 = .ok (.trapm 5#8)
    ∧ decodeWord 0x4404002D = .ok (.strip 4 0 0 0 5 5)
    ∧ decodeWord 0x48C73000 = .ok (.claim 6 7 3 0 0) ∧ decodeWord 0x4C000001 = .ok .phend ∧ decodeWord 0x54A06180 = .ok (.qpost 5 6 3))
  ∧ (decodeWord 0x6022180F = .ok (.vadds 1 2 3 false false 0) ∧ decodeWord 0x6C853000 = .ok (.vfaddVx 4 5 6 0)
    ∧ decodeWord 0x7464380A = .ok (.vcmpLtVx 3 4 7 0) ∧ decodeWord 0x80C20063 = .ok (.vcvtRtz 6 2 false 3))
  ∧ (decodeWord 0xAD834980 = .ok (.nmc 12 3 9 3 0) ∧ decodeWord 0xC5510001 = .ok (.tmvr 1 10 4 0)
    ∧ decodeWord 0xC94C7000 = .ok (.spadd 10 12 14) ∧ decodeWord 0xCCA44841 = .ok (.pruneU 5 4 9 2))
  ∧ (decodeWord 0 = .error .allZero ∧ decodeWord 0xFC000000 = .error .permanentlyIllegal
    ∧ decodeWord 0x58000000 = .error .reservedMajor ∧ decodeWord 0x0400001B = .error .unassigned)

/-- When a step's turn is a hart's to issue and the word fetched at its PC decodes to an instruction, the step is exec of that instruction in the state after the fetch, with the word kept for the record of a trap, but that a hart whose instruction stalls, PC unchanged, could not issue and leaves every credit as it was before the choice; a word that decodes to none raises the illegal-instruction trap, or the privilege trap at U for a function value of major 0x0F from 0x8000 up, and at S for a number of major 0x0E from 0x200 up. When the agenda is empty and the only work of the device is the issue of a core with one hart that can issue, runs and has no interrupt to take, the turn is that hart's. When the agenda begins with a well-formed device step, which has no encoding, the step is exec of it. (09_encodings_and_assembly.md: The instruction word, 09_encodings_and_assembly.md: Opcode map, 20_privileged_state_and_partitions.md: Privilege levels and control-register numbers, 21_stoxo_queues_and_scheduling.md: Issue within a core, 95_what_each_step_holds.md) -/
def Obligations.StepRunsDecodedInstruction : Prop :=
  (∀ (s s0 s1 s2 : State) (w : BitVec 32) (i : Instr),
    s.turn = .issue s0 s1 → fetchWord s1.cur.pc.toNat s1 = .ok (w, s2) → decodeWord w.toNat = .ok i →
    s0.Turned s1 (exec i { s2 with cur.ir := w }) (step s))
  ∧ (∀ (s s0 s1 s2 : State) (w : BitVec 32) (e : DecodeError),
    s.turn = .issue s0 s1 → fetchWord s1.cur.pc.toNat s1 = .ok (w, s2) → decodeWord w.toNat = .error e →
    s0.Turned s1 (({ s2 with cur.ir := w } : State).takeTrap
      { code := if ((w.extractLsb' 26 6).toNat = 0x0F ∧ w.getLsbD 15 = true ∧ s2.cur.prv = .u)
          ∨ ((w.extractLsb' 26 6).toNat = 0x0E ∧ (w.extractLsb' 12 4).toNat < 5 ∧ 0x200 ≤ (w.extractLsb' 0 12).toNat ∧ s2.cur.prv = .s)
        then 0x02 else 0x01 }) (step s))
  ∧ (∀ s : State, let s' : State := { s with steps := s.steps + 1 }
    s.agenda = [] → s.cur.wait = .run → s'.mayInterrupt s.cur = false → s'.works = [.issue (coreOf s.cur.id)] →
    s'.harts.filter (fun x => coreOf x.id == coreOf s.cur.id && s'.canIssue x) = [s.cur] → s.turn = .issue s' s')
  ∧ ∀ (s : State) (i : Instr) (rest : List Instr), s.agenda = i :: rest → encode i = none → i.wf = true →
    step s = exec i { s with steps := s.steps + 1, agenda := rest }

/-- When a fetch at an aligned address reaches undamaged main memory, and the hart has no older bytes of it to read, the word is the four bytes of memory at that physical address, the lowest first. (09_encodings_and_assembly.md: The instruction word, 00_scope.md: Notation, 24_reliability_and_protection.md: Sector codes) -/
def Obligations.FetchReadsMemory : Prop :=
  ∀ (s : State) (va u pa layout : Nat) (ns : Bool) (s1 : State),
    s.clearBytes va 4 → s.probed s.cur.req .fetch false va 4 = (.ok (.dram u pa layout ns), s1) →
    s1.intact u (pa / 64 * 64) layout → pa % 4 = 0 → s1.cur.view = [] →
    ∃ s2, fetchWord va s = .ok (BitVec.ofNat 32 (Memory.readN s1.mem pa 4), s2) ∧ s2.mem = s1.mem ∧ s2.cur = s1.cur

/-- From every state whose memory lists its bytes in rising order and none that reads the same unlisted, and whose claimed regions hold their tables so, every step to a next state gives such a state again. (06_memory_as_programs_see_it.md: The address space) -/
def Obligations.MemoryStaysCanonical : Prop :=
  ∀ s t : State, s.MemorySound → step s = .next t → t.MemorySound

/-- At reset memory, the sector states, the poison records and the quarantine tables are empty and memory is canonical; no gang, queue or error record exists; eight management cores are held, HCTL.PRV at its reset value 0, the trap registers at their launch values; a hart context holds no hart, with registers 0, m1 to m15 false, every tag FMT NONE; the system blocks' access tables hold their entry 0. The values of the registers for which the specification gives none are the model's (log entry 2). (03_program_state.md: Register files, 26_bringup_security_power.md: Resets and the management address space, 24_reliability_and_protection.md: The poison record and quarantine, 20_privileged_state_and_partitions.md) -/
def Obligations.ResetState : Prop :=
  State.reset.MemorySound ∧ State.reset.mem = [] ∧ State.reset.sectors = [] ∧ State.reset.memctl.poison = []
  ∧ State.reset.memctl.quarantine = [] ∧ State.reset.gangs = [] ∧ State.reset.queues = []
  ∧ (State.reset.others.map fun h => (h.id, h.prv, h.wait)) = (List.range 8).map (fun m => (0x8000 + m, Level.u, Wait.held))
  ∧ State.reset.cur.wait = .vacant ∧ (∀ r, State.reset.cur.rs r = 0) ∧ (∀ r, State.reset.cur.ra r = 0)
  ∧ (∀ r, r ≠ 0 → State.reset.cur.rm r = 0) ∧ State.reset.cur.rm 0 = BitVec.allOnes 16384
  ∧ (∀ r : VReg, tagFmt (State.reset.cur.tag[r]) = 0) ∧ State.reset.cur.gl = 0 ∧ State.reset.cur.fcs = 0 ∧ State.reset.cur.pfxs = 0
  ∧ State.reset.cur.sset.tstate = 0xFF60#64 ∧ State.reset.cur.mset.tstate = 0xFF60#64
  ∧ (∀ p : Fin 8, (State.reset.parts[p]).errors = [] ∧ (State.reset.parts[p]).phctl = 0x10#64 ∧ (State.reset.parts[p]).scout = 16#64)
  ∧ ∀ i < 4, State.reset.tableWord (.system i) 0 = 0x8E00E00000008000#64

/-- A trap of an instruction at U other than TRAPM that finds the frame of the S set writable enters the S handler, and one at S or M, or of TRAPM, that finds the M set not being handled and its frame writable enters the M handler, once the hart's earlier engine transfers are performed that stand before the frame's stores in stream 0; until then the trap waits: the frame holds the scalar state, the set of that level the record, TSTATE's FROM, INH, HOLD and HOLDW as R380 gives, GL, ERIX and PFXS are 0, the level is the handler's and PC is at the handler; every other register is as it was. A frame that lies in main memory holds at TFRAME + 8 × i the register that the map of R382 gives word i, and 0 in words 54 to 63; no byte outside the frame changes. (23_traps_preemption_context.md: Causes, 23_traps_preemption_context.md: Trap entry and return) -/
def Obligations.TrapEntry : Prop :=
  ∀ (s : State) (t : Trap) (s2 : State) (level : Level),
    let h := s.cur.leaveLane
    let set := if level = .m then h.mset else h.sset
    let frame := (set.tframe &&& 0x01FFFFFFFFFFFE00#64).toNat
    (level = .s ∧ s.cur.prv = .u ∧ t.code ≠ 0x0B)
      ∨ (level = .m ∧ (s.cur.prv ≠ .u ∨ t.code = 0x0B) ∧ h.mset.tstate.getLsbD 7 = false) →
    (¬(s.clearStream 0 true ∧ s.clearBytes frame 512) → s.takeTrap t = .next { s with cur.wait := .trap t })
    ∧ (s.clearStream 0 true → s.clearBytes frame 512 →
    State.writeFrame { h.req with level := level } 8 frame h.frameWords (s.trapped h) = (.done, s2) →
    (Memory.wf s.mem = true → ∀ u pa layout, pa % 64 = 0 → (s.trapped h).FrameIn { h.req with level := level } frame h.frameWords u pa layout →
      (∀ i < 64, Memory.readN s2.mem (pa + 8 * i) 8 = h.frameWord i)
      ∧ ∀ key, (key < pa ∨ pa + 512 ≤ key) → Memory.read s2.mem key = Memory.read s.mem key)
    ∧ ∃ k : Hart, s2.cur.AtHandler k level (if t.code = 0x0A ∨ t.code = 0x0B then h.pc + 4 else h.pc) (BitVec.ofNat 64 t.code)
        (if t.code ≤ 4 ∨ t.code = 0x0C then s.cur.ir.setWidth 64 else BitVec.ofNat 64 t.deta) (t.detb s.cur.lane s.cur.pc.toNat)
      ∧ s.takeTrap t = .next { s2 with cur := k })

/-- TDETB of a trap outside a lane block holds CLASS, KIND, KREG, ACC, ENG, STREAM and ELEM at their places and 0 elsewhere; in a lane block it holds LB and the word offset of the lane-thread within the block for the codes 0x01, 0x03, 0x05, 0x06 and 0x08, and 0 there for every other, and the thread's element for 0x05 to 0x08 and 0x0C, and 0 there for every other. (23_traps_preemption_context.md: Trap registers) -/
def Obligations.TrapDetails : Prop :=
  ∀ (t : Trap) (pc : Nat), t.cls < 8 → t.kind < 8 → t.kreg < 16 → t.acc < 4 → t.stream < 8 →
    let w := t.detb none pc
    (w.extractLsb' 29 3).toNat = t.cls ∧ (w.extractLsb' 26 3).toNat = t.kind ∧ (w.extractLsb' 22 4).toNat = t.kreg
    ∧ (w.extractLsb' 20 2).toNat = t.acc ∧ w.getLsbD 19 = t.eng ∧ (w.extractLsb' 14 5).toNat = t.stream
    ∧ (w.extractLsb' 0 14).toNat = t.elem % 2 ^ 14 ∧ w.extractLsb' 32 32 = 0
    ∧ ∀ b : LaneBlock, b.fetchPc.toNat ≤ pc → b.elem < 2 ^ 14 →
        let w := t.detb (some b) pc
        (w.getLsbD 63 = true ↔ t.code ∈ [0x01, 0x03, 0x05, 0x06, 0x08])
        ∧ (w.extractLsb' 55 8).toNat = (if t.code ∈ [0x01, 0x03, 0x05, 0x06, 0x08] then (pc - b.fetchPc.toNat) / 4 % 256 else 0)
        ∧ (w.extractLsb' 0 14).toNat = (if t.code ∈ [0x05, 0x06, 0x07, 0x08, 0x0C] then b.elem else 0)

/-- A trap at M while the M set is being handled, and a failure to write the M frame, freeze the hart with FRZST.TGT = 6, FRZADR the frame's address where one was written, and leave its trap registers unchanged; a failure to write the S frame enters M with code 0x05 or 0x08, TDETA the word that failed and ACC 1, the S set holding the original record and TSTATE of the S set unchanged, unless the M set is being handled: then the hart freezes with both sets unchanged. All this once the hart's earlier engine transfers allow the frame's stores. (23_traps_preemption_context.md: Trap entry and return) -/
def Obligations.FailedFrames : Prop :=
  ∀ (s : State) (t : Trap),
    let h := s.cur.leaveLane
    let s1 : State := s.trapped h
    let sframe := (h.sset.tframe &&& 0x01FFFFFFFFFFFE00#64).toNat
    let mframe := (h.mset.tframe &&& 0x01FFFFFFFFFFFE00#64).toNat
    s.clearStream 0 true →
    (∀ (s2 : State) (adr : Nat), (s.cur.prv ≠ .u ∨ t.code = 0x0B) → s.clearBytes mframe 512 →
      ((h.mset.tstate.getLsbD 7 = true ∧ s2 = s1 ∧ adr = 0)
        ∨ (h.mset.tstate.getLsbD 7 = false ∧ adr = mframe ∧ ∃ va kind cls,
            State.writeFrame { h.req with level := .m } 8 mframe h.frameWords s1 = (.failed va kind cls, s2))) →
      ∃ u : State, s.takeTrap t = .next u ∧ (isMgmt h.id = false →
        u.cur = { s2.cur with frozen := true, frzst := 0xC0000000#64, frzadr := BitVec.ofNat 64 adr })
        ∧ u.cur.frzst = 0xC0000000#64 ∧ u.mem = s2.mem)
    ∧ (∀ s2 s3 va kind cls, s.cur.prv = .u → t.code ≠ 0x0B → cls < 8 → kind < 8 → s.clearBytes sframe 512 →
      State.writeFrame { h.req with level := .s } 8 sframe h.frameWords s1 = (.failed va kind cls, s2) →
      (s2.cur.mset.tstate.getLsbD 7 = true → isMgmt s2.cur.id = false →
        ∃ u : State, s.takeTrap t = .next u ∧ u.cur = { s2.cur with frozen := true, frzst := 0xC0000000#64, frzadr := 0 })
      ∧ (s2.cur.mset.tstate.getLsbD 7 = false →
      let record : TrapSet := { s2.cur.sset with
        tresume := (if t.code = 0x0A then h.pc + 4 else h.pc) &&& 0x01FFFFFFFFFFFFFF#64, tcause := BitVec.ofNat 64 t.code
        tdeta := (if t.code ≤ 4 ∨ t.code = 0x0C then s.cur.ir.setWidth 64 else BitVec.ofNat 64 t.deta)
        tdetb := t.detb s.cur.lane s.cur.pc.toNat }
      State.writeFrame { s2.cur.req with level := .m } 8 (s2.cur.mset.tframe &&& 0x01FFFFFFFFFFFE00#64).toNat s2.cur.frameWords
        { s2 with cur.sset := record } = (.done, s3) → s3.cur.frozen = false →
      let code : Nat := if 3 ≤ cls then 0x08 else 0x05
      ∃ k : Hart, s3.cur.AtHandler k .m h.pc (BitVec.ofNat 64 code) (BitVec.ofNat 64 va)
          (BitVec.ofNat 64 (cls * 2 ^ 29 + kind * 2 ^ 26 + 2 ^ 20)) ∧ s.takeTrap t = .next { s3 with cur := k }))

/-- TRET at S or M, while its set is being handled, loads s1 to s31, a0 to a15, GL, ERIX, FCS, PFXS and GSEED from the frame, sets INH to 0 and HOLD to HOLDW, restores the level FROM and sets PC to TRESUME; every other register is as it was; the hart's earlier engine transfers before its loads have been performed. At a level whose INH is 0 it raises the illegal-instruction trap, and with FCS.RM at 6 or 7 in the frame the reserved-operand trap. (R381) -/
def Obligations.TretReturns : Prop :=
  ∀ s : State, s.cur.prv ≠ .u → s.cur.lane = none → s.cur.lent = false →
    let t := match s.cur.prv with
      | .m => s.cur.mset
      | _ => s.cur.sset
    (t.tstate.getLsbD 7 = false → exec .tret s = s.takeTrap { code := 0x01 })
    ∧ ∀ ws s2, t.tstate.getLsbD 7 = true →
        s.clearStream 0 false → s.clearBytes (t.tframe &&& 0x01FFFFFFFFFFFE00#64).toNat 512 →
        loadWords s.cur.req 53 ((t.tframe &&& 0x01FFFFFFFFFFFE00#64).toNat + 8) s = .ok (ws, s2) →
        let rm := ((BitVec.ofNat 64 (ws.getD 49 0)).extractLsb' 8 3).toNat
        (6 ≤ rm → exec .tret s = s2.takeTrap { code := 0x03 })
        ∧ (rm < 6 →
          let level : Level := match (t.tstate.extractLsb' 3 2).toNat with
            | 0 => .u
            | 1 => .s
            | _ => .m
          ∃ t' : TrapSet, t' = { t with tstate := t'.tstate }
            ∧ (∀ i < 64, t'.tstate.getLsbD i = if i = 7 then false else if i = 6 then t.tstate.getLsbD 5 else t.tstate.getLsbD i)
            ∧ exec .tret s = .next { s2 with
                peerData := s2.peerData.filter fun e => e.1.id != s2.cur.id
                cur := { (match s.cur.prv with
                    | .m => { s2.cur.reloaded ws with mset := t' }
                    | _ => { s2.cur.reloaded ws with sset := t' }) with
                  prv := level, pc := t.tresume } })

/-- Each instruction of majors 0x01 to 0x07 and 0x0D (LPC outside a lane block) completes: s[sd], and the copy register that lent state names, receive the result that the entry gives, writes to s0 are discarded, PC advances by 4 and lent state is used up; every other register and all of memory is as it was. (10_scalar_and_control_instructions.md: SR integer (major 0x01), 10_scalar_and_control_instructions.md: Immediate forms (majors 0x02 to 0x07), 10_scalar_and_control_instructions.md: LPC (major 0x0D), 09_encodings_and_assembly.md: The prefix) -/
def Obligations.ScalarResults : Prop :=
  ∀ (s : State) (i : Instr) (d : SReg) (w : Word), scalarResult s.cur i = some (d, w) → s.cur.scalarCopyOk →
    exec i s = .next (s.after (s.cur.wrote d w).past)

/-- DIV, REM, DIVU and REMU complete for every operand: by zero the quotients are all ones and the remainders are a; -2^63 by -1 gives -2^63 and 0; every other DIV and REM obey a = b * quotient + remainder exactly, the quotient truncated towards zero and the remainder with the sign of a. (R187) -/
def Obligations.DivisionTable : Prop :=
  ∀ (s : State) (d a b : SReg), s.cur.scalarCopyOk →
    ∃ q r uq ur : Word,
      exec (.div d a b) s = .next (s.after (s.cur.wrote d q).past) ∧ exec (.rem d a b) s = .next (s.after (s.cur.wrote d r).past)
      ∧ exec (.divu d a b) s = .next (s.after (s.cur.wrote d uq).past) ∧ exec (.remu d a b) s = .next (s.after (s.cur.wrote d ur).past)
      ∧ (s.cur.rs b = 0 → q = 0xFFFFFFFFFFFFFFFF ∧ r = s.cur.rs a ∧ uq = 0xFFFFFFFFFFFFFFFF ∧ ur = s.cur.rs a)
      ∧ (s.cur.rs a = 0x8000000000000000 ∧ s.cur.rs b = 0xFFFFFFFFFFFFFFFF → q = 0x8000000000000000 ∧ r = 0)
      ∧ (s.cur.rs b ≠ 0 → ¬(s.cur.rs a = 0x8000000000000000 ∧ s.cur.rs b = 0xFFFFFFFFFFFFFFFF) →
          (s.cur.rs a).toInt = (s.cur.rs b).toInt * q.toInt + r.toInt ∧ |r.toInt| < |(s.cur.rs b).toInt|
          ∧ 0 ≤ r.toInt * (s.cur.rs a).toInt)
      ∧ (s.cur.rs b ≠ 0 → (s.cur.rs a).toNat = (s.cur.rs b).toNat * uq.toNat + ur.toNat ∧ ur.toNat < (s.cur.rs b).toNat)

/-- At U, TRAPM, TRET and IDLE raise the privilege trap; at S, naming a control register from 0x200 up raises the privilege trap; at U, naming one from 0x100 up raises the illegal-instruction trap; each before every other check. Under lent state, a scalar instruction of majors 0x01 to 0x09 and 0x0D with a predicate other than plain m0 or a copy that its destination forbids, and every branch, jump, call, control-register, system, gang and queue instruction, raises the illegal-instruction trap. (20_privileged_state_and_partitions.md: Privilege levels and control-register numbers, 10_scalar_and_control_instructions.md: Control-register access (major 0x0E), 09_encodings_and_assembly.md: The prefix) -/
def Obligations.LevelsAndLentState : Prop :=
  ∀ (s : State) (i : Instr),
    (s.cur.prv = .u → (i = .tret ∨ i = .idle ∨ ∃ c, i = .trapm c) → exec i s = s.takeTrap { code := 0x02 })
    ∧ (s.cur.prv = .s → ∀ n, registerNumber i = some n → 0x200 ≤ n.toNat → exec i s = s.takeTrap { code := 0x02 })
    ∧ (s.cur.prv = .u → ∀ n, registerNumber i = some n → 0x100 ≤ n.toNat → exec i s = s.takeTrap { code := 0x01 })
    ∧ (i.wf = true → s.cur.lent = true → s.cur.lane = none →
      ((((scalarResult s.cur i).isSome = true ∨ ∃ d b z u o, i = .lds d b z u o) ∧
          (s.cur.lentMask ≠ 0 ∨ s.cur.lentInv = true ∨ s.cur.copyClass = 2))
        ∨ ((∃ d b z o, i = .sts d b z o) ∧ (s.cur.lentMask ≠ 0 ∨ s.cur.lentInv = true ∨ s.cur.copyClass ≠ 0))
        ∨ (takesNoLentState i = true ∧ needsPrivilege s.cur i = false)) →
      exec i s = s.takeTrap { code := 0x01 })

/-- In a lane block, a well-formed instruction other than the integer, immediate, LDS, STS, compare-branch, JMP and LBEND instructions raises the illegal-instruction trap, and so does a taken branch or JMP to a target outside the block; TRAPM, TRET, IDLE and numbers from 0x200 at S check the level first. (02_harts_gangs_and_work.md: Lane blocks, 10_scalar_and_control_instructions.md: Branches, jumps and calls (majors 0x0A to 0x0C)) -/
def Obligations.LaneBlockLegality : Prop :=
  ∀ (s : State) (b : LaneBlock), s.cur.lane = some b →
    (∀ (i : Instr) (w : Nat), i.wf = true → encode i = some w → inLaneBlock i = false → i ≠ .lbend →
      needsPrivilege s.cur i = false → exec i s = s.takeTrap { code := 0x01 })
    ∧ (∀ (i : Instr) (off : BitVec 13), branchForm s.cur i = some (true, off) → s.cur.lent = false →
      ¬b.admits (s.cur.target off.toInt) → exec i s = s.takeTrap { code := 0x01 })
    ∧ ∀ off : BitVec 26, s.cur.lent = false → ¬b.admits (s.cur.target off.toInt) → exec (.jmp off) s = s.takeTrap { code := 0x01 }

/-- LDS of a well-formed form, when nothing that the hart has posted orders before its access, completes with s[sd] (and the copy) holding the value that the access gives, zero- or sign-extended; the state is otherwise that after the access, PC past the instruction. A class of 3 or more raises the memory-error trap with s[sd] unchanged; a fault raises its trap; an access table that refuses it freezes the hart at LDS. (10_scalar_and_control_instructions.md: Scalar loads and stores (majors 0x08 and 0x09)) -/
def Obligations.LoadScalar : Prop :=
  ∀ (s s1 s2 : State) (sd : SReg) (base : Base) (size : Size) (uns : Bool) (off : BitVec 13) (l : Loc) (cls x : Nat),
    let n := 2 ^ size.val
    let va := s.cur.address base off
    (uns = true → size ≠ 3) → s.cur.scalarCopyOk → s.clearStream 0 false → s.clearBytes va n →
    (∀ t k, s.probed s.cur.req .load false va n = (.error (.refused t k), s1) →
      exec (.lds sd base size uns off) s = .next (s1.freezeCur t k false false 0 0 va))
    ∧ (∀ m t, s.probed s.cur.req .load false va n = (.error m, s1) → missTrap .load va m = some t →
      exec (.lds sd base size uns off) s = (s1.afterMiss m).takeTrap t)
    ∧ (s.probed s.cur.req .load false va n = (.ok l, s1) → s1.loadAt s1.cur.id s1.cur.id l n = (.data cls x, s2) →
      (3 ≤ cls → exec (.lds sd base size uns off) s = s2.takeTrap { code := 0x08, deta := s2.errorAddress l va n, cls := cls })
      ∧ (cls < 3 → exec (.lds sd base size uns off) s = .next (s2.after (s2.cur.wrote sd (extended n uns x)).past)))

/-- STS, when nothing that the hart has posted orders before its access, completes in the state after the store of the low bytes of s[sd] at its address, whether the store was performed or lost at its controller; an access table that refuses it freezes the hart after STS; a fault raises its trap, and so does a scratchpad word that cannot be rebuilt. (10_scalar_and_control_instructions.md: Scalar loads and stores (majors 0x08 and 0x09)) -/
def Obligations.StoreScalar : Prop :=
  ∀ (s s1 s2 : State) (sd : SReg) (base : Base) (size : Size) (off : BitVec 13) (l : Loc) (p : Put),
    let n := 2 ^ size.val
    let va := s.cur.address base off
    s.cur.storeCopyOk → s.steady → s.clearStream 0 true → s.clearBytes va n →
    (∀ m t, s.probed s.cur.req .store false va n = (.error m, s1) → missTrap .store va m = some t →
      exec (.sts sd base size off) s = (s1.afterMiss m).takeTrap t)
    ∧ (∀ t k, s.probed s.cur.req .store false va n = (.error (.refused t k), s1) →
      exec (.sts sd base size off) s = .next (s1.freezeCur t k false true 0 0 va).retire)
    ∧ (s.probed s.cur.req .store false va n = (.ok l, s1) →
      s1.storeAt s1.cur.id l n ((s.cur.rs sd).toNat % 2 ^ (8 * n)) = (p, s2) →
      (p = .severe → exec (.sts sd base size off) s = s2.takeTrap { code := 0x08, deta := s2.errorAddress l va n, cls := 3, acc := 1 })
      ∧ (p ≠ .severe → exec (.sts sd base size off) s = .next (s2.after s2.cur.past)))

/-- A probe and a load leave memory and every register of the issuing hart as they are (but for the pending bit of an error interrupt on a management core, and what its fetch may see later); a store to main memory changes no byte outside its sector, and outside the bytes stored none where the sector is intact; a store to the scratchpad or the host window changes no byte but those stored. A load of the bytes just stored to an intact sector or to host memory gives class 0 and the value stored. (06_memory_as_programs_see_it.md: Vector requests to main memory, 06_memory_as_programs_see_it.md: Damaged data and its classes, 24_reliability_and_protection.md: Sector codes, 00_scope.md: Notation) -/
def Obligations.AccessFrames : Prop :=
  ∀ (s : State) (r : Req) (a : Acc) (un : Bool) (va n : Nat) (id : HartId) (mid : Nat) (l : Loc) (x : Nat), Memory.wf s.mem = true →
    (s.probed r a un va n).2.mem = s.mem ∧ (s.probed r a un va n).2.cur = { s.cur with sset := (s.probed r a un va n).2.cur.sset }
    ∧ (isMgmt s.cur.id = false → (s.probed r a un va n).2.cur.sset = s.cur.sset ∧ (s.loadAt id mid l n).2.cur.sset = s.cur.sset)
    ∧ (s.loadAt id mid l n).2.mem = s.mem
    ∧ (s.loadAt id mid l n).2.cur =
        { s.cur with sset := (s.loadAt id mid l n).2.cur.sset, view := (s.loadAt id mid l n).2.cur.view }
    ∧ ∀ key : Nat,
        (∀ u pa k ns, l = .dram u pa k ns → pa % 64 + n ≤ 64 →
          (key < pa / 64 * 64 ∨ pa / 64 * 64 + 64 ≤ key ∨ (s.intact u (pa / 64 * 64) k ∧ (key < pa ∨ pa + n ≤ key))) →
          Memory.read (s.storeAt mid l n x).2.mem key = Memory.read s.mem key)
        ∧ (∀ c off, l = .spad c off → (key < spadKey c off ∨ spadKey c off + n ≤ key) →
          Memory.read (s.storeAt mid l n x).2.mem key = Memory.read s.mem key)
        ∧ (∀ o ns, l = .host o ns → (key < 2 ^ 50 + o ∨ 2 ^ 50 + o + n ≤ key) →
          Memory.read (s.storeAt mid l n x).2.mem key = Memory.read s.mem key)
        ∧ ((∃ u pa k ns, l = .dram u pa k ns ∧ pa % 64 + n ≤ 64 ∧ s.intact u (pa / 64 * 64) k) ∨ (∃ o ns, l = .host o ns) →
          n ≤ 64 → x < 2 ^ (8 * n) → (s.storeAt mid l n x).1 = .done ∧ ((s.storeAt mid l n x).2.loadAt id mid l n).1 = .data 0 x)

/-- BEQ, BNE, BLT, BGE, BLTU and BGEU complete: when the comparison holds, PC becomes PC + 4 times the signed offset (in a lane block, a target that it admits); otherwise PC advances by 4. JMP sets PC to PC + 4 times the signed offset; CALL also writes PC + 4 to s31; JR sets PC to s[sa], and CALLR reads s[sa], writes PC + 4 to s[sd] and then sets PC, so that the two may name one register; a target of JR or CALLR that is no multiple of 4 raises the alignment fault and leaves s[sd]. Every other register and memory is as it was. That the fault records ACC = 3 is the model's reading (log entry 19). (10_scalar_and_control_instructions.md: Branches, jumps and calls (majors 0x0A to 0x0C), 10_scalar_and_control_instructions.md: System instructions (major 0x0F)) -/
def Obligations.BranchesAndJumps : Prop :=
  ∀ (s : State) (off : BitVec 26) (sd sa : SReg), s.cur.lent = false →
    (∀ (i : Instr) (taken : Bool) (off : BitVec 13), branchForm s.cur i = some (taken, off) →
      (taken = true → s.cur.mayJump (s.cur.target off.toInt)) →
      exec i s = .next (s.after (if taken then s.cur.jumped (s.cur.target off.toInt) else s.cur.past)))
    ∧ (s.cur.mayJump (s.cur.target off.toInt) → exec (.jmp off) s = .next (s.after (s.cur.jumped (s.cur.target off.toInt))))
    ∧ (s.cur.lane = none →
      exec (.call off) s = .next (s.after ((s.cur.wroteOnly 31 (s.cur.pc + 4)).jumped (s.cur.target off.toInt)))
      ∧ ((s.cur.rs sa).toNat % 4 = 0 →
        exec (.jr sa) s = .next (s.after (s.cur.jumped (s.cur.rs sa)))
        ∧ exec (.callr sd sa) s = .next (s.after ((s.cur.wroteOnly sd (s.cur.pc + 4)).jumped (s.cur.rs sa))))
      ∧ ((s.cur.rs sa).toNat % 4 ≠ 0 →
        exec (.jr sa) s = s.takeTrap { code := 0x06, deta := (s.cur.rs sa).toNat, acc := 3 }
        ∧ exec (.callr sd sa) s = s.takeTrap { code := 0x06, deta := (s.cur.rs sa).toNat, acc := 3 }))

/-- TRAP n takes the environment-call trap with TDETA n and the saved address PC + 4, BRK the breakpoint trap with its own PC; at S or M TRAPM n takes the environment-call trap at M. When the handler's frame can be written and nothing that the hart has posted orders before it, the next state is the hart at that handler. (R199, R325, R374) -/
def Obligations.TrapInstructions : Prop :=
  ∀ (s s2 : State) (n : BitVec 8) (i : Instr) (code deta : Nat) (level : Level), s.cur.lane = none → s.cur.lent = false →
    ((i = .trap n ∧ code = 0x0A ∧ deta = n.toNat ∧ level = (if s.cur.prv = .u then .s else .m))
      ∨ (i = .brk ∧ code = 0x09 ∧ deta = 0 ∧ level = (if s.cur.prv = .u then .s else .m))
      ∨ (i = .trapm n ∧ code = 0x0B ∧ deta = n.toNat ∧ level = .m ∧ s.cur.prv ≠ .u)) →
    (level = .m → s.cur.mset.tstate.getLsbD 7 = false) →
    let frame := ((if level = .m then s.cur.mset.tframe else s.cur.sset.tframe) &&& 0x01FFFFFFFFFFFE00#64).toNat
    s.clearStream 0 true → s.clearBytes frame 512 →
    State.writeFrame { s.cur.req with level := level } 8 frame s.cur.frameWords
      (s.trapped s.cur) = (.done, s2) →
    ∃ k : Hart, s2.cur.AtHandler k level (if code = 0x09 then s.cur.pc else s.cur.pc + 4) (BitVec.ofNat 64 code)
        (BitVec.ofNat 64 deta) 0 ∧ exec i s = .next { s2 with cur := k }

/-- CRGET of an assigned number that the level admits, once the hart's matrix entries that the register waits for have left the queue, completes with s[sd] holding the register; the program's registers read as their maps give: GL, ERIX, FCS, GSEED, PFXS, f0 to f7, c0 to c7 and the type tags hold their values, GLANES the lane count, the cap and whether a grant is pending. Every other register and memory is as it was. (03_program_state.md: Control registers, 03_program_state.md: Control-register numbers, 10_scalar_and_control_instructions.md: Control-register access (major 0x0E)) -/
def Obligations.ReadControlRegister : Prop :=
  ∀ (s : State) (sd : SReg) (num : BitVec 12) (r : CReg),
    s.cur.lane = none → s.cur.lent = false → levelAdmits s.cur.prv num.toNat → cregOf num.toNat = some r →
    (r.waits = true → ∀ e ∈ s.mxq, e.hart ≠ s.cur.id) →
    exec (.crget sd num) s = .next (s.after (s.cur.wroteOnly sd (s.creg s.cur r)).past)
    ∧ (∀ r', programRegister num.toNat = some r' → r = r')
    ∧ (r = .gl → s.creg s.cur r = s.cur.gl.setWidth 64) ∧ (r = .erix → s.creg s.cur r = s.cur.erix.setWidth 64)
    ∧ (r = .fcs → s.creg s.cur r = s.cur.fcs.setWidth 64) ∧ (r = .gseedLo → s.creg s.cur r = s.cur.gseedLo)
    ∧ (r = .gseedHi → s.creg s.cur r = s.cur.gseedHi) ∧ (r = .pfxs → s.creg s.cur r = s.cur.pfxs.setWidth 64)
    ∧ (∀ i, r = .f i → s.creg s.cur r = (s.cur.f[i]).setWidth 64) ∧ (∀ i, r = .c i → s.creg s.cur r = (s.cur.c[i]).setWidth 64)
    ∧ (∀ i, r = .tag i → s.creg s.cur r = s.cur.tag[i])
    ∧ (r = .glanes → s.creg s.cur r = BitVec.ofNat 64
        (s.cur.grant.lanes + 256 * s.cur.grant.q + if s.cur.pending.isSome then 65536 else 0))

/-- On a register that is not RO and a value that its rule admits, CRPUT, CRSETB, CRCLRB and CRSWAP complete: s[sd] receives the old value, then the register the new one, as a write of that register does; a register of privilege U takes the fields of its map, GL at most 16,384, and nothing else changes. A write to PFXS stands after the instruction, so that V = 1 makes the next instruction the successor. FCS.RM at 6 or 7 raises the reserved-operand trap, and an RO register or an unassigned number the illegal-instruction trap. (03_program_state.md: Control registers, 10_scalar_and_control_instructions.md: Control-register access (major 0x0E)) -/
def Obligations.WriteControlRegister : Prop :=
  ∀ (s : State) (i : Instr) (d : Option SReg) (num : BitVec 12) (f : Word → Word),
    registerWriteForm s.cur i = some (d, num, f) → s.cur.lane = none → s.cur.lent = false → levelAdmits s.cur.prv num.toNat →
    (cregOf num.toNat = none → exec i s = s.takeTrap { code := 0x01 })
    ∧ ∀ r, cregOf num.toNat = some r → (r.waits = true → ∀ e ∈ s.mxq, e.hart ≠ s.cur.id) →
      let w := f (s.creg s.cur r)
      let s1 : State := { s with cur := s.cur.wroteOptional d (s.creg s.cur r) }
      (r.readOnly = true → exec i s = s.takeTrap { code := 0x01 })
      ∧ (r.readOnly = false → r = .fcs → 6 ≤ (w.extractLsb' 8 3).toNat → exec i s = s.takeTrap { code := 0x03 })
      ∧ (r.readOnly = false → s.cregTrap r w = false → r ≠ .pfxs →
          let s2 := s1.putCreg s1.cur r w
          exec i s = .next (s2.after s2.cur.past))
      ∧ (∀ h, s1.cur.programWrite w r = some h → (r = .fcs → (w.extractLsb' 8 3).toNat < 6) →
          exec i s = .next (s.after (if r = .pfxs then { h with pc := h.pc + 4, undivided := false } else h.past)))

/-- PFX outside a lane block and under no lent state sets PFXS to its predicate, inversion and copy with V = 1 and advances PC; SYNCI makes the hart's fetch read every byte as the hart itself last stored or read it; IDLE completes on a management core that has an interrupt to take, waits on one that has none, and is illegal on a hart context. Every other register and memory is as it was. (09_encodings_and_assembly.md: The prefix, 10_scalar_and_control_instructions.md: System instructions (major 0x0F), 10_scalar_and_control_instructions.md: PFX (major 0x10)) -/
def Obligations.PrefixAndSynci : Prop :=
  ∀ s : State, s.cur.lane = none → s.cur.lent = false →
    (∀ (pm : MReg) (inv : Bool) (cls : BitVec 2) (idx : BitVec 5), (cls = 3 → idx.toNat < 16) → (cls = 0 → idx = 0) →
      ∃ p : BitVec 16, p.getLsbD 15 = true ∧ (p.extractLsb' 11 4).toNat = pm.val ∧ p.getLsbD 10 = inv ∧ p.extractLsb' 8 2 = cls
        ∧ p.extractLsb' 3 5 = idx ∧ p.extractLsb' 0 3 = 0
        ∧ exec (.pfx pm inv cls idx) s = .next (s.after { s.cur with pc := s.cur.pc + 4, pfxs := p, undivided := false }))
    ∧ ((s.cur.view.map ViewByte.key).Nodup → ∃ v : List ViewByte,
        exec .synci s = .next (s.after ({ s.cur with view := v } : Hart).past)
        ∧ ∀ key, ({ s.cur with view := v } : Hart).fetchSees s.mem key =
            match s.cur.view.find? fun e => e.key == key with
            | some e => e.seen.getD e.old
            | none => Memory.read s.mem key)
    ∧ (s.cur.prv ≠ .u →
      (isMgmt s.cur.id = false → exec .idle s = s.takeTrap { code := 0x01 })
      ∧ (isMgmt s.cur.id = true → s.cur.interrupt?.isSome = true →
          exec .idle s = .next (s.after ({ s.cur with wait := .run } : Hart).past))
      ∧ (isMgmt s.cur.id = true → s.cur.interrupt? = none → exec .idle s = .next { s with cur.wait := .idle }))

/-- STRIP of legal width codes and a valid reference register completes: it adopts a pending grant, sets GL to the least of the request, VLMAX and 16,384, rounded down to whole bytes when it falls short of the request in a sub-byte format, and advances each named pointer by the bytes of GL elements; a request of one or more gives a GL of at least one. Everything else but the grants of its gang is as it was. A width code of 7 raises the illegal-instruction trap and an invalid reference register the reserved-operand trap. That 8 / w is rounded down where w does not divide 8 is the model's reading (log entry 29). (R28) -/
def Obligations.StripLength : Prop :=
  ∀ (s : State) (sa : SReg) (vref : VRef) (w3 w2 w1 w0 : BitVec 3), s.cur.plain →
    let r : VReg := vref.castLE (by decide)
    let code (i : Nat) : BitVec 3 := [w0, w1, w2, w3].getD i 0
    ((∃ i, code i = 7) → exec (.strip sa vref w3 w2 w1 w0) s = s.takeTrap { code := 0x01 })
    ∧ ((∀ i, code i ≠ 7) →
      ((¬∃ g f, s.cur.Refers r g f) → exec (.strip sa vref w3 w2 w1 w0) s = s.takeTrap { code := 0x03 })
      ∧ ∀ g f, s.cur.Refers r g f →
        ∃ t : State, exec (.strip sa vref w3 w2 w1 w0) s = .next t ∧ SameGangs t.gangs s.gangs
          ∧ t = { s.after (s.cur.stripped sa g f code) with gangs := t.gangs }
          ∧ (4 ≤ s.cur.adopted.grant.lanes → 1 ≤ s.cur.adopted.grant.q → s.cur.rs sa ≠ 0 → 0 < t.cur.gl.toNat))

/-- CLAIM with a valid reference register, whose descriptor can be read, and updated at a lessor when it is leased, completes: s[sd] receives the next index n, GL the run g = min(request, VLMAX, limit − n, 16,384), or 0 when n has reached the limit, and the descriptor's next index becomes n + g when g is not 0; nothing else of the hart changes. An access table that refuses it freezes the hart, a fault raises its trap, a half of class 3 or more raises the memory-error trap, and an invalid reference register the reserved-operand trap. The exchange with a lessor is the model's choice (log entry 21). (R46) -/
def Obligations.ClaimRange : Prop :=
  ∀ (s s1 s2 : State) (sd sa : SReg) (base : AReg) (vref : VReg) (st : Stream) (l : Loc) (cls x : Nat) (cache : SectorCache), s.cur.plain →
    let va := (s.cur.a[base]).toNat
    ((¬∃ g f, s.cur.Refers vref g f) → exec (.claim sd sa base vref st) s = s.takeTrap { code := 0x03 })
    ∧ ∀ g f, s.cur.Refers vref g f → s.clearStream st.val true → s.clearBytes va 16 →
      (∀ t k, s.probed s.cur.req .rmw false va 16 = (.error (.refused t k), s1) →
        exec (.claim sd sa base vref st) s = .next (s1.freezeCur t k false false st.val 0 va))
      ∧ (∀ k, s.probed s.cur.req .rmw false va 16 = (.error (.fault k), s1) →
        exec (.claim sd sa base vref st) s = (s1.forgetRefused s1.cur.part.val).takeTrap { code := 0x05, deta := va, kind := k, acc := 2, stream := st.val })
      ∧ (s.probed s.cur.req .rmw false va 16 = (.ok l, s1) → s1.readPiece [] ⟨{ elem := 0, va := va, n := 16 }, l⟩ .linked = (.data cls x, cache, s2) →
        (3 ≤ cls → exec (.claim sd sa base vref st) s =
          s2.takeTrap { code := 0x08, deta := s2.errorAddress l va 16, cls := cls, acc := 2, stream := st.val })
        ∧ (cls < 3 →
          let n := x % 2 ^ 64
          let lim := x / 2 ^ 64
          let run := if lim ≤ n then 0
            else Min.min (s.cur.rs sa).toNat (Min.min (lengthMax s.cur.grant g f) (Min.min (lim - n) 16384))
          ∀ s3 : State,
          ((run = 0 ∧ s3 = s2) ∨ (run ≠ 0 ∧ l.leased = false ∧ s3 = (s2.storeAt s2.cur.id l 8 (n + run) st.val).2)
            ∨ (run ≠ 0 ∧ ∃ s' : State, l.leased = true ∧ s3 = s'.breakLine l.line
              ∧ s2.leaseConditional s2.cur.id st.val [⟨{ elem := 0, va := va, n := 8, x := n + run }, l⟩] = (.ok true, s'))) →
          exec (.claim sd sa base vref st) s
            = .next (s3.after { s3.cur.wroteOnly sd (BitVec.ofNat 64 n) with gl := BitVec.ofNat 15 run }.past)))

/-- GBAR and PHEND of a launched hart without a live child, once the transfers of its engines have been performed, complete: the hart is past the instruction and waits, ARR is one higher, and when ARR reaches the size of the gang, GEN advances by 1, ARR returns to the number of ended harts and every waiting hart goes on, unless PHEND runs in the two-sweep mode, in which the sweeps decide. PHEND in normal service waits for the hart's unacknowledged scatter elements. By a hart with a live child or a forked child both raise the illegal-instruction trap. That a child is live until its parent's LJOIN is the model's choice (log entry 28). (02_harts_gangs_and_work.md: Gangs, 02_harts_gangs_and_work.md: Phase end, 10_scalar_and_control_instructions.md: Gang barrier and phase end (major 0x13)) -/
def Obligations.BarrierAndPhaseEnd : Prop :=
  ∀ (s : State) (x : Gang),
    (s.Launched x → s.clearTransfers 0xFF false →
      exec .gbar s = .next (s.arrived { s.cur.past with wait := .barrier } x (match x.phase with
        | some p => p.1
        | none => false))
      ∧ (let mode := match x.phase with
          | some p => p
          | none =>
            let w := (s.parts[s.cur.part]).phctl
            (w.getLsbD 16, if (w.setWidth 8).toNat = 0 then 256 else (w.setWidth 8).toNat)
        exec .phend s = .next (if mode.1 = true ∨ s.cur.unacked = Vector.replicate 16 0
          then s.arrived { s.cur.past with wait := .phase } { x with phase := some mode } mode.1
          else { s with cur.wait := .busy .acknowledged })))
    ∧ (s.Launched x → ¬s.clearTransfers 0xFF false →
      exec .gbar s = .next { s with cur.wait := .busy (.transfers 0xFF false) }
      ∧ exec .phend s = .next { s with cur.wait := .busy (.transfers 0xFF false) })
    ∧ (s.cur.plain → s.cur.child.isSome = true ∨ s.cur.parent.isSome = true →
      exec .gbar s = s.takeTrap { code := 0x01 } ∧ exec .phend s = s.takeTrap { code := 0x01 })

/-- DONE at U of a launched hart without a live child, with no matrix entry of it queued and, after the write-backs of its windows, no transfer of its engines still to be performed, completes: its residency registers are released, the dirty elements of a register, and no other bytes, written to the places of their translations, its claimed region is given back with its handle, its tiles are free, its links are gone, its context holds an ended hart, and it counts as ended and as arrived in its gang; when another hart of the gang has still to arrive nothing else of the gang changes. When it is the last to end, the gang is gone. DONE of a hart with a live child, of a forked child, and at S or M raises the illegal-instruction trap. That a child is live until its parent's LJOIN is the model's choice (log entry 28), and the trap at S and M its reading (log entry 64). (10_scalar_and_control_instructions.md: System instructions (major 0x0F), 10_scalar_and_control_instructions.md: Gang barrier and phase end (major 0x13)) -/
def Obligations.HartEnds : Prop :=
  ∀ (s : State),
    (s.cur.plain → s.cur.prv ≠ .u ∨ s.cur.child.isSome = true ∨ s.cur.parent.isSome = true →
      exec .done s = s.takeTrap { code := 0x01 })
    ∧ ∀ x : Gang, s.Launched x → s.cur.prv = .u → (∀ e ∈ s.mxq, e.hart ≠ s.cur.id) → s.clearTransfers 0xFF true →
      ({ (s.releaseAllK s.cur).1 with cur := (s.releaseAllK s.cur).2 } : State).clearTransfers 0xFF true →
      ∃ t : State, exec .done s = .next t ∧ (∀ l ∈ t.links, l.hart ≠ s.cur.id)
        ∧ (x.arr + 1 < x.size → x.ended + 1 < x.size →
          t.cur = s.cur.endedAs ∧ t.others = (s.releaseAllK s.cur).1.others ∧ t.mem = (s.releaseAllK s.cur).1.mem
          ∧ t.gangs = s.withGang { x with ended := x.ended + 1, arr := x.arr + 1 }
          ∧ t.cur.tiles = 0
          ∧ ((∀ j : HReg, (s.cur.h[j]).getLsbD 63 = false) → t.regions = s.regions)
          ∧ (∀ (j : HReg) (r : Region), (∀ i : HReg, i ≠ j → (s.cur.h[i]).getLsbD 63 = false) →
              s.regionOf s.cur.id s.cur.h[j] = some r → t.regions = s.regionsLeft r)
          ∧ ∀ (k : KIdx) (place : List Nat → Nat), Memory.wf s.mem = true → (s.cur.k[k]).phase = .valid →
              (∀ j : KIdx, j ≠ k → (s.cur.k[j]).phase ≠ .valid) → s.WritesBack k place → s.WroteBack k place t.mem)
        ∧ (x.ended + 1 = x.size → t.cur.gang = none ∧ ∀ g ∈ t.gangs, g.id ≠ x.id)

/-- LFORK with a free context on its core, at least 8 lanes and no live child completes: the child starts at the target with half of the lanes and the state that R43 and R441 give, the parent continues with the other half and 1 in s[sd]; otherwise s[sd] becomes 0 and nothing else changes. LJOIN of a parent whose child has ended completes with the lanes held before LFORK, or its share of a pending grant, its length cap as it was, and waits while the child lives; LJOIN of a child without a live child, once its engines' transfers have been performed, ends it, and wakes a launched parent that waits; a parent that is a child itself has its lanes back at once (the model's choice, log entry 28). (02_harts_gangs_and_work.md: Fork and join, 03_program_state.md: Vector registers and type tags, 10_scalar_and_control_instructions.md: Lanes (major 0x14)) -/
def Obligations.ForkAndJoin : Prop :=
  ∀ (s : State), s.cur.plain →
    (∀ (sd : SReg) (off : BitVec 14),
      (s.cur.child.isSome = true ∨ s.cur.grant.lanes < 8 ∨ s.freeContexts = [] →
        exec (.lfork sd off) s = .next (s.after (s.cur.wroteOnly sd 0).past))
      ∧ (∀ id s1, s.cur.child = none → 8 ≤ s.cur.grant.lanes → s.pick s.freeContexts = (some id, s1) →
        ∃ c : Hart, s.cur.Forked c id sd (s.cur.target off.toInt) ∧ id ∈ s.freeContexts
          ∧ exec (.lfork sd off) s = .next (({ s1 with others := c :: s.others.filter fun h => h.id != id } : State).after
              { s.cur.wroteOnly sd 1 with
                child := some id, forkGrant := s.cur.grant, grant := ⟨s.cur.grant.lanes / 2, s.cur.grant.q⟩ }.past)))
    ∧ (s.cur.parent = none → s.cur.child = none → exec .ljoin s = s.takeTrap { code := 0x01 })
    ∧ (∀ id, s.cur.parent = none → s.cur.child = some id →
      (¬s.childGone id → exec .ljoin s = .next { s with cur := { s.cur with wait := .join } })
      ∧ (s.childGone id →
        ∃ t : State, exec .ljoin s = .next t ∧ SameGangs t.gangs s.gangs
          ∧ t = { s.after { s.cur.rejoined with wait := .run }.past with
              gangs := t.gangs, others := s.others.filter fun h => !(h.id == id && h.parent == some s.cur.id) }))
    ∧ ∀ (p : HartId) (q : Hart), s.cur.parent = some p → p ≠ s.cur.id → (∀ id, s.cur.child = some id → s.childGone id) →
      s.clearTransfers 0xFF false → s.others.find? (fun h => h.id == p) = some q → q.wait ≠ .ended →
      ∃ t : State, exec .ljoin s = .next t ∧ t.mem = s.mem ∧ t.gangs = s.gangs
        ∧ t.cur = (if q.parent.isSome then Hart.vacant s.cur.id else { s.cur.endedAs with gang := none })
        ∧ (∀ l ∈ t.links, l.hart ≠ s.cur.id)
        ∧ t.others = (s.others.filter fun h => !(h.wait == .ended && h.parent == some s.cur.id)).map fun h =>
            if h.id = p ∧ h.parent.isSome then h.rejoined
            else if h.id = p ∧ h.wait = .join then { h with wait := .run } else h

/-- VFETCH with valid operands that are not sparse and an LBEND within 256 words completes: the lane-thread of the first active element from ERIX starts after it, with the element in s30, its number in s31 and copies of the other scalar registers; with no active element the hart is past the LBEND. LBEND writes s30 to its element of vd and starts the next active element's lane-thread, or ends the block with the hart's own scalar registers and ERIX at 0. VFETCH with no LBEND within 256 words, a sparse operand, and LBEND outside a block raise the illegal-instruction trap; the first before an operand that R58 refuses, which raises the reserved-operand trap. That lane-threads run one after another, by ascending element, and that a bad operand stands before a word that cannot be fetched, are the model's choices (log entries 46 and 74). (02_harts_gangs_and_work.md: Lane blocks, 10_scalar_and_control_instructions.md: Lanes (major 0x14)) -/
def Obligations.LaneBlocks : Prop :=
  ∀ (s : State) (vd va : VReg) (m : MReg) (d a : Vec),
    (s.cur.plain → (tagSparse s.cur.tag[vd] = true ∨ tagSparse s.cur.tag[va] = true) →
      exec (.vfetch vd va m) s = s.takeTrap { code := 0x01 })
    ∧ (s.cur.plain → tagSparse s.cur.tag[vd] = false → tagSparse s.cur.tag[va] = false →
      s.cur.operand? vd = some d → s.cur.operand? va = some a →
      (∀ s1 pc, findLbend 256 (s.cur.pc + 4) s = .ok (pc, s1) →
        exec (.vfetch vd va m) s = .next (s1.after (s1.cur.laneGoesOn ⟨s.cur.pc, pc, vd, va, m, 0, s1.cur.s⟩ a s.cur.erix.toNat)))
      ∧ (∀ s1 t, findLbend 256 (s.cur.pc + 4) s = .error (.trap t s1) → exec (.vfetch vd va m) s = s1.takeTrap t))
    ∧ (s.cur.plain → tagSparse s.cur.tag[vd] = false → tagSparse s.cur.tag[va] = false →
      s.cur.operand? vd = none ∨ s.cur.operand? va = none →
      (∀ s1 pc, findLbend 256 (s.cur.pc + 4) s = .ok (pc, s1) → exec (.vfetch vd va m) s = s.takeTrap { code := 0x03 })
      ∧ (∀ s1 t, findLbend 256 (s.cur.pc + 4) s = .error (.trap t s1) →
        exec (.vfetch vd va m) s = if t.code = 0x01 then s1.takeTrap t else s.takeTrap { code := 0x03 }))
    ∧ (s.cur.lane = none → exec .lbend s = s.takeTrap { code := 0x01 })
    ∧ ∀ b : LaneBlock, s.cur.lane = some b → s.cur.lent = false → s.steady →
      s.cur.operand? b.vd = some d → s.cur.operand? b.va = some a →
      ∃ (t : State) (k : Hart), exec .lbend s = .next t
        ∧ s.cur.VecWritten k d (fun e => if e = b.elem then some ((s.cur.rs 30).toNat % 2 ^ d.w) else none)
        ∧ t = { s.after (k.laneGoesOn b a (b.elem + 1)) with upsets := t.upsets }
        ∧ t.upsets = (if s.cur.skew then s.upsets.filter fun u => u.hart != s.cur.id else s.upsets)

/-- QPOST of a register with a valid format, once the transfers of the hart's engines have been performed, reads the queue's header: when its checks fail it raises the reserved-operand trap; when the ring is full it completes with 0 in s[sd]; otherwise, where the slot and the doorbell can be reached, it completes with TAIL advanced by 1, the 64 bytes of the register in the slot that the old TAIL names, the old TAIL at the doorbell and 1 in s[sd]. A header of class 3 or more raises the memory-error trap. The register's checks, the order of the steps, a DBADDR with high bits and the exchange with a lessor are the model's readings and choices (log entries 20, 63, 73 and 21). (10_scalar_and_control_instructions.md: QPOST (major 0x15), 21_stoxo_queues_and_scheduling.md: The queue in memory) -/
def Obligations.QpostRecord : Prop :=
  ∀ (s s1 s2 : State) (sd : SReg) (base : AReg) (va : VReg) (o : Vec) (l : Loc) (cls x : Nat),
    s.cur.plain →
    let addr := (s.cur.a[base]).toNat
    (s.cur.vec? va = none → exec (.qpost sd base va) s = s.takeTrap { code := 0x03 })
    ∧ (s.cur.vec? va = some o → s.clearTransfers 0xFF false → s.clearStream 0 true → s.clearBytes addr 64 →
      s.probed s.cur.req .rmw false addr 64 = (.ok l, s1) →
      (l.leased = false ∧ s1.loadAt s1.cur.id s1.cur.id l 64 = (.data cls x, s2))
        ∨ (∃ pa ns, l = .lease pa ns ∧ s1.leaseSector s1.cur.id .linked pa = (.ok (cls, x), s2)) →
      (3 ≤ cls → exec (.qpost sd base va) s = s2.takeTrap { code := 0x08, deta := s2.errorAddress l addr 64, cls := cls, acc := 2 })
      ∧ (cls < 3 → headerFields x = none → exec (.qpost sd base va) s = s2.takeTrap { code := 0x03 })
      ∧ ∀ ring log tail head bell, cls < 3 → headerFields x = some (ring, log, tail, head, bell) →
        (2 ^ log ≤ tail - head → exec (.qpost sd base va) s = .next (s2.after (s2.cur.wroteOnly sd 0).past))
        ∧ (tail - head < 2 ^ log → ∀ s3 s4 s5 slot page,
          let at' := ring + 64 * (tail % 2 ^ log)
          s2.clearBytes at' 64 → s2.probed s2.cur.req .store false at' 64 = (.ok slot, s3) →
          s3.clearBytes bell 8 → s3.probed s3.cur.req .store false bell 8 = (.ok page, s4) →
          s4.cleared s4.cur .sectors = true →
          (l.leased = false ∧ s5 = (s4.storeAt s4.cur.id (l.plus 16) 8 (tail + 1)).2)
            ∨ (∃ pa ns, l = .lease pa ns ∧ s4.askPeer
                (s4.toLessor s4.cur.id 0 pa 64 (.conditional (BitVec.ofNat 512 ((tail + 1) % 2 ^ 64 * 2 ^ 128)) 0xFF0000))
                  = (.ok (.conditional true), s5)) →
          let s6 := (s5.storeLine s5.cur.id slot ((s.cur.v[va]).toNat % 2 ^ 512)).2
          let s7 := (s6.storeAt s6.cur.id page 8 tail).2
          exec (.qpost sd base va) s = .next (s7.after (s7.cur.wroteOnly sd 1).past)))

/-- Each instruction of majors 0x18 and 0x1A, and VMADD, VMADDS and VNMSUB, on operands of the integer class that R58 and R219 accept, completes: every active element receives the exact result of its table wrapped or clamped, SAT is set for a clamped one, every other element, register, tag and byte of memory is as it was, and the copy that lent state names receives the same elements and the tag. At GL = 0 no register, copy, tag or SLEN is written, as log entry 49 reads R29. (11_vector_instructions.md: Integer arithmetic (majors 0x18 and 0x1A), 11_vector_instructions.md: Fused multiply-add (major 0x1C), 11_vector_instructions.md: Rules common to majors 0x18 to 0x20, 09_encodings_and_assembly.md: The prefix) -/
def Obligations.VectorInteger : Prop :=
  ∀ (s : State) (i : Instr) (x : VecExpect), (intExpect s.cur i = some x ∨ intFusedExpect s.cur i = some x) →
    s.cur.lane = none → s.cur.vecCopyOk x.d → s.steady →
    ∃ k : Hart, s.cur.VecWritten k x.d x.elem ∧ exec i s = .next (s.after (k.flagged x.flags x.draws).past)

/-- Each instruction of majors 0x19 and 0x1B, and VFMA, VFMS, VFNMA and VFNMS, on operands of the floating class that R58 and R219 accept, completes: every active element receives the exact result rounded once to the destination's format under FCS.RM, the flags of the active elements are set, one draw is taken for each active element when FCS.RM is 5, in ascending order, and every other element, register, tag and byte of memory is as it was. At GL = 0 no register, copy, tag or SLEN is written, as log entry 49 reads R29. (11_vector_instructions.md: Floating arithmetic (majors 0x19 and 0x1B), 11_vector_instructions.md: Fused multiply-add (major 0x1C), 04_number_formats.md, 09_encodings_and_assembly.md: The prefix) -/
def Obligations.VectorFloating : Prop :=
  ∀ (s : State) (i : Instr) (x : VecExpect), (floatExpect s.cur i = some x ∨ floatFusedExpect s.cur i = some x) →
    s.cur.lane = none → s.cur.vecCopyOk x.d → s.steady →
    ∃ k : Hart, s.cur.VecWritten k x.d x.elem ∧ exec i s = .next (s.after (k.flagged x.flags x.draws).past)

/-- VCMP in every relation, VNZ, VCONFM, MAND, MOR, MXOR, MANDN and MNOT on operands that R58 and R219 accept complete: the mask holds the results below GL and is clear from GL up, m0 and GL = 0 are not written, NV is set as the entry gives. MPOPC, MFIRST and VEXTR complete with s[sd] and its copy holding the count, the first position or the element, and nothing written when GL is 0; VEXIT and VEXIT.incl complete with GL shortened to the first set position (plus one), found under the lent predicate, or unchanged where there is none. Every other register and memory is as it was. At GL = 0 no register, copy, tag or SLEN is written, as log entry 49 reads R29; that VEXTR takes no element cut off at the group's end, and that the Skew pass compares nothing where every operand is a mask, are choices (log entries 76 and 77). (11_vector_instructions.md: Compares to masks (major 0x1D), 11_vector_instructions.md: Masks, reductions and groups (major 0x1E), 11_vector_instructions.md: Permutes, conflict-detect and funnel shifts (major 0x1F)) -/
def Obligations.VectorMasks : Prop :=
  ∀ (s : State) (i : Instr), s.cur.lane = none →
    (∀ x : MaskExpect, (compareExpect s.cur i = some x ∨ maskExpect s.cur i = some x) → s.cur.noCopy → s.steady →
      ∃ k : Hart, s.cur.MaskWritten k x.md x.bit
        ∧ exec i s = .next (s.after (k.flagged (if s.cur.gl = 0 then 0 else x.flags) 0).past))
    ∧ (∀ d w, vecScalarResult s.cur i = some (d, w) → s.cur.sregCopyOk →
      exec i s = .next (s.after (if s.cur.gl = 0 then s.cur.past else (s.cur.wrote d w).past)))
    ∧ ∀ g, exitGl s.cur i = some g → s.cur.noCopy → exec i s = .next (s.after ({ s.cur with gl := g } : Hart).past)

/-- VREDSUM, VREDSUMS, VREDMIN, VREDMAX, VREDAND, VREDOR and VREDXOR on operands of one class complete: element 0 receives the seed combined with the active elements, integers exactly, floating values through the tree of R84 with the one draw of a stochastic rounding; VGMAX, VGMIN and VGOR combine within blocks of a power of two. Every other element, register and byte of memory is as it was, and GL = 0 writes nothing. At GL = 0 no register, copy, tag or SLEN is written, as log entry 49 reads R29. (11_vector_instructions.md: Masks, reductions and groups (major 0x1E), 04_number_formats.md) -/
def Obligations.VectorReduction : Prop :=
  ∀ (s : State) (i : Instr) (x : VecExpect),
    (intReduceExpect s.cur i = some x ∨ floatReduceExpect s.cur i = some x ∨ groupExpect s.cur i = some x) →
    s.cur.lane = none → s.cur.vecCopyOk x.d → s.steady →
    ∃ k : Hart, s.cur.VecWritten k x.d x.elem ∧ exec i s = .next (s.after (k.flagged x.flags x.draws).past)

/-- VMOV, VMERGE, VBCAST, VIDX, VPERM, the slides, VCOMPRESS, VEXPAND, VCONFC and the funnel shifts on operands of the widths and classes that their entries ask complete: the elements named receive the encodings that the entry gives, no flag is set, and every other element, register and byte of memory is as it was. At GL = 0 no register, copy, tag or SLEN is written, as log entry 49 reads R29. (11_vector_instructions.md: Permutes, conflict-detect and funnel shifts (major 0x1F), 09_encodings_and_assembly.md: The prefix) -/
def Obligations.VectorMoves : Prop :=
  ∀ (s : State) (i : Instr) (x : VecExpect), moveExpect s.cur i = some x →
    s.cur.lane = none → s.cur.vecCopyOk x.d → s.steady →
    ∃ k : Hart, s.cur.VecWritten k x.d x.elem ∧ exec i s = .next (s.after k.past)

/-- VCFG of an acceptable tag completes whatever GL holds: the tag stands on the group, FMT NONE on every other register whose group overlapped it, every other tag and register and memory is as it was. A tag with a nonzero SLEN or reserved field, a reserved FMT, a misaligned vd, a SCALE inside the group, or SPARSE with SBLK raises the reserved-operand trap. (R243) -/
def Obligations.ConfigureVector : Prop :=
  ∀ (s : State) (vd : VReg) (sb : SReg), s.cur.lane = none → s.cur.noCopy →
    let t := s.cur.rs sb
    let ok : Prop := t.extractLsb' 32 32 = 0 ∧ t.extractLsb' 10 14 = 0 ∧ t.extractLsb' 5 3 = 0
      ∧ ((t.extractLsb' 0 5).toNat ≤ 0x11 ∨ 0x18 ≤ (t.extractLsb' 0 5).toNat)
      ∧ vd.val % 2 ^ (t.extractLsb' 8 2).toNat = 0
      ∧ (t.extractLsb' 25 2 ≠ 0 → ¬(vd.val ≤ (t.extractLsb' 27 5).toNat ∧
          (t.extractLsb' 27 5).toNat < vd.val + 2 ^ (t.extractLsb' 8 2).toNat))
      ∧ ¬(t.getLsbD 24 = true ∧ t.extractLsb' 25 2 ≠ 0)
    (ok → exec (.vcfg vd sb) s =
      .next (s.after ({ s.cur with tag := Vector.ofFn fun q => configuredTag s.cur vd t q } : Hart).past))
    ∧ (¬ok → exec (.vcfg vd sb) s = s.takeTrap { code := 0x03 })

/-- VCVT in every mode, on operands that R58, R219 and R244 accept, completes with every active element from ERIX up converted with one rounding or clamped, its flags set, one draw an element in the stochastic form, and ERIX 0. VQNT completes with the scale byte of every block processed and its elements divided and rounded once. Every other element, register and byte of memory is as it was. At GL = 0 no register, copy, tag or SLEN is written, as log entry 49 reads R29, and ERIX is cleared (log entry 33). (11_vector_instructions.md: VCFG and conversions (major 0x20), 04_number_formats.md) -/
def Obligations.VectorConvert : Prop :=
  ∀ (s : State) (i : Instr), s.cur.lane = none → s.unstopped →
    (∀ x : VecExpect, convertExpect s.cur i = some x → s.cur.vecCopyOk x.d →
      ∃ k : Hart, s.cur.VecWritten k x.d x.elem
        ∧ exec i s = .next (s.after ({ k.flagged x.flags x.draws with erix := 0 } : Hart).past))
    ∧ ∀ x : QuantExpect, quantExpect s.cur i = some x → s.cur.vecCopyOk x.vec.d →
      ∃ k k' : Hart, s.cur.VecWritten k x.vec.d x.vec.elem
        ∧ k' = { k with v := k'.v } ∧ k.GroupWritten k' x.scale 1 8 x.byte ∧ (∀ r : VReg, r.val ≠ x.scale → k'.v[r] = k.v[r])
        ∧ exec i s = .next (s.after ({ k'.flagged x.vec.flags x.vec.draws with erix := 0 } : Hart).past)

/-- A vector instruction of majors 0x18 to 0x20 outside a lane block, with no lent state, whose first source or destination has no valid format, is misaligned to its group, or holds fewer elements than GL asks, raises the reserved-operand trap in the state as it was. Under the Skew pass, an integer instruction whose next upset of the hart falls on an element group with an active element and does not settle raises the trap 0x0C at the first active element of that group, with no register and no memory byte changed; a settled one completes as without it. (03_program_state.md: Vector registers and type tags, 11_vector_instructions.md: Rules common to majors 0x18 to 0x20, 24_reliability_and_protection.md: The Skew pass, 23_traps_preemption_context.md: Causes) -/
def Obligations.VectorTraps : Prop :=
  ∀ (s : State) (i : Instr), s.cur.lane = none →
    (∀ r : VReg, s.cur.lent = false → r ∈ vectorOperands i → s.cur.operand? r = none → exec i s = s.takeTrap { code := 0x03 })
    ∧ ∀ (x : VecExpect) (u : Upset) (e : Nat) (op : IntOp) (vd va : VReg) (y : Second) (m : MReg),
      intForm i = some (op, vd, va, y, m) → intExpect s.cur i = some x → s.cur.vecCopyOk x.d →
      s.cur.skew = true → (s.upsets.filter fun u => u.hart == s.cur.id) = [u] →
      (s.cur.actives m).find? (fun e => e * x.d.w / 128 == u.group) = some e →
      (u.settled = false → ∃ s1 : State, s1.mem = s.mem ∧ s1.cur = { s.cur with sset := s1.cur.sset, mset := s1.cur.mset }
        ∧ exec i s = s1.takeTrap { code := 0x0C, elem := e })
      ∧ (u.settled = true → ∃ (s1 : State) (k : Hart), s1.mem = s.mem ∧ s1.cur = { s.cur with sset := s1.cur.sset, mset := s1.cur.mset }
        ∧ s1.cur.VecWritten k x.d x.elem ∧ exec i s = .next (s1.after (k.flagged x.flags x.draws).past))

/-- The sum, product and fused product-sum of finite decoded values that R225 and R226 round are the exact rational numbers: their significand times its power of two is the sum or product of the operands', with nothing lost, and a NaN operand, opposite infinities and a zero times an infinity give a NaN. (04_number_formats.md) -/
def Obligations.ExactArithmetic : Prop :=
  ∀ (mode : Nat) (a b c : Bool) (m n p : Nat) (e k l : Int),
    let q (neg : Bool) (m : Nat) (e : Int) : ℚ := (if neg then -1 else 1) * (m : ℚ) * (2 : ℚ) ^ e
    (∃ x : Exact, (addRes mode (.fin a m e) (.fin b n k)).1 = .ex x ∧ x.sticky = false ∧ q x.neg x.m x.e = q a m e + q b n k)
    ∧ (∃ x : Exact, (mulRes (.fin a m e) (.fin b n k)).1 = .ex x ∧ x.sticky = false ∧ q x.neg x.m x.e = q a m e * q b n k)
    ∧ (∃ x : Exact, (fmaRes mode (.fin a m e) (.fin b n k) (.fin c p l)).1 = .ex x ∧ x.sticky = false
        ∧ q x.neg x.m x.e = q a m e * q b n k + q c p l)
    ∧ addRes mode (.inf a) (.inf (!a)) = (.nan, flNV) ∧ (mulRes (.fin a 0 e) (.inf b)) = (.nan, flNV)
    ∧ ∀ v : Val, (addRes mode (.nan a) v).1 = .nan ∧ (addRes mode v (.nan a)).1 = .nan ∧ (mulRes (.nan a) v).1 = .nan

/-- For a signed format with infinities (FP16, BF16, FP32, FP64), an exact value within the format's finite range rounds, under RTZ, RDN, RUP or RNE, to an encoding of a finite value that lies on the side that the mode gives or is no farther than any other finite value of the format; a value that the format holds is written as itself with no flag. (04_number_formats.md) -/
def Obligations.RoundingIsNearest : Prop :=
  ∀ (f : FloatFmt) (mode : Nat) (neg : Bool) (m : Nat) (e : Int), f ∈ [fp16, bf16, fp32, fp64] → mode < 4 →
    let q (v : Val) : Option ℚ := match v with
      | .fin neg m e => some ((if neg then -1 else 1) * (m : ℚ) * (2 : ℚ) ^ e)
      | _ => none
    let x : ℚ := (if neg then -1 else 1) * (m : ℚ) * (2 : ℚ) ^ e
    |x| ≤ (f.largest.1 : ℚ) * (2 : ℚ) ^ f.largest.2 →
    let c := f.roundExact mode 0 ⟨neg, m, e, false⟩
    ∃ y, q (f.decode c.1) = some y
      ∧ (mode = 0 → ∀ d z, q (f.decode d) = some z → |x - y| ≤ |x - z|)
      ∧ (mode = 1 → |y| ≤ |x| ∧ 0 ≤ x * y ∧ ∀ d z, q (f.decode d) = some z → |z| ≤ |x| → |z| ≤ |y|)
      ∧ (mode = 2 → y ≤ x ∧ ∀ d z, q (f.decode d) = some z → z ≤ x → z ≤ y)
      ∧ (mode = 3 → x ≤ y ∧ ∀ d z, q (f.decode d) = some z → x ≤ z → y ≤ z)
      ∧ ((∃ d, q (f.decode d) = some x) → y = x ∧ c.2 = 0)

/-- VLD, VLD.str, VGATH and VGATH.b complete when every active element from ERIX can be reached: each of those elements of vd (and of the copy) receives its encoding from memory, little-endian, and everything else keeps its value; ERIX becomes 0. The first-fault forms VLDF complete when their first element can be reached: GL becomes the lowest later active element that would fault or lies on a no-speculation page, the elements below it are loaded, and SLEN of a sparse group becomes GL unless GL is 0. Memory and every other hart are as they were. At GL = 0 no register, copy, tag or SLEN is written, as log entry 49 reads R29, and ERIX is cleared (log entry 33). (12_memory_residency_and_engine_instructions.md: Loads and stores (majors 0x22 to 0x24), 12_memory_residency_and_engine_instructions.md: Gathers and scatters (majors 0x25 and 0x26), 06_memory_as_programs_see_it.md: Damaged data and its classes) -/
def Obligations.VectorLoads : Prop :=
  ∀ (s : State) (i : Instr) (x : AccessForm) (d : Vec) (key : Nat → Nat) (gl : BitVec 15),
    loadForm s.cur i = some x → s.cur.lane = none → s.cur.dataReg x d → s.cur.vecCopyOk d → s.unstopped → s.clearStream x.stream false →
    (∀ e, x.takes s.cur e → e < gl.toNat →
      s.reachesElem .load (x.first = true ∧ ∃ j < e, x.takes s.cur j) x d.w key e) →
    (gl = s.cur.gl ∨ (x.first = true ∧ x.takes s.cur gl.toNat ∧ (∃ j < gl.toNat, x.takes s.cur j) ∧ s.stopsAhead x d.w gl.toNat)) →
    ∃ (t : State) (k : Hart), exec i s = .next t
      ∧ s.cur.VecWritten k d (fun e =>
          if s.cur.isActive x.m e ∧ s.cur.erix.toNat ≤ e ∧ e < gl.toNat then some (s.loaded x d.w key e) else none)
      ∧ s.HasRead t { k.past with
          erix := 0, gl := gl
          tag := if x.first = true ∧ d.sparse = true ∧ s.cur.gl ≠ 0 then
              Vector.ofFn fun r => if (d.reg ≤ r.val ∧ r.val < d.reg + d.group)
                  ∨ (s.cur.lent = true ∧ s.cur.copyClass = 2 ∧ s.cur.copyIndex ≤ r.val ∧ r.val < s.cur.copyIndex + d.group)
                then (d.tag.setWidth 48).setWidth 64 ||| (gl.setWidth 64 <<< 48) else k.tag[r]
            else k.tag }

/-- VST, VST.str, VSTU and the scatters complete when every active element from ERIX can be reached: each bit of memory that belongs to one of those elements holds its bit of the element, of the highest-numbered element where several meet and of one of them in an unordered scatter; every other byte of memory is as it was. ERIX becomes 0, no other register changes but the counts of a scatter, whose elements are counted as unacknowledged by lane and as sent and received by the gang. (12_memory_residency_and_engine_instructions.md: Loads and stores (majors 0x22 to 0x24), 12_memory_residency_and_engine_instructions.md: Gathers and scatters (majors 0x25 and 0x26), 02_harts_gangs_and_work.md: Phase end) -/
def Obligations.VectorStores : Prop :=
  ∀ (s : State) (i : Instr) (x : AccessForm) (d : Vec) (key : Nat → Nat),
    Memory.wf s.mem = true → storeForm s.cur i = some x → s.cur.lane = none → s.cur.dataReg x d → s.cur.noCopy → s.unstopped →
    s.clearStream x.stream true → (∀ e, x.takes s.cur e → s.reachesElem .store False x d.w key e) →
    ∃ t : State, exec i s = .next t
      ∧ s.HasStored t { s.cur.past with erix := 0, unacked := t.cur.unacked }
      ∧ (∀ b n, n < 8 →
        ((∀ e o, x.takes s.cur e → ¬x.covers d.w key e b n o) → (Memory.read t.mem b).getLsbD n = (Memory.read s.mem b).getLsbD n)
        ∧ (∀ e o, x.takes s.cur e → x.covers d.w key e b n o → x.ordered = true →
          (∀ e' o', x.takes s.cur e' → x.covers d.w key e' b n o' → e' < e ∨ (e' = e ∧ o' ≤ o)) →
          (Memory.read t.mem b).getLsbD n = (d.elem e).testBit o))
      ∧ (∀ e, x.takes s.cur e → x.ordered = false → ∃ e', x.takes s.cur e' ∧ key (x.addr d.w e') = key (x.addr d.w e)
          ∧ Memory.readN t.mem (key (x.addr d.w e)) (d.w / 8) = d.elem e')
      ∧ (isScatter i = false → t.cur.unacked = s.cur.unacked ∧ t.gangs = s.gangs)
      ∧ (isScatter i = true → s.Counted t d.w (s.cur.taken x.m))

/-- VLDK and VGATHK, when each active element from ERIX names a coordinate of the declared set whose copy has arrived, is fresh and of a class below 3, load the copies; VLDKF trims GL to the lowest later active element that is out of range. VSTK, VSCATK.o and VSCATK write the copies, which become dirty and free of error: the highest-numbered element's value where several name one copy, one of them in the unordered form. Memory and every other register are as they were. An out-of-range element raises the residency fault, when every active element below it has a fresh copy that has arrived. At GL = 0 no register, copy, tag or SLEN is written, as log entry 49 reads R29, and ERIX is cleared (log entry 33). (05_residency.md: The life of a window, 12_memory_residency_and_engine_instructions.md: Loads and stores (majors 0x22 to 0x24), 12_memory_residency_and_engine_instructions.md: Gathers and scatters (majors 0x25 and 0x26)) -/
def Obligations.WindowAccesses : Prop :=
  ∀ (s : State) (i : Instr) (x : WindowForm) (d : Vec) (at' : Nat → List Nat) (copy : Nat → WinElem),
    s.cur.lane = none → s.cur.windowData x d →
    (windowLoadForm s.cur i = some x → s.cur.vecCopyOk d → s.unstopped → ∀ gl : BitVec 15,
      (∀ e, x.takes s.cur e → e < gl.toNat → s.cur.inWindow x at' copy e ∧ (copy e).cls < 3) →
      (gl = s.cur.gl ∨ (x.first = true ∧ x.takes s.cur gl.toNat ∧ (∃ j < gl.toNat, x.takes s.cur j)
        ∧ (s.cur.k[x.k]).locate s.cur.c (x.index gl.toNat) = none)) →
      ∃ k : Hart, s.cur.VecWritten k d (fun e =>
          if s.cur.isActive x.m e ∧ s.cur.erix.toNat ≤ e ∧ e < gl.toNat then some ((copy e).data.toNat % 2 ^ d.w) else none)
        ∧ ∃ t : State, exec i s = .next t ∧ t = s.after { k.past with
            view := t.cur.view, erix := 0, gl := gl
            tag := if x.first = true ∧ d.sparse = true ∧ s.cur.gl ≠ 0 then
                Vector.ofFn fun r => if (d.reg ≤ r.val ∧ r.val < d.reg + d.group)
                    ∨ (s.cur.lent = true ∧ s.cur.copyClass = 2 ∧ s.cur.copyIndex ≤ r.val ∧ r.val < s.cur.copyIndex + d.group)
                  then (d.tag.setWidth 48).setWidth 64 ||| (gl.setWidth 64 <<< 48) else k.tag[r]
              else k.tag })
    ∧ (windowStoreForm s.cur i = some x → s.cur.noCopy → s.unstopped → (∀ e, x.takes s.cur e → s.cur.inWindow x at' copy e) →
      ∃ t : State, exec i s = .next t ∧ t = { s.after { s.cur.past with erix := 0, win := t.cur.win } with free := t.free }
        ∧ t.cur.win.map (fun c => { c with data := 0, dirty := false, cls := 0, stale := false, arrival := .arrived })
          = s.cur.win.map (fun c => { c with data := 0, dirty := false, cls := 0, stale := false, arrival := .arrived })
        ∧ (∀ c ∈ s.cur.win, s.cur.copyOf s.cur.k[x.k] c = false → c ∈ t.cur.win)
        ∧ (∀ y, (∀ e, x.takes s.cur e → at' e ≠ y) → t.cur.copy? s.cur.k[x.k] y = s.cur.copy? s.cur.k[x.k] y)
        ∧ ∀ e, x.takes s.cur e → ∃ e', x.takes s.cur e' ∧ at' e' = at' e
          ∧ (x.ordered = true → ∀ j, x.takes s.cur j → at' j = at' e → j ≤ e')
          ∧ t.cur.copy? s.cur.k[x.k] (at' e) = some { copy e with data := BitVec.ofNat 64 (d.elem e'), dirty := true, cls := 0 })
    ∧ ∀ e, (windowLoadForm s.cur i = some x ∧ s.cur.vecCopyOk d ∧ (x.first = false ∨ ∀ j < e, ¬x.takes s.cur j))
        ∨ (windowStoreForm s.cur i = some x ∧ s.cur.noCopy) →
      x.takes s.cur e → (s.cur.k[x.k]).locate s.cur.c (x.index e) = none →
      (∀ j < e, x.takes s.cur j → s.cur.inWindow x at' copy j) →
      ∃ stream < 8, exec i s = s.takeTrap
        { code := 0x07, deta := x.index e, elem := e, stream := stream, kreg := x.k.val,
          acc := if (windowLoadForm s.cur i).isSome then 0 else 1 }

/-- VAADD, VAMIN, VAMAX, VAAND, VAOR and VAXCHG complete when every active element from ERIX can be reached: the elements take effect in ascending order, so each reads what the highest earlier element of the same address left, or else memory; vd receives the values read, each address the value that its last element leaves, and FCS the flags; under stochastic rounding each active element of a floating format takes one draw. The elements are counted as a scatter's. Every other byte of memory and every other register is as it was. (12_memory_residency_and_engine_instructions.md: Gather-linked, scatter-conditional and atomics (major 0x27), 07_consistency_rules.md: Atomicity) -/
def Obligations.VectorAtomics : Prop :=
  ∀ (s : State) (vd : VReg) (base : AReg) (vi : VReg) (ca : Bool) (st : Stream) (m : MReg) (d v : Vec) (key : Nat → Nat),
    let x : LinkedForm := ⟨vd, base, vi, st.val, m⟩
    let y := x.access s.cur v
    let es := s.cur.taken m
    let at' (e : Nat) : Nat := key (y.addr d.w e)
    Memory.wf s.mem = true → s.cur.lane = none → s.cur.linked x d v → s.cur.vecCopyOk d → s.steady → s.clearStream st.val true →
    (∀ e ∈ es, s.reachesElem .rmw False y d.w key e) →
    ∀ i ∈ atomics vd base vi ca st m, atomicAdmits d.fmt i = true →
      let run := s.atoms d i at' es
      ∃ (t : State) (k : Hart), exec i s = .next t
        ∧ s.cur.VecWritten k d (fun e => (run.find? fun a => a.elem == e).map Atom.old)
        ∧ s.HasStored t { (k.flagged (allFlags (List.range run.length) fun n => (run[n]?.map Atom.flags).getD 0)
            (if s.cur.atomicDraws d.fmt i then es.length else 0)).past with erix := 0, unacked := t.cur.unacked }
        ∧ (∀ e ∈ es, ∃ a, run.find? (fun a => at' a.elem == at' e) = some a ∧ Memory.readN t.mem (at' e) (d.w / 8) = a.new % 2 ^ d.w)
        ∧ (∀ b, (∀ e ∈ es, b < at' e ∨ at' e + d.w / 8 ≤ b) → Memory.read t.mem b = Memory.read s.mem b)
        ∧ s.Counted t d.w es

/-- VGLL completes when every active element from ERIX can be reached: it breaks the hart's links, begins a new generation, loads the elements, and links the line of each unless another hart's recent link keeps it. VSCC, when its elements can be reached, completes: it writes the elements whose lines still hold a link of the hart's latest generation, and m[m] receives exactly those as true, the bits below ERIX staying as they are; bytes of the other elements are as they were, and its elements are counted as a scatter's. VSCC with m0 raises the illegal-instruction trap. The exchange with a lessor is the model's choice (log entry 21). (12_memory_residency_and_engine_instructions.md: Gather-linked, scatter-conditional and atomics (major 0x27), 07_consistency_rules.md: Atomicity) -/
def Obligations.LinkedAccesses : Prop :=
  ∀ (s : State) (vd : VReg) (base : AReg) (vi : VReg) (ca : Bool) (st : Stream) (m : MReg) (d v : Vec) (key : Nat → Nat),
    let x : LinkedForm := ⟨vd, base, vi, st.val, m⟩
    let y := x.access s.cur v
    let es := s.cur.taken m
    let at' (e : Nat) : Nat := key (y.addr d.w e)
    Memory.wf s.mem = true → s.cur.lane = none → s.cur.linked x d v → s.unstopped →
    (∀ e ∈ es, s.reachesElem .rmw False y d.w key e) →
    (s.cur.vecCopyOk d → s.clearStream st.val false →
      ∃ (t : State) (k : Hart), exec (.vgll vd base vi ca st m) s = .next t
        ∧ s.cur.VecWritten k d (fun e => if e ∈ es then some (Memory.readN s.mem (at' e) (d.w / 8)) else none)
        ∧ ({ s with links := t.links } : State).HasRead t { k.past with erix := 0, linkGen := s.cur.linkGen + 1 }
        ∧ (∀ l ∈ t.links, l.hart ≠ s.cur.id → l ∈ s.links)
        ∧ (∀ l ∈ t.links, l.hart = s.cur.id → l.gen = s.cur.linkGen + 1 ∧ ∃ e ∈ es, l.line = at' e / 64)
        ∧ ∀ e ∈ es, ((∃ l ∈ t.links, l.line = at' e / 64 ∧ l.hart = s.cur.id)
            ∨ ∃ l ∈ s.links, l.line = at' e / 64 ∧ l.hart ≠ s.cur.id ∧ s.recent l.stamp = true))
    ∧ (s.cur.noCopy → m = 0 → exec (.vscc vd base vi ca st m) s = s.takeTrap { code := 0x01 })
    ∧ (s.cur.noCopy → m ≠ 0 → s.clearStream st.val true →
      let holds (e : Nat) : Bool := s.links.any fun l => l.line == at' e / 64 && l.hart == s.cur.id && l.gen == s.cur.linkGen
      ∃ (t : State) (k : Hart), exec (.vscc vd base vi ca st m) s = .next t
        ∧ k = { s.cur with m := k.m }
        ∧ (∀ (r : MReg), ∀ e < 16384, (k.m[r]).getLsbD e =
            if r = m ∧ ¬(e < s.cur.erix.toNat ∧ e < s.cur.gl.toNat) then decide (e ∈ es) && holds e else (s.cur.m[r]).getLsbD e)
        ∧ s.HasStored t { k.past with erix := 0, unacked := t.cur.unacked } ∧ s.Counted t d.w es
        ∧ (∀ e ∈ es, holds e = true → (∀ j ∈ es, at' j = at' e → j ≤ e) → Memory.readN t.mem (at' e) (d.w / 8) = d.elem e)
        ∧ (∀ b, (∀ e ∈ es, holds e = true → b < at' e ∨ at' e + d.w / 8 ≤ b) → Memory.read t.mem b = Memory.read s.mem b))

/-- FENCE of a legal scope completes once the transfers of the hart's engines in its streams, and for a scope that holds other devices its stores to lessors, have been performed, and waits until then; SBAR once all have been performed (at once with an empty mask); both change nothing but the hart's PC. LDACQ completes as a load of 1, 2, 4 or 8 bytes, zero-extended, in its stream, and STREL, once every transfer has been performed, as a store of the low bytes of s[sa]. A scope of 6 or 7 raises the illegal-instruction trap. That an SBAR waits for the engines of every stream is the model's reading (log entry 62). (12_memory_residency_and_engine_instructions.md: Ordering instructions (major 0x28), 07_consistency_rules.md: Release, acquire and barriers) -/
def Obligations.OrderingInstructions : Prop :=
  ∀ (s s1 s2 : State) (r : SReg) (scope : BitVec 3) (mask : BitVec 8) (size : Size) (base : AReg) (st : Stream) (l : Loc) (cls x : Nat)
    (p : Put), s.cur.lane = none →
    let n := 2 ^ size.val
    let va := (s.cur.a[base]).toNat
    let far := decide (scope = 5 ∨ (scope = 4 ∧ s.link.domctl.getLsbD 63 = true))
    (6 ≤ scope.toNat →
      exec (.fence scope mask) s = s.takeTrap { code := 0x01 } ∧ exec (.ldacq r scope size base st) s = s.takeTrap { code := 0x01 }
      ∧ exec (.strel r scope size base st) s = s.takeTrap { code := 0x01 })
    ∧ (s.cur.noCopy →
      (mask = 0 ∨ s.clearTransfers 0xFF true → exec (.sbar mask) s = .next (s.after s.cur.past))
      ∧ (mask ≠ 0 → ¬s.clearTransfers 0xFF true → exec (.sbar mask) s = .next { s with cur.wait := .busy (.transfers 0xFF true) }))
    ∧ (scope.toNat < 6 →
      (s.cur.noCopy →
        (s.clearTransfers mask far → exec (.fence scope mask) s = .next (s.after s.cur.past))
        ∧ (¬s.clearTransfers mask far → exec (.fence scope mask) s = .next { s with cur.wait := .busy (.transfers mask far) }))
      ∧ (s.cur.sregCopyOk → s.clearStream st.val false → s.clearBytes va n →
        s.probed s.cur.req .load false va n = (.ok l, s1) → s1.loadAt s1.cur.id s1.cur.id l n = (.data cls x, s2) →
        (3 ≤ cls → exec (.ldacq r scope size base st) s
          = s2.takeTrap { code := 0x08, deta := s2.errorAddress l va n, cls := cls, stream := st.val })
        ∧ (cls < 3 → exec (.ldacq r scope size base st) s = .next (s2.after (s2.cur.wrote r (BitVec.ofNat 64 x)).past)))
      ∧ (s.cur.noCopy → s.clearTransfers 0xFF far → s.clearStream st.val true → s.clearBytes va n →
        s.probed s.cur.req .store false va n = (.ok l, s1) →
        s1.storeAt s1.cur.id l n (s.cur.rs r).toNat st.val = (p, s2) →
        (p = .severe → exec (.strel r scope size base st) s
          = s2.takeTrap { code := 0x08, deta := s2.errorAddress l va n, cls := 3, acc := 1, stream := st.val })
        ∧ (p ≠ .severe → exec (.strel r scope size base st) s = .next (s2.after s2.cur.past))))

/-- KSET with words that pass its checks completes and leaves the register configuring, after a valid one has been released, for which it waits until the register is settled; words that fail raise the reserved-operand trap. KDIM of a configuring register gives one dimension; the last one fetches the declared set, so that each of its elements that no register held has a clean copy of the bytes of memory, and makes the register valid. KREL writes the bytes of its dirty elements, and no others, to the places of their translations, releases the register and leaves it invalid. KWAIT completes when every advance has completed and stalls until then. KQRY reads a word of the register. A child's raise the reserved-operand trap. (05_residency.md: The residency register, 05_residency.md: The life of a window, 12_memory_residency_and_engine_instructions.md: Residency instructions (majors 0x29 and 0x2A)) -/
def Obligations.ResidencyRegisters : Prop :=
  ∀ (s : State) (k : KIdx) (sa : SReg), s.cur.lane = none →
    (s.mayResidency →
      (sa.val ≤ 30 → ∀ base cfg : Word, base = s.cur.rs sa → cfg = s.cur.rs (sa + 1) →
        (¬s.ksetOk k base cfg → exec (.kset k sa) s = s.takeTrap { code := 0x03 })
        ∧ (s.ksetOk k base cfg → (s.cur.k[k]).phase = .valid → (s.cur.k[k]).inflight ≠ 0 →
          exec (.kset k sa) s = .next { s with cur.wait := .busy (.settled k) })
        ∧ (s.ksetOk k base cfg → s.mayRelease k →
          let p := if (s.cur.k[k]).phase = .valid then s.releaseK s.cur k else (s, s.cur)
          exec (.kset k sa) s = .next (p.1.after
            { p.2 with k := p.2.k.set k { KReg.launch with base := base, cfg := cfg, phase := .configuring } }.past)))
      ∧ (∀ dim : BitVec 2, (s.cur.k[k]).phase = .configuring → sa.val ≤ 30 → dim.toNat ≤ (s.cur.k[k]).ndim →
        ∀ a b : Word, a = s.cur.rs sa → b = s.cur.rs (sa + 1) → b.extractLsb' 48 16 ≠ 0 → b.extractLsb' 24 2 = 0 →
        let r := (s.cur.k[k]).withDim dim.toFin a b
        3 * r.extents r.got * r.esz ≤ r.window.2 → s.clearStream r.strm false →
        ((∃ d ∈ r.dims, r.got.getLsbD d.val = false) →
          exec (.kdim k sa dim) s = .next (s.after { s.cur with k := s.cur.k.set k r }.past))
        ∧ ∀ key : List Nat → Nat, (∀ d ∈ r.dims, r.got.getLsbD d.val = true) →
          let h : Hart := { s.cur with k := s.cur.k.set k { r with phase := .valid } }
          let xs := (r.box s.cur.c).coords
          (∀ x ∈ xs, s.reaches .load False (r.address x) r.esz (key x)) →
          ∃ t : State, exec (.kdim k sa dim) s = .next t
            ∧ s.HasRead t { h.past with win := t.cur.win, k := h.k.set k { t.cur.k[k] with phase := .valid, flights := if xs = [] then [] else [xs] } }
            ∧ ∀ x ∈ xs, h.copy? h.k[k] x = none → ∃ c, t.cur.copy? t.cur.k[k] x = some c ∧ c.holders.getLsbD k.val = true
                ∧ c.data = BitVec.ofNat 64 (Memory.readN s.mem (key x) r.esz) ∧ c.dirty = false ∧ c.cls = 0 ∧ c.stale = false
                ∧ c.arrival = .arrived)
      ∧ (s.mayRelease k → ∃ t : State, exec (.krel k) s = .next t ∧ t = (s.releaseK s.cur k).1.after (s.releaseK s.cur k).2.past
          ∧ ((s.releaseK s.cur k).2.k[k]).phase = .invalid
          ∧ ∀ place : List Nat → Nat, Memory.wf s.mem = true → (s.cur.k[k]).phase = .valid → s.WritesBack k place → s.WroteBack k place t.mem)
      ∧ ((s.cur.k[k]).phase = .invalid → exec (.krel k) s = .next (s.after s.cur.past)))
    ∧ (s.mayResidency →
      ((s.cur.k[k]).inflight = 0 → exec (.kwait k) s = .next (s.after s.cur.past))
      ∧ ((s.cur.k[k]).inflight ≠ 0 → exec (.kwait k) s = .next { s with cur.wait := .busy (.settled k) }))
    ∧ (∀ word : BitVec 4,
      (word.toNat < 11 → s.cur.parent = none → s.cur.sregCopyOk →
        exec (.kqry k sa word) s = .next (s.after (s.cur.wrote sa ((s.cur.k[k]).word word.toNat)).past))
      ∧ (11 ≤ word.toNat → exec (.kqry k sa word) s = s.takeTrap { code := 0x01 })
      ∧ (word.toNat < 11 → s.cur.parent ≠ none → s.cur.sregCopyOk → exec (.kqry k sa word) s = s.takeTrap { code := 0x03 }))
    ∧ (s.cur.parent ≠ none → s.cur.noCopy →
      exec (.kset k sa) s = s.takeTrap { code := 0x03 } ∧ exec (.krel k) s = s.takeTrap { code := 0x03 }
      ∧ exec (.kwait k) s = s.takeTrap { code := 0x03 })

/-- KADV, KADVZ and KSETC change their counters modulo 2^32, and every other register keeps its value; when no valid register uses a changed counter nothing else happens. Otherwise, when every affected register has fewer than two advances in flight, every element that enters a declared set can be reached and every copy has arrived and is not dirty, they complete with a copy of each entering element in the window and one more advance in flight at each register whose set has moved, and memory is as it was; with two in flight already they stall. KADVZ with one counter twice raises the illegal-instruction trap. That an advance that moves nothing, between empty lists, leaves the number in flight is the model's reading (log entry 24). (05_residency.md: The advance and its difference, 12_memory_residency_and_engine_instructions.md: Residency instructions (majors 0x29 and 0x2A)) -/
def Obligations.ResidencyAdvances : Prop :=
  ∀ (s : State) (i : Instr) (changed : Nat) (c : Vector (BitVec 32) 8),
    s.cur.lane = none → s.cur.noCopy →
    ((∃ (x : CIdx) (imm : BitVec 11), i = .kadv x imm ∧ changed = 2 ^ x.val
        ∧ c = Vector.ofFn fun j => if j = x then s.cur.c[j] + imm.signExtend 32 else s.cur.c[j])
      ∨ (∃ (x z : CIdx) (imm : BitVec 8), x ≠ z ∧ i = .kadvz x z imm ∧ changed = 2 ^ x.val + 2 ^ z.val
        ∧ c = Vector.ofFn fun j => if j = z then 0 else if j = x then s.cur.c[j] + imm.signExtend 32 else s.cur.c[j])
      ∨ (∃ (x : CIdx) (sa : SReg), i = .ksetc x sa ∧ changed = 2 ^ x.val
        ∧ c = Vector.ofFn fun j => if j = x then (s.cur.rs sa).setWidth 32 else s.cur.c[j])) →
    ((∀ k, ¬s.cur.touches changed k) → exec i s = .next (s.after { s.cur with c := c }.past))
    ∧ ((∀ k, s.cur.touches changed k → s.cleared s.cur (.ahead (s.cur.k[k]).strm true) = true) →
      (∃ k, s.cur.touches changed k ∧ 2 ≤ (s.cur.k[k]).inflight) → exec i s = .next { s with cur.wait := .busy (.advances changed) })
    ∧ (∀ key : Nat → Nat,
      (∀ k, s.cur.touches changed k → s.cleared s.cur (.ahead (s.cur.k[k]).strm true) = true ∧ (s.cur.k[k]).inflight < 2) →
      (∀ k, s.cur.touches changed k → ∀ x ∈ boxElements (diff ((s.cur.k[k]).box c) ((s.cur.k[k]).box s.cur.c)),
        s.reaches .load False ((s.cur.k[k]).address x) (s.cur.k[k]).esz (key ((s.cur.k[k]).address x))) →
      (∀ e ∈ s.cur.win, e.dirty = false ∧ e.arrival = .arrived) →
      ∃ t : State, exec i s = .next t
        ∧ s.HasRead t { s.cur.past with c := c, k := t.cur.k, win := t.cur.win }
        ∧ (∀ k, (t.cur.k[k]).phase = (s.cur.k[k]).phase ∧ (¬s.cur.touches changed k → t.cur.k[k] = s.cur.k[k]))
        ∧ (∀ e ∈ t.cur.win, e.dirty = false)
        ∧ (∀ k, s.cur.touches changed k → (t.cur.k[k]).inflight = (s.cur.k[k]).inflight
            + if boxElements (diff ((s.cur.k[k]).box c) ((s.cur.k[k]).box s.cur.c)) = []
                ∧ boxElements (diff ((s.cur.k[k]).box s.cur.c) ((s.cur.k[k]).box c)) = [] then 0 else 1)
        ∧ ∀ k, s.cur.touches changed k → ∀ x ∈ boxElements (diff ((s.cur.k[k]).box c) ((s.cur.k[k]).box s.cur.c)),
            (t.cur.copy? t.cur.k[k] x).isSome = true)
    ∧ ∀ (x : CIdx) (imm : BitVec 8), exec (.kadvz x x imm) s = s.takeTrap { code := 0x01 }

/-- With a granted tile and GL at most 128, TZERO, TSEAL, MOP, MOPN, MOPK, TMRV and TMCV complete by posting one entry with their captured operands when GL is not 0 and an element is active; otherwise they post nothing; with no place in the queue they stall. TMVR and TMVC post an entry that writes row or column s[sb] of the tile, rounded to the format of va, when it completes, TCHK one that writes the mask of the failed checks; that the hart issues nothing until then is the model's choice (log entry 27); that TMRV and TMCV with an empty mask post their entry is its reading (log entry 48). A tile that is not granted, or a GL above 128, raises the reserved-operand trap. (13_matrix_sparse_and_burl_instructions.md: The matrix queue, 13_matrix_sparse_and_burl_instructions.md: MOP family (major 0x30), 13_matrix_sparse_and_burl_instructions.md: Tile moves and checks (major 0x31)) -/
def Obligations.TileInstructions : Prop :=
  ∀ (s : State) (td : TReg) (va vb : VReg) (sb : SReg) (m ma : MReg) (ca cb : Bool) (a b : Vec),
    s.cur.lane = none →
    (s.cur.mayMatrix td → s.cur.noCopy → ¬s.mayPost → s.cur.gl ≠ 0 → exec (.tzero td) s = .next { s with cur.wait := .busy .posting })
    ∧ (s.cur.mayMatrix td → s.cur.noCopy → s.mayPost →
      let endsAs (posts : Bool) (op : MxOp) (fl : Nat) : Host.Outcome State Fault Refusal :=
        .next (if posts then (s.posted td op fl).after s.cur.past else s.after s.cur.past)
      exec (.tzero td) s = endsAs (s.cur.gl != 0) .zero 0 ∧ exec (.tseal td) s = endsAs (s.cur.gl != 0) .seal 0
      ∧ (s.cur.mopOperands va vb a b →
        let rows := s.cur.mopRows a m
        let cols := s.cur.valuesOf b m
        let fb := allFlags (s.cur.actives m) fun e => (b.value s.cur e).2
        let posts := s.cur.gl != 0 && !(if a.sparse then s.cur.pairsOf a m else s.cur.actives m).isEmpty && !cols.isEmpty
        let flags := if rows.1 = [] then 0 else rows.2 ||| fb
        exec (.mop td va vb ca cb m) s = endsAs posts (.mop false rows.1 cols false) flags
        ∧ exec (.mopn td va vb ca cb m) s = endsAs posts (.mop true rows.1 cols false) flags
        ∧ ∀ (k : KIdx) (at' : Nat → List Nat) (copy : Nat → WinElem),
          a.sparse = false → s.cur.parent = none → (s.cur.k[k]).phase = .valid → (s.cur.k[k]).esz ≤ 2 →
          (∀ e ∈ s.cur.actives m, (s.cur.k[k]).locate s.cur.c e = some (at' e)
            ∧ s.cur.copy? s.cur.k[k] (at' e) = some (copy e) ∧ (copy e).cls < 3 ∧ (copy e).stale = false ∧ (copy e).arrival = .arrived) →
          let placed := (s.cur.actives m).filter fun e => decide ((copy e).data.toNat < 128)
          exec (.mopk td va vb ca cb m k) s = endsAs (s.cur.gl != 0 && !(s.cur.actives m).isEmpty)
            (.mop false (placed.map fun e => ((copy e).data.toNat, (a.value s.cur e).1)) cols false)
            (if placed = [] then 0 else allFlags placed (fun e => (a.value s.cur e).2) ||| fb))
      ∧ (s.cur.operand? va = some a → a.mopSource = true → a.scaleOk s.cur.gl.toNat = true → (s.cur.rs sb).toNat < 128 →
        let op (row : Bool) : MxOp := .fill row (s.cur.rs sb).toNat (s.cur.valuesOf a m)
        let fl := allFlags (s.cur.actives m) fun e => (a.value s.cur e).2
        exec (.tmrv td va sb m) s = endsAs (s.cur.gl != 0) (op true) fl ∧ exec (.tmcv td va sb m) s = endsAs (s.cur.gl != 0) (op false) fl))
    ∧ ((s.cur.rs sb).toNat < 128 → ∀ row : Bool,
      let n := (s.cur.rs sb).toNat
      (s.cur.operand? va = some a → a.floatDest?.isSome = true → s.cur.mayMatrix td → s.cur.vecCopyOk a → s.mayPost →
        exec (if row then .tmvr td va sb m else .tmvc td va sb m) s = .next (if s.cur.gl = 0 then s.after s.cur.past
          else (s.posted td (.move row va n (s.cur.actives m) s.cur.pfxs ⟨s.cur.rmode, s.cur.tag[va], s.cur.f⟩) 0).after { s.cur.past with wait := .busy .entries }))
      ∧ (∀ (es : List Nat) (lent : BitVec 16) (y : Moved) (f : FloatFmt), (∀ e ∈ es, e < 128) →
        ({ s.cur with tag := s.cur.tag.set va y.tag, f := y.f } : Hart).vec? va = some a → a.floatDest? = some f →
        s.oldestEntry td (.move row va n es lent y) →
        let x (e : Nat) : Val := fp32.decode (if row then (s.cur.t[td]).at' n e else (s.cur.t[td]).at' e n)
        let r (e : Nat) : Nat × Nat := f.round (if y.rm = 5 then 0 else y.rm) 0 (x e).toRes
        let captured : Hart := { s.cur with pfxs := lent }
        ∃ k : Hart, captured.VecWritten k a (fun e => if e ∈ es then some (r e).1 else none)
          ∧ exec (.matrixEntryComplete (coreOf s.cur.id)) s = .next (s.completed td (.move row va n es lent y)
              { k.flagged (allFlags es fun e => (r e).2 ||| (x e).sigFlag) 0 with pfxs := s.cur.pfxs })))
    ∧ ((s.cur.rs sb).toNat < 32 →
      let th := (s.cur.rs sb).toNat
      let x := s.cur.t[td]
      (s.cur.mayMatrix td → s.cur.noCopy → s.mayPost →
        exec (.tchk td ma sb) s = .next (if s.cur.gl = 0 then s.after s.cur.past
          else (s.posted td (.check ma th) 0).after { s.cur.past with wait := .busy .entries }))
      ∧ (s.oldestEntry td (.check ma th) →
        ∃ k : Hart, exec (.matrixEntryComplete (coreOf s.cur.id)) s = .next (s.completed td (.check ma th) k) ∧ k = { s.cur with m := k.m }
          ∧ ∀ r : MReg, ∀ e < 16384, (k.m[r]).getLsbD e = if r = ma ∧ r ≠ 0 then
            (if e < 128 then checkFails th (sumVals (x.row e)).1 (fp32.decode (word32 x.rs.toNat e)) (fp32.decode (word32 x.ra.toNat e))
              else if e < 256 then checkFails th (sumVals (x.col (e - 128))).1 (fp32.decode (word32 x.cs.toNat (e - 128)))
                (fp32.decode (word32 x.ca.toNat (e - 128)))
              else (e == 256 && x.u) || (e == 257 && x.d)) else (s.cur.m[r]).getLsbD e))
    ∧ (s.cur.noCopy → s.cur.tiles ≤ td.val ∨ 128 < s.cur.gl.toNat →
      exec (.tzero td) s = s.takeTrap { code := 0x03 } ∧ exec (.mop td va vb ca cb m) s = s.takeTrap { code := 0x03 })

/-- SPADD, SPSUB and SPMUL of operands with ascending coordinates complete with the union, or for SPMUL the intersection, of the coordinates in ascending order, each with its value, and SLEN their number; more pairs than the destination holds raise the reserved-operand trap. SPACK makes a pair of each active nonzero element, SUNPK writes each active element from its pair or 0, SPLEN sets SLEN alone. PRUNE and PRUNE.u take one draw an active element and keep, replace or clear it. (13_matrix_sparse_and_burl_instructions.md: Sparse registers, 13_matrix_sparse_and_burl_instructions.md: Sparse instructions (major 0x32), 13_matrix_sparse_and_burl_instructions.md: PRUNE (major 0x33)) -/
def Obligations.SparseInstructions : Prop :=
  ∀ (s : State) (vd va vb : VReg) (m : MReg) (sb : SReg) (d a b : Vec),
    s.cur.lane = none → s.steady → s.cur.vecCopyOk d →
    (∀ (i : Instr) (mul minus : Bool), mergeForm i = some (vd, va, vb, mul, minus) → s.cur.mergeOperands vd va vb d a b →
      a.ascending → b.ascending → s.cur.gl ≠ 0 →
      ∃ cs : List Nat, cs.Pairwise (· < ·)
        ∧ (∀ c, c ∈ cs ↔ if mul then (a.pairAt c).isSome ∧ (b.pairAt c).isSome else (a.pairAt c).isSome ∨ (b.pairAt c).isSome)
        ∧ (d.pairs < cs.length → exec i s = s.takeTrap { code := 0x03 })
        ∧ (cs.length ≤ d.pairs →
          let draws := s.cur.rmode = 5 ∧ d.fmt.isInt = false
          let v (p : Nat × Nat) : Nat × Nat := mergedValue s.cur d a b mul minus (a.pairAt p.1) (b.pairAt p.1)
            (if draws then drawAt s.cur.gseedLo s.cur.gseedHi p.2 else 0)
          ∃ k : Hart, s.cur.PairsWritten k d (cs.zipIdx.map fun p => (p.1, (v p).1))
            ∧ exec i s = .next (s.after (k.flagged (cs.zipIdx.foldl (fun x p => x ||| (v p).2) 0) (if draws then cs.length else 0)).past)))
    ∧ (s.cur.operand? vd = some d → s.cur.operand? va = some a → d.scale = none → a.w = d.w → d.sparse = true → a.sparse = false →
      let ps := ((s.cur.actives m).filter fun e => a.fmt.countsNonzero (a.elem e)).map fun e => (e, a.elem e)
      (d.pairs < ps.length → exec (.spack vd va m) s = s.takeTrap { code := 0x03 })
      ∧ (ps.length ≤ d.pairs → s.cur.gl ≠ 0 →
        ∃ k : Hart, s.cur.PairsWritten k d ps ∧ exec (.spack vd va m) s = .next (s.after k.past))
      ∧ (s.cur.gl = 0 → exec (.spack vd va m) s = .next (s.after s.cur.past)))
    ∧ (s.cur.operand? vd = some d → s.cur.operand? va = some a → d.scale = none → a.w = d.w → d.sparse = false → a.sparse = true →
      ∃ k : Hart, s.cur.VecWritten k d (fun e => if s.cur.isActive m e then
          some ((((List.range a.slen).filter fun p => a.coord p == e).getLast?.map a.pairElem).getD 0) else none)
        ∧ exec (.sunpk vd va m) s = .next (s.after k.past))
    ∧ (s.cur.noCopy → s.cur.operand? vd = some d → d.scale = none → d.sparse = true →
      let n := (s.cur.rs sb).toNat
      (d.pairs < n → exec (.splen vd sb) s = s.takeTrap { code := 0x03 })
      ∧ (n ≤ d.pairs → exec (.splen vd sb) s = .next (s.after { s.cur with
          tag := Vector.ofFn fun r => if s.cur.gl ≠ 0 ∧ d.reg ≤ r.val ∧ r.val < d.reg + d.group
            then (d.tag.setWidth 48).setWidth 64 ||| (BitVec.ofNat 64 n <<< 48) else s.cur.tag[r] }.past)))
    ∧ ∀ unbiased : Bool, s.cur.operand? vd = some d → s.cur.operand? va = some a → a.scale = none → tagFmt a.tag = tagFmt d.tag →
      ∀ f, d.floatDest? = some f →
        let i : Instr := if unbiased then .pruneU vd va sb m else .prune vd va sb m
        let t := fp32.decode ((s.cur.rs sb).toNat % 2 ^ 32)
        ((¬∃ x e, t = .fin false x e ∧ x ≠ 0) → exec i s = s.takeTrap { code := 0x03 })
        ∧ ((∃ x e, t = .fin false x e ∧ x ≠ 0) →
          let r (e : Nat) : Nat × Nat :=
            pruned unbiased f t (drawAt s.cur.gseedLo s.cur.gseedHi (s.cur.place m e)) (a.elem e)
          ∃ k : Hart, s.cur.VecWritten k d (fun e => if s.cur.isActive m e then some (r e).1 else none)
            ∧ exec i s = .next (s.after (k.flagged (allFlags (s.cur.actives m) fun e => (r e).2) (s.cur.actives m).length).past))

/-- With an active element and an ERIX at a block boundary, XSTC stores the packed blocks of vd from that block on as one stream of bytes and sets s[sX] to the bytes of the whole stream; XLDE over a stream of valid blocks writes the active elements from that block on, each extended under its block's mode, and sets s[sX] to the bytes consumed. With no active element both clear ERIX, and set s[sX] to 0 unless GL = 0. XEFST stores for each active element its value rounded to the primary format at a[base] and the residue in the residue format at s[sX], and sets the flags of both roundings. Other bytes of memory and other registers are as they were. The residue of −∞ in an unsigned format, s[sX] with no active element and ERIX at GL = 0 follow the model's readings (log entries 34, 60 and 33). (12_memory_residency_and_engine_instructions.md: Transform (major 0x2C), 04_number_formats.md: Rounding) -/
def Obligations.TransformUnit : Prop :=
  ∀ (s : State) (vd : VReg) (base : AReg) (sx : SReg) (ca : Bool) (st : Stream) (m : MReg) (d : Vec) (key : Nat → Nat),
    Memory.wf s.mem = true → s.cur.lane = none → s.unstopped →
    let h := s.cur
    let n := 128 / d.w
    let start := (h.a[base]).toNat
    (h.packed? vd = some d → h.erix.toNat % n = 0 → h.actives m = [] →
      let idle : State := s.after { (if h.gl = 0 then h else h.wroteOnly sx 0).past with erix := 0 }
      (h.noCopy → exec (.xstc vd base sx ca st m) s = .next idle) ∧ (h.vecCopyOk d → exec (.xlde vd base sx st m) s = .next idle))
    ∧ (h.packed? vd = some d → h.erix.toNat % n = 0 → h.actives m ≠ [] → ∀ bs : List (List Nat),
      let total := bs.flatten.length
      let skip := (bs.take (h.erix.toNat / n)).flatten.length
      (h.noCopy → s.clearStream st.val true → h.Packs d m bs → (∀ i < total, skip ≤ i → s.reaches .store False ((start + i) % 2 ^ 64) 1 (key i)) →
        (∀ i j, i < j → j < total → key i ≠ key j) →
        ∃ t : State, exec (.xstc vd base sx ca st m) s = .next t
          ∧ s.HasStored t { (h.wroteOnly sx (BitVec.ofNat 64 total)).past with erix := 0 } ∧ t.gangs = s.gangs
          ∧ (∀ i < total, skip ≤ i → (Memory.read t.mem (key i)).toNat = bs.flatten.getD i 0)
          ∧ ∀ b, (∀ i < total, skip ≤ i → key i ≠ b) → Memory.read t.mem b = Memory.read s.mem b)
      ∧ (h.vecCopyOk d → s.clearStream st.val false → ∀ (mode width : Nat → Nat),
        bs.length = (h.gl.toNat + n - 1) / n →
        (∀ b < bs.length, mode b < 3 ∧ 1 ≤ width b ∧ width b ≤ d.w ∧ (bs.getD b []).headD 0 = mode b * 64 + (width b - 1)
          ∧ (∀ x ∈ bs.getD b [], x < 256)
          ∧ (bs.getD b []).length = 1 + if mode b = 2 then 0 else ((blockElements n h.gl.toNat b).length * width b + 7) / 8) →
        s.reachesBytes .load start total key → (∀ i < total, (Memory.read s.mem (key i)).toNat = bs.flatten.getD i 0) →
        let value (e : Nat) : Nat :=
          let b := e / n
          let payload := (((bs.getD b []).drop 1).zipIdx.map fun p => p.1 * 256 ^ p.2).sum
          let x := payload / 2 ^ (e % n * width b) % 2 ^ width b
          if mode b = 2 then 0 else if mode b = 1 then (sext (width b) x % 2 ^ d.w).toNat else x
        ∃ (t : State) (k : Hart), exec (.xlde vd base sx st m) s = .next t
          ∧ h.VecWritten k d (fun e => if h.isActive m e ∧ h.erix.toNat ≤ e then some (value e) else none)
          ∧ s.HasRead t { (k.wroteOnly sx (BitVec.ofNat 64 total)).past with erix := 0 }))
    ∧ (h.noCopy → s.clearStream st.val true → sx.val ≤ 30 → h.floatOperand? vd = some d → d.sparse = false →
      ∀ fw : Word, fw = h.rs (sx + 1) → fw &&& ~~~0x1F1F#64 = 0 →
      ∀ A B, h.feedback? (fw.extractLsb' 0 5).toNat = some A → h.feedback? (fw.extractLsb' 8 5).toNat = some B →
        let es := h.taken m
        let x : AccessForm := { vd, m, stream := st.val, addr := unitStride start }
        let y : AccessForm := { vd, m, stream := st.val, addr := unitStride (h.rs sx).toNat }
        let q (e : Nat) : Nat × Nat := A.round h.rmode
          (if h.rmode = 5 then drawAt h.gseedLo h.gseedHi (es.filter fun j => decide (j < e)).length else 0) (d.value h e).1.toRes
        let r (e : Nat) : Nat × Nat := residue A B (d.value h e).1 (q e).1
        (∀ e ∈ es, s.reachesElem .store False x A.width key e ∧ s.reachesElem .store False y B.width key e) →
        ∃ t : State, exec (.xefst vd base sx ca st m) s = .next t
          ∧ s.HasStored t { (h.flagged (allFlags es fun e => (d.value h e).2 ||| (d.value h e).1.sigFlag ||| (q e).2 ||| (r e).2)
              (if h.rmode = 5 then es.length else 0)).past with erix := 0 } ∧ t.gangs = s.gangs
          ∧ ∀ b i, i < 8 →
            ((∀ e ∈ es, ∀ o, ¬x.covers A.width key e b i o ∧ ¬y.covers B.width key e b i o) →
              (Memory.read t.mem b).getLsbD i = (Memory.read s.mem b).getLsbD i)
            ∧ (∀ e ∈ es, ∀ o,
              (x.covers A.width key e b i o → (∀ j ∈ es, ∀ p, ¬y.covers B.width key j b i p ∧ (x.covers A.width key j b i p → j = e ∧ p = o)) →
                (Memory.read t.mem b).getLsbD i = (q e).1.testBit o)
              ∧ (y.covers B.width key e b i o → (∀ j ∈ es, ∀ p, ¬x.covers A.width key j b i p ∧ (y.covers B.width key j b i p → j = e ∧ p = o)) →
                (Memory.read t.mem b).getLsbD i = (r e).1.testBit o)))

/-- NMC with a valid block posts one command with its captured fields when an active element remains and every access can be reached, and only clears ERIX when none does; an invalid block or a misaligned status address raises the reserved-operand trap. COLL with a valid block of a group of the hart's partition whose member list holds the device joins the rank to its instance when the buffer and the status word can be reached; with GL = 0 it joins nothing; a list without the device raises the reserved-operand trap (the model's choice, log entry 79). With GL = 0 NMC clears ERIX, as log entry 33 reads R62; COLL leaves it (R62); neither writes anything else (log entry 49). (12_memory_residency_and_engine_instructions.md: Mandrel commands (major 0x2B), 12_memory_residency_and_engine_instructions.md: Collectives (major 0x2D)) -/
def Obligations.EngineCommands : Prop :=
  ∀ (s : State) (vc : VReg) (base : AReg) (sx : SReg) (st : Stream) (m : MReg) (f : Fmt) (key : Nat → Nat),
    s.cur.lane = none → s.cur.noCopy →
    let h := s.cur
    let b : BitVec 256 := h.v[vc].extractLsb' 0 256
    let status := (h.rs sx).toNat
    let start := (h.a[base]).toNat
    (let opc := (b.extractLsb' 0 8).toNat
      let code := (b.extractLsb' 16 5).toNat
      let rm := (b.extractLsb' 24 3).toNat
      let yaddr := (b.extractLsb' 64 64).toNat
      let legal := b.extractLsb' 8 8 = 0 ∧ b.extractLsb' 21 3 = 0 ∧ b.extractLsb' 27 37 = 0 ∧ b.extractLsb' 192 64 = 0
        ∧ 1 ≤ opc ∧ opc ≤ 6 ∧ rm ≤ 4 ∧ status % 8 = 0
      (¬legal ∨ fmtOf h.f code = none → exec (.nmc vc base sx st m) s = s.takeTrap { code := 0x03 })
      ∧ (legal → fmtOf h.f code = some f →
        (nmcFmtOk opc code f = false → exec (.nmc vc base sx st m) s = s.takeTrap { code := 0x03 })
        ∧ (nmcFmtOk opc code f = true →
          let n := f.width / 8
          let es := h.taken m
          (es = [] → exec (.nmc vc base sx st m) s = .next (s.after { h.past with erix := 0 }))
          ∧ (es ≠ [] → s.clearStream st.val true →
            (∀ e ∈ es, s.reaches .rmw False ((start + e * n) % 2 ^ 64) n (key ((start + e * n) % 2 ^ 64))
              ∧ (opc = 3 ∨ opc = 6 ∨ s.reaches .operand False ((yaddr + e * n) % 2 ^ 64) n (key ((yaddr + e * n) % 2 ^ 64)))) →
            (opc = 6 → ∀ i < ((start + (h.gl.toNat - 1) * n) / 64 + 1 - start / 64 + 7) / 8,
              s.reaches .map False ((yaddr + i) % 2 ^ 64) 1 (key ((yaddr + i) % 2 ^ 64))) →
            (status = 0 ∨ s.reaches .store False status 8 (key status)) →
            ∃ t : State, exec (.nmc vc base sx st m) s = .next t ∧ t = { (({ s with nmcq := s.nmcq ++ [{
              hart := h.id, gang := h.gang, index := h.index, forked := h.parent.isSome, part := h.part, atLevel := h.prv, stream := st, opc := opc, code := code, f := h.f, rm := rm
              alpha := b.extractLsb' 128 32, beta := b.extractLsb' 160 32, base := start, yaddr := yaddr, status := status
              elems := es, gl := h.gl.toNat, pos := 0, first := none, flags := 0, met := {}, bits := 0, out := [] }] } : State).after { h.past with erix := 0 }) with
                seqCount := t.seqCount, performed := t.performed }))))
    ∧ (let g := (b.extractLsb' 32 16).toNat
      let c := b.toNat
      let legal := collBlockOk c = true ∧ status % 8 = 0 ∧ g < 1024 ∧ bitOf (s.group0 g) 63 = true
        ∧ fld (s.group0 g) 50 48 = h.part.val ∧ h.parent = none ∧ h.gang.isSome = true ∧ h.index < s.groupHpd g ∧ s.groupHpd g ≤ 384
        ∧ ((b.extractLsb' 0 8).toNat ≠ 4 ∨ (b.extractLsb' 96 32).toNat < s.groupRanks g)
      (¬legal → exec (.coll vc base sx st) s = s.takeTrap { code := 0x03 })
      ∧ (legal → ∀ s' : State,
        (s.memberOf h.req g = (.ok none, s') → exec (.coll vc base sx st) s = s'.takeTrap { code := 0x03 })
        ∧ ∀ i, s.memberOf h.req g = (.ok (some i), s') →
          (h.gl = 0 → exec (.coll vc base sx st) s = .next (s'.after s'.cur.past))
          ∧ (h.gl ≠ 0 → collFmt? c = some f → s'.clearStream st.val true →
            let n := collElems c (s'.groupRanks g)
            (∀ p ∈ bufferPieces f.width start 0 n, s'.reaches .load False p.va p.n (key p.va) ∧ s'.reaches .store False p.va p.n (key p.va)) →
            (status = 0 ∨ s'.reaches .store False status 8 (key status)) →
            let j : Join := ⟨i * s'.groupHpd g + h.index, some ⟨h.id, h.gang, h.index, false⟩, h.part, h.prv, st, b, start,
              (n * f.width + 7) / 8, status, 0⟩
            ∃ t : State, exec (.coll vc base sx st) s = .next t
              ∧ t = { (s'.join g j).after s'.cur.past with seqCount := t.seqCount, performed := t.performed })))

/-- HCLAIM through a valid handle raises the bad-handle trap, and words that fail its checks the reserved-operand trap; otherwise, where the access table admits it, it completes: a new region at the lowest free block with 1 in s[sd], an attachment to the named region with 2, or 0 when there is no room. HREL of a valid handle clears it and frees the region with its last attachment. HSTAT reads the counts of the region. An invalid handle raises the bad-handle trap. (13_matrix_sparse_and_burl_instructions.md: The Burl, 13_matrix_sparse_and_burl_instructions.md: Burl instructions (major 0x34)) -/
def Obligations.BurlHandles : Prop :=
  ∀ (s : State) (sd sb : SReg) (h : HReg), s.cur.lane = none →
    (s.cur.sregCopyOk →
      (handleValid s.cur.h[h] = true → exec (.hclaim sd sb h) s = s.takeTrap { code := 0x04 })
      ∧ (handleValid s.cur.h[h] = false → sb.val ≤ 29 →
        (claimOf (s.cur.rs sb).toNat (s.cur.rs (sb + 1)).toNat (s.cur.rs (sb + 2)).toNat = none →
          exec (.hclaim sd sb h) s = s.takeTrap { code := 0x03 })
        ∧ ∀ c, claimOf (s.cur.rs sb).toNat (s.cur.rs (sb + 1)).toNat (s.cur.rs (sb + 2)).toNat = some c →
          let core := coreOf s.cur.id
          let there := if c.name = none then none
            else s.regions.find? fun r => r.core == core && r.gang == s.cur.gangKey && r.name == c.name
          let claimed (r : Region) : Hart := { s.cur with h := s.cur.h.set h r.handle }
          ((∃ r, there = some r ∧ r.claim ≠ c) → exec (.hclaim sd sb h) s = s.takeTrap { code := 0x03 })
          ∧ (s.denied (.burl core) s.cur.id .rmw = none →
            s.clearStream c.sstr true →
            (∀ r, there = some r → r.claim = c →
              exec (.hclaim sd sb h) s = .next (({ s with regions := s.regions.map fun x =>
                  if x.core == r.core && x.off == r.off then { x with refs := x.refs + 1 } else x } : State).after
                ((claimed r).wrote sd 2).past))
            ∧ (there = none → s.freeBlock core c.log2 = none → exec (.hclaim sd sb h) s = .next (s.after (s.cur.wrote sd 0).past))
            ∧ ∀ off, there = none → s.freeBlock core c.log2 = some off →
              let r : Region := ⟨core, s.cur.gangKey, off, c.log2, c.name, c.spb, c.scap, 0, c.kfmt, c.vfmt, c.sstr, 0, [], 1⟩
              exec (.hclaim sd sb h) s = .next (({ s with regions := s.regions ++ [r] } : State).after ((claimed r).wrote sd 1).past)
              ∧ off % 2 ^ c.log2 = 0 ∧ off + 2 ^ c.log2 ≤ 0x180000))
      ∧ (s.regionOf s.cur.id s.cur.h[h] = none → exec (.hstat sd h) s = s.takeTrap { code := 0x04 })
      ∧ ∀ r, s.regionOf s.cur.id s.cur.h[h] = some r → s.clearStream r.sstr true → s.denied (.burl (coreOf s.cur.id)) s.cur.id .rd = none →
        exec (.hstat sd h) s = .next (s.after (s.cur.wrote sd (BitVec.ofNat 64 (r.scnt * 2 ^ 32 + (r.slots.length + r.scnt)))).past))
    ∧ (s.cur.noCopy →
      (s.regionOf s.cur.id s.cur.h[h] = none → exec (.hrel h) s = s.takeTrap { code := 0x04 })
      ∧ ∀ r, s.regionOf s.cur.id s.cur.h[h] = some r → s.clearStream r.sstr true →
        ∃ t : State, exec (.hrel h) s = .next t
          ∧ t = { s.after { s.cur with h := s.cur.h.set h 0 }.past with regions := t.regions, lost := t.lost }
          ∧ (1 < r.refs → t.lost = s.lost ∧ t.regions = s.regions.map fun x =>
              if x.core == r.core && x.off == r.off then { x with refs := x.refs - 1 } else x)
          ∧ (r.refs ≤ 1 → t.lost = s.lost ++ [(r.core, r.off, 2 ^ r.log2)]
              ∧ t.regions = s.regions.filter fun x => !(x.core == r.core && x.off == r.off)))

/-- On a region without a spill area that is undamaged and reachable, with an active element: HINS stores for each key the value of its highest element, and its mask tells the keys that are in the table afterwards; HACC adds the values of a key's elements in ascending order to what the table holds, or stores their sum; HDEL removes the keys, and its mask tells those that were there; HPROBE reads the values of the keys that are there, and their mask; HDRAIN reads entries in bucket order from the cursor, sets GL to their number and moves the cursor past the last. Keys that no element names keep their values. The copy of an HDRAIN that meets its values, and a NaN placed unscaled, follow the model's choices (log entries 31 and 32). (13_matrix_sparse_and_burl_instructions.md: The Burl, 13_matrix_sparse_and_burl_instructions.md: Burl instructions (major 0x34)) -/
def Obligations.BurlTables : Prop :=
  ∀ (s : State) (h : HReg) (md m : MReg) (vd va vb : VReg) (sb : SReg) (r : Region) (d a b : Vec),
    12 ≤ r.log2 → r.log2 ≤ 19 → s.cur.operand? va = some a →
    let es := s.cur.actives m
    let dense (x : VReg) : Prop := tagSparse s.cur.tag[x] = false
    (s.atRegion h r .rmw → s.cur.noCopy → es ≠ [] → dense va → tagFmt a.tag = r.kfmt → a.scale = none →
      (s.cur.operand? vb = some b → dense vb → tagFmt b.tag = r.vfmt → b.scale = none → ∀ acc : Bool,
        ∃ (k : Hart) (r' : Region) (put : Nat → Bool) (fcs : BitVec 11),
          s.cur.MaskWritten k md (fun e => decide (e ∈ es) && put e)
          ∧ exec (if acc then .hacc md va vb m h else .hins md va vb m h) s
            = .next { s.after { k with fcs := fcs }.past with regions := s.withRegion r' }
          ∧ r' = { r with slots := r'.slots } ∧ s.cur.fcs &&& fcs = s.cur.fcs ∧ (acc = false → fcs = s.cur.fcs)
          ∧ (∀ e ∈ es, put e = (r'.lookup (a.elem e)).isSome ∧ ((r.lookup (a.elem e)).isSome = true → put e = true))
          ∧ (∀ e ∈ es, put e = true → r'.lookup (a.elem e) = some (
              let mine := es.filter fun j => a.elem j == a.elem e
              if acc then
                match r.lookup (a.elem e) with
                | some old => (mine.foldl (accStep s.cur b) (old % 2 ^ b.w, 0)).1
                | none => ((mine.drop 1).foldl (accStep s.cur b) (b.elem (mine.headD 0), 0)).1
              else b.elem (lastOfKey es a e)))
          ∧ ∀ key, (∀ e ∈ es, a.elem e ≠ key) → r'.lookup key = r.lookup key)
      ∧ ∃ (k : Hart) (r' : Region), s.cur.MaskWritten k md (fun e => decide (e ∈ es) && (r.lookup (a.elem e)).isSome)
          ∧ exec (.hdel md va m h) s = .next { s.after k.past with regions := s.withRegion r' }
          ∧ r' = { r with slots := r'.slots }
          ∧ ∀ c, r'.slot c = if ∃ e ∈ es, r.bucketOf (a.elem e) = some c then none else r.slot c)
    ∧ (s.atRegion h r .rd → s.cur.vecCopyOk d → s.cur.operand? vd = some d → dense vd → dense va → d.scale = none →
      (es ≠ [] → tagFmt a.tag = r.kfmt → a.scale = none → tagFmt d.tag = r.vfmt →
        ∃ k k' : Hart, s.cur.VecWritten k d (fun e => if e ∈ es then (r.lookup (a.elem e)).map (· % 2 ^ d.w) else none)
          ∧ k.MaskWritten k' md (fun e => decide (e ∈ es) && (r.lookup (a.elem e)).isSome)
          ∧ exec (.hprobe vd va md m h) s = .next (s.after k'.past))
      ∧ (s.cur.gl ≠ 0 → tagFmt d.tag = r.kfmt → tagFmt a.tag = r.vfmt → a.scale = none →
        let ps := ((List.range (2 ^ r.log2 / 16)).filter fun c => decide ((s.cur.rs sb).toNat ≤ c) && (r.slot c).isSome).take s.cur.gl.toNat
        let entry (e : Nat) : Nat × Nat := (r.slot (ps.getD e 0)).getD (0, 0)
        ∃ k k' : Hart, s.cur.VecWritten k d (fun e => if e < ps.length then some (entry e).1 else none)
          ∧ k.GroupWritten k' a.reg a.group a.w (fun e => if e < ps.length then some (entry e).2 else none)
          ∧ k' = { k with v := k'.v }
          ∧ (∀ x : VReg, ¬(a.reg ≤ x.val ∧ x.val < a.reg + a.group) → k'.v[x] = k.v[x])
          ∧ exec (.hdrain vd va sb h) s = .next (s.after { (match ps.getLast? with
              | some p => k'.wroteOnly sb (BitVec.ofNat 64 (p + 1))
              | none => k') with gl := BitVec.ofNat 15 ps.length }.past)))

/-- SCATTER_ACKNOWLEDGE counts one element of a lane down, once more are unacknowledged than lessors have yet to perform. ADVANCE_COMPLETE ends a register's oldest advance when every element of its fetch list that has a copy has arrived, and changes nothing before. STALE_REFETCH gives each element that a register holds, and that waits to be fetched, the bytes of memory, when nothing issued before it is in the way. PHASE_SWEEP of a gang that has arrived in the two-sweep mode releases it when its counts agree, sweeps again below the limit, and at the limit freezes every hart at the barrier. MATRIX_ENTRY_COMPLETE takes a core's oldest entry off the queue and writes its tile: zeros, the products of distinct rows and columns each added with one rounding, or a filled row or column. The Mandrel steps perform a hart's oldest command on elements that do not overlap: each element receives the result of R270, SCRUB of undamaged sectors writes a map of zeros, and the status word reports CODE 1 with the flags. ALLRED, REDSCAT, ALLGATH and BCAST of an instance whose ranks have joined give each rank the elements of R279 and the status word; an instance that expires, or that an invalidation ends, reports CODE 4; an invalidated group has V = 0 and its counts begin again; a remote rank joins its instance. That an element without a copy, one released or never fetched, counts as arrived is the model's choice (log entry 68), as are the order of a command's elements and the sign of an inner sum (log entries 52 and 36), and how collectives write (log entry 53). Everything else is as it was, but for what the units keep of their requests and what fetch may see later. (95_what_each_step_holds.md, 02_harts_gangs_and_work.md: Phase end, 05_residency.md: The life of a window, 13_matrix_sparse_and_burl_instructions.md: The matrix queue, 12_memory_residency_and_engine_instructions.md: Mandrel commands (major 0x2B), 12_memory_residency_and_engine_instructions.md: Collectives (major 0x2D), 25_host_and_peers.md) -/
def Obligations.EngineSteps : Prop :=
  ∀ (s : State) (id : HartId) (k : KIdx) (g core : Nat) (lane : Fin 16), Memory.wf s.mem = true →
    exec (.scatterAcknowledge id lane) s = .next (s.updHart id fun h =>
        if (s.link.sent.map fun r => if r.id = id then r.lanes.count lane.val else 0).sum < h.unacked[lane]
        then { h with unacked := h.unacked.set lane (h.unacked[lane] - 1) } else h)
    ∧ (let here (h : Hart) : Prop := ∀ xs, (h.k[k]).flights.head? = some xs → ∀ x ∈ xs, ∀ c, h.copy? h.k[k] x = some c → c.arrival = .arrived
      ((∀ h ∈ s.harts, h.id = id → here h) → exec (.advanceComplete id k) s
        = .next (s.updHart id fun h => { h with k := h.k.set k { h.k[k] with flights := (h.k[k]).flights.drop 1 } }))
      ∧ ((∀ h ∈ s.harts, h.id = id → ¬here h) → exec (.advanceComplete id k) s = .next s))
    ∧ (∀ key : List Nat → Nat,
      let held (e : WinElem) : Prop := e.arrival = .page ∧ e.holders.getLsbD k.val = true
      s.cleared s.cur .sectors = true → (s.cur.k[k]).esz ≤ 8 → (∀ e ∈ s.cur.win, e.arrival ≠ .arrived → held e) →
      (∀ e ∈ s.cur.win, held e → s.inTurn s.cur s.cur.k[k] e.x false = true ∧ s.reachedBy (fun _ => False) s.cur.req .load ((s.cur.k[k]).address e.x) (s.cur.k[k]).esz (key e.x)) →
      ∃ t : State, exec (.staleRefetch s.cur.id k) s = .next t
        ∧ t = { s with
            cur := { s.cur with win := t.cur.win, view := t.cur.view, k := s.cur.k.set k { s.cur.k[k] with cnt := (t.cur.k[k]).cnt } }
            seqCount := t.seqCount, performed := t.performed }
        ∧ (∀ e ∈ s.cur.win, held e → ∃ c ∈ t.cur.win, c.x = e.x ∧ c.holders = e.holders ∧ c.stale = false ∧ c.arrival = .arrived ∧ c.cls = 0
            ∧ c.data = BitVec.ofNat 64 (Memory.readN s.mem (key e.x) (s.cur.k[k]).esz))
        ∧ ∀ e ∈ s.cur.win, (∀ e' ∈ s.cur.win, held e' → e'.x ≠ e.x) → e ∈ t.cur.win)
    ∧ (∀ (x : Gang) (limit : Nat), s.gangs.filter (fun y => y.id == g) = [x] → x.phase = some (true, limit) → x.size ≤ x.arr →
      (∀ h ∈ s.harts, h.gang = some g → h.frozen = true → (h.frzst.extractLsb' 29 3).toNat ≠ 7) →
      (x.sent = x.received → exec (.phaseSweep g) s
        = .next { s with cur := s.cur.departed x, others := s.others.map (Hart.departed x), gangs := s.withGang x.next })
      ∧ (x.sent ≠ x.received → x.sweeps + 1 < limit →
        exec (.phaseSweep g) s = .next { s with gangs := s.withGang { x with sweeps := x.sweeps + 1 } })
      ∧ (x.sent ≠ x.received → limit ≤ x.sweeps + 1 → ∃ t : State, exec (.phaseSweep g) s = .next t
        ∧ t = { s with cur := t.cur, others := t.others, gangs := s.withGang { x with sweeps := 0 } } ∧ t.pendingS x.part.val 1
        ∧ ∀ h ∈ t.harts, h.gang = some g → h.wait = .barrier ∨ h.wait = .phase → h.frozen = true ∧ (h.frzst.extractLsb' 29 3).toNat = 7))
    ∧ (∀ (e : MxEntry) (rest : List MxEntry), s.mxq.filter (fun e => coreOf e.hart == core) = e :: rest → e.hart = s.cur.id →
      (∀ row va n es lent y, e.op ≠ .move row va n es lent y) → (∀ ma th, e.op ≠ .check ma th) →
      ∃ t : State, exec (.matrixEntryComplete core) s = .next t
        ∧ t = { s with mxq := s.mxq.erase e, cur := { s.cur with t := t.cur.t, fcs := t.cur.fcs } }
        ∧ (∀ td : TReg, td ≠ e.td → t.cur.t[td] = s.cur.t[td])
        ∧ (e.op = .zero → t.cur.t[e.td] = Tile.zero ∧ t.cur.fcs = (s.cur.flagged e.flags 0).fcs)
        ∧ (∀ neg a b bad, e.op = .mop neg a b bad → (a.map Prod.fst).Nodup → (b.map Prod.fst).Nodup → a ≠ [] → b ≠ [] →
          (∀ p ∈ a ++ b, p.1 < 128) → ∀ i < 128, ∀ j < 128,
          (t.cur.t[e.td]).at' i j = match a.find? (fun p => p.1 == i), b.find? (fun p => p.1 == j) with
            | some p, some q => (accumulate 0 ((s.cur.t[e.td]).at' i j)
                (if neg then (mulRes p.2 q.2).1.val.neg else (mulRes p.2 q.2).1.val)).1
            | _, _ => (s.cur.t[e.td]).at' i j)
        ∧ ∀ row n vals, e.op = .fill row n vals → (vals.map Prod.fst).Nodup → n < 128 → (∀ p ∈ vals, p.1 < 128) →
          (t.cur.t[e.td]).u = true ∧ ∀ i < 128, ∀ j < 128,
          (t.cur.t[e.td]).at' i j = match vals.find? (fun p => p.1 == if row then j else i) with
            | some p => if (if row then i else j) = n then (fp32.round 0 0 p.2.toRes).1 else (s.cur.t[e.td]).at' i j
            | none => (s.cur.t[e.td]).at' i j)
    ∧ (∀ (c : NmcCommand) (f : Fmt) (key : Nat → Nat), s.nmcq.find? (fun c => c.hart == id) = some c → fmtOf c.f c.code = some f →
      1 ≤ c.opc → nmcFmtOk c.opc c.code f = true → c.elems.Pairwise (· < ·) →
      c.first = none → c.met = {} → c.out = [] →
      let n := f.width / 8
      let es := c.elems.drop c.pos
      let X (e : Nat) : Nat := key (c.xAddr f e)
      let Y (e : Nat) : Nat := key (c.yAddr f e)
      let done (t : State) (flags : Nat) : Prop := t.nmcq = s.nmcq.erase c ∧ s.quietHarts t ∧ t.gangs = s.gangs ∧ t.parts = s.parts
        ∧ (c.status ≠ 0 → Memory.readN t.mem (key c.status) 8 = statusOf 1 flags)
      (c.opc ≤ 5 → let reads := c.opc ≠ 3
        let free (b : Nat) : Prop := ∃ e ∈ es, within (X e) n b
        (∀ e ∈ es, s.reachedBy free c.req .rmw (c.xAddr f e) n (X e) ∧ (reads → s.reachedBy free c.req .operand (c.yAddr f e) n (Y e))) →
        (c.status = 0 ∨ (s.reachedBy free c.req .store c.status 8 (key c.status) ∧ ∀ e ∈ es, apart (X e) n (key c.status) 8)) →
        (∀ e ∈ es, ∀ j ∈ es, e ≠ j → apart (X e) n (X j) n ∧ (reads → apart (Y e) n (X j) n)) →
        (∀ e ∈ es, reads → Y e = X e ∨ apart (Y e) n (X e) n) →
        let v (e : Nat) : Nat × Nat := mandrelResult c f (if c.opc = 3 ∨ c.opc = 4 then 0 else Memory.readN s.mem (X e) n)
          (if c.opc = 3 then 0 else Memory.readN s.mem (Y e) n)
        ∃ t : State, exec (mandrelInstr c.opc id) s = .next t ∧ done t (c.flags ||| allFlags es fun e => (v e).2)
          ∧ (∀ e ∈ es, Memory.readN t.mem (X e) n = (v e).1 % 2 ^ f.width)
          ∧ ∀ b, ¬free b → ¬(c.status ≠ 0 ∧ within (key c.status) 8 b) → Memory.read t.mem b = Memory.read s.mem b)
      ∧ (c.opc = 6 → c.elems ≠ [] → c.bits = 0 →
        let count := (c.base + (c.gl - 1) * n) / 64 + 1 - c.base / 64
        c.pos ≤ count →
        let bytes := (count + 7) / 8
        let at' (i : Nat) : Nat := (c.yaddr + i) % 2 ^ 64
        let free (b : Nat) : Prop := ∃ i < bytes, b = key (at' i)
        (∀ i < count, c.pos ≤ i → s.reachedBy free c.req .rmw ((c.base / 64 + i) * 64) 64 (key ((c.base / 64 + i) * 64))) →
        (∀ i < bytes, s.reachedBy free c.req .map (at' i) 1 (key (at' i))) →
        (c.status = 0 ∨ (s.reachedBy free c.req .store c.status 8 (key c.status) ∧ ∀ i < bytes, ¬within (key c.status) 8 (key (at' i)))) →
        ∃ t : State, exec (.mandrelScrub id) s = .next t ∧ done t c.flags ∧ (∀ i < bytes, Memory.read t.mem (key (at' i)) = 0)
          ∧ ∀ b, ¬free b → ¬(c.status ≠ 0 ∧ within (key c.status) 8 b) → Memory.read t.mem b = Memory.read s.mem b))
    ∧ (∀ (i : Instance) (J : Nat → Join) (who : Nat → Poster) (f : Fmt) (key : Nat → Nat → Nat),
      let p := i.ranks
      s.link.instances.filter (fun x => x.group == g) = [i] → i.timedOut = false → i.ends = none → i.joins = (List.range p).map J → 0 < p →
      (∀ q < p, (J q).rank = q ∧ (J q).block = (J 0).block ∧ (J q).hart = some (who q)) →
      let b := (J 0).block
      let opc := (b.extractLsb' 0 8).toNat
      let rop := (b.extractLsb' 24 3).toNat
      let n := (b.extractLsb' 64 32).toNat
      let root := (b.extractLsb' 96 32).toNat
      collBlockOk b.toNat = true → collFmt? b.toNat = some f → 8 ≤ f.width → (opc ≤ 2 → f.isInt = true) → (opc = 4 → root < p) →
      let w := f.width / 8
      let size := if opc = 2 ∨ opc = 3 then n * p else n
      let addr (q e : Nat) : Nat := ((J q).base + e * w) % 2 ^ 64
      let status (q : Nat) : Nat := key q (J q).status
      let free (y : Nat) : Prop := (∃ q < p, ∃ e < size, within (key q (addr q e)) w y) ∨ ∃ q < p, (J q).status ≠ 0 ∧ within (status q) 8 y
      (∀ q < p, ∀ e < size, s.reachedBy free ((J q).req (who q)) .load (addr q e) w (key q (addr q e))
        ∧ s.reachedBy free ((J q).req (who q)) .store (addr q e) w (key q (addr q e))) →
      (∀ q < p, (J q).status = 0 ∨ (s.reachedBy free ((J q).req (who q)) .store (J q).status 8 (status q) ∧ status q % 8 = 0
        ∧ ∀ r < p, ∀ e < size, apart (key r (addr r e)) w (status q) 8)) →
      (∀ q < p, ∀ e < size, ∀ r < p, ∀ j < size, (q, e) ≠ (r, j) → apart (key q (addr q e)) w (key r (addr r j)) w) →
      ∃ t : State, exec (collInstr opc g) s = .next t ∧ t.link.instances = s.link.instances.filter (fun x => x.group != g)
        ∧ s.quietHarts t ∧ t.gangs = s.gangs ∧ t.parts = s.parts
        ∧ (∀ q < p, ∀ e < size, Memory.readN t.mem (key q (addr q e)) w =
          (collected opc rop f p n root (fun r j => Memory.readN s.mem (key r (addr r j)) w) q e).getD
            (Memory.readN s.mem (key q (addr q e)) w))
        ∧ (∀ q < p, (J q).status ≠ 0 → Memory.readN t.mem (status q) 8 = statusOf 1 0)
        ∧ ∀ y, ¬free y → Memory.read t.mem y = Memory.read s.mem y)
    ∧ (∀ (i : Instance) (who : Join → Poster) (key : Join → Nat), s.link.instances.filter (fun x => x.group == g && x.k == i.k) = [i] →
      i.timedOut = false → i.closed = false → i.joins.length < i.ranks → (∀ j ∈ i.joins, j.hart = some (who j)) →
      let free (y : Nat) : Prop := ∃ j ∈ i.joins, j.status ≠ 0 ∧ within (key j) 8 y
      (∀ j ∈ i.joins, j.status = 0 ∨ (s.reachedBy free (j.req (who j)) .store j.status 8 (key j) ∧ key j % 8 = 0)) →
      let ended (t : State) : Prop := s.quietHarts t ∧ t.gangs = s.gangs ∧ t.parts = s.parts
        ∧ (∀ j ∈ i.joins, j.status ≠ 0 → Memory.readN t.mem (key j) 8 = statusOf 4 0)
        ∧ ∀ y, ¬free y → Memory.read t.mem y = Memory.read s.mem y
      (∃ t : State, exec (.collInstanceTimeout g i.k) s = .next t ∧ ended t
        ∧ t.link.instances.map (fun x => (x.group, x.k, x.timedOut)) = s.link.instances.map (fun x =>
            (x.group, x.k, x.timedOut || (x.group == g && x.k == i.k))))
      ∧ (s.link.instances.filter (fun x => x.group == g && !x.closed) = [i] →
        ∃ t : State, exec (.collGroupInvalidate g) s = .next t ∧ ended t
          ∧ (∀ y, y ∈ t.link.instances ↔ y ∈ s.link.instances ∧ y ≠ i)
          ∧ t.link.groups = Sparse.set 0 s.link.groups (2 * g) (BitVec.ofNat 64 (s.group0 g) &&& 0x7FFFFFFFFFFFFFFF#64)
          ∧ t.link.posts = s.link.posts.filter fun e => e.1 / 2 ^ 20 != g))
    ∧ ((∀ i ∈ s.link.instances, i.group = g → i.closed = true) → exec (.collGroupInvalidate g) s = .next { s with link := { s.link with
          groups := Sparse.set 0 s.link.groups (2 * g) (BitVec.ofNat 64 (s.group0 g) &&& 0x7FFFFFFFFFFFFFFF#64)
          posts := s.link.posts.filter fun e => e.1 / 2 ^ 20 != g } })
    ∧ ∀ (n rank : Nat) (block : BitVec 256) (data : List (BitVec 8)),
      (s.group0 g).testBit 63 = true → rank < s.groupRanks g → s.mine g ≠ some (rank / Max.max (s.groupHpd g) 1) →
      Sparse.get 0 s.link.posts (postKey g rank) = n → (∀ i ∈ s.link.instances, ¬(i.group = g ∧ i.k = n)) →
      ∃ j : Join, j.rank = rank ∧ j.hart = none ∧ j.block = block ∧ j.status = 0 ∧ (∀ e < data.length, j.data / 256 ^ e % 256 = (data.getD e 0).toNat)
        ∧ exec (.remoteRankJoin g n rank block data) s = .next { s with link := { s.link with
            instances := s.link.instances ++ [⟨g, n, [j], false, s.groupRanks g, false, none⟩]
            posts := Sparse.set 0 s.link.posts (postKey g rank) (n + 1) } }

/-- DOORBELL_ANNOUNCE of an index within the ring sets its window bit and the highest announced index; one outside raises interrupt code 3, and one for a queue with V = 0 does nothing. EXAMINE_RECORD of the announced record at HEAD of a mapped queue makes a legal one with met waits eligible, leaves one with an unmet wait, and passes one that fails its checks. EPOCH_END counts the epoch, unmaps the queues that are not ready, and maps a ready queue where its partition has a slot. GANG_PLACE launches the gang on free contexts of one cluster with the registers of R51, and HEAD advances. QD_WRITE writes a word of a descriptor whose V is 0; a write of word 0 that clears V unregisters the queue and takes effect, and every other write with V = 1 is ignored. Which free slot, contexts and tiles are taken, and the codes of words that cannot be read, are the model's choices (log entries 54 and 37). (21_stoxo_queues_and_scheduling.md: The queue in memory, 21_stoxo_queues_and_scheduling.md: The launch record, 21_stoxo_queues_and_scheduling.md: Completion counters and waits, 21_stoxo_queues_and_scheduling.md: Registration and mapping, 21_stoxo_queues_and_scheduling.md: Priority and the starvation bound, 21_stoxo_queues_and_scheduling.md: Placing gangs, 03_program_state.md: Vector registers and type tags) -/
def Obligations.SchedulerSteps : Prop :=
  ∀ (s : State) (q : BitVec 16) (x : Queue), s.queues.filter (fun y => y.q == q) = [x] →
    let becomes (y : Queue) : List Queue := s.queues.map fun z => if z.q == q then y else z
    let head := x.head.toNat
    let size := 2 ^ (x.qd0.extractLsb' 51 4).toNat
    let V := x.qd0.getLsbD 63
    let level := if x.prio = 7 then 7 else Min.min 6 (x.prio + (s.epochs - x.since))
    (∀ i : Word,
      (V = true → head ≤ i.toNat → i.toNat < head + size → ∃ y : Queue,
        exec (.doorbellAnnounce q i) s = .next { s with queues := becomes y }
        ∧ y = { x with window := y.window, highest := y.highest, since := y.since, offset := y.offset }
        ∧ (∀ n < 256, y.window.getLsbD n = (x.window.getLsbD n || n == i.toNat % 256))
        ∧ y.highest.map BitVec.toNat = some (Max.max i.toNat ((x.highest.map BitVec.toNat).getD 0)))
      ∧ (V = true → i.toNat < head ∨ head + size ≤ i.toNat →
        ∃ t : State, exec (.doorbellAnnounce q i) s = .next t ∧ t.queues = s.queues ∧ t.gangs = s.gangs ∧ t.pendingS x.part.val 3)
      ∧ (V = false → exec (.doorbellAnnounce q i) s = .next s))
    ∧ (∀ (r : List Word) (base log : Nat), V = true → x.window.getLsbD (head % 256) = true → x.slot.isSome = true →
      (∀ e ∈ s.eligible, e.queue ≠ q) → r.length = 8 →
      let p := x.part.val
      let header := x.qd1.toNat % 2 ^ 57
      let ring := x.qd2.toNat % 2 ^ 57
      let w (i : Nat) : Nat := (r.getD i 0).toNat
      (∀ j < 8, s.schedSees p (ring + 64 * (head % size) + 8 * j) (w j)) → s.schedSees p header base → s.schedSees p (header + 8) log →
      let good : Prop := base = ring ∧ log % 16 = (x.qd0.extractLsb' 51 4).toNat ∧ legalRecord r ∧ (s.parts[x.part]).largeEnough (r.getD 7 0)
      (good → s.waitMet p (w 4) (w 6 % 2 ^ 32) → s.waitMet p (w 5) (w 6 / 2 ^ 32) →
        ∃ t : State, exec (.examineRecord q) s = .next t ∧ t.eligible = s.eligible ++ [⟨q, x.head, r⟩]
          ∧ t.queues = s.queues ∧ t.gangs = s.gangs ∧ t.mem = s.mem ∧ s.quietHarts t)
      ∧ (good → s.waitMet p (w 4) 0 → s.waitMet p (w 5) 0 →
        ¬(s.waitMet p (w 4) (w 6 % 2 ^ 32) ∧ s.waitMet p (w 5) (w 6 / 2 ^ 32)) →
        ∃ t : State, exec (.examineRecord q) s = .next t ∧ t.eligible = s.eligible ∧ t.queues = s.queues ∧ t.gangs = s.gangs
          ∧ t.mem = s.mem ∧ s.quietHarts t)
      ∧ (¬good → ∃ (t : State) (y : Queue), exec (.examineRecord q) s = .next t ∧ t.queues = becomes y ∧ t.eligible = s.eligible
          ∧ t.gangs = s.gangs ∧ y.head = x.head + 1 ∧ y.window.getLsbD (head % 256) = false ∧ t.pendingS p 3))
    ∧ ((s.queues.map Queue.q).Nodup → (∀ y ∈ s.queues, y.ready = true → y.slot.isSome = true) → ∃ t : State, exec .epochEnd s = .next t
      ∧ t = { s with
          epochs := s.epochs + 1, epochStep := s.steps, eligible := t.eligible
          queues := s.queues.map fun y => { y with slot := if y.ready then y.slot else none, taken := false } }
      ∧ ∀ e ∈ t.eligible, e ∈ s.eligible)
    ∧ (s.queues.filter (fun y => y.ready && y.slot.isNone) = [x] → (s.queues.map Queue.q).Nodup → s.queues.length ≤ 1024 →
      (s.queues.filter fun y => y.part == x.part && y.slot.isSome).length < ((s.parts[x.part]).sch.extractLsb' 16 11).toNat →
      ∃ (t : State) (k : Nat), exec .epochEnd s = .next t ∧ t.epochs = s.epochs + 1 ∧ k < 1024
        ∧ t.queue? q = some { x with slot := some k, mapped := s.epochs + 1, taken := false }
        ∧ ∀ y ∈ t.queues, y.slot = some k → y.q = q)
    ∧ (∀ (e : Eligible) (slots : List Slot), s.eligible = [e] → e.queue = q →
      let c : Word := e.record.getD 7 0
      let n := (c.extractLsb' 55 9).toNat
      let grant : Grant := ⟨4 * 2 ^ (c.extractLsb' 53 2).toNat, (c.extractLsb' 49 4).toNat⟩
      let spad := (c.extractLsb' 35 13).toNat
      let burl := (c.extractLsb' 27 8).toNat
      let tiles := (c.extractLsb' 24 3).toNat
      let on (core : Nat) : Nat := (slots.filter fun y => y.core == core).length
      let skm := (x.qd0.extractLsb' 55 2).toNat
      (s.parts[x.part]).throttled = false → slots.length = n → 0 < n →
      slots.Pairwise (fun a b => a.core < b.core ∨ (a.core = b.core ∧ a.ctx < b.ctx)) →
      (∀ a ∈ slots, a.core < 384 ∧ a.ctx < 4 ∧ (s.parts[x.part]).holdsCore a.core = true ∧ (∀ b ∈ slots, a.core / 96 = b.core / 96)
        ∧ on a.core * (spad * 256 + burl * 4096) ≤ 0x180000 ∧ on a.core * tiles ≤ 4
        ∧ ∀ h ∈ s.harts, coreOf h.id = a.core → h.wait = .vacant ∨ h.wait = .ended) →
      ∃ (t : State) (g : Gang), exec (.gangPlace q slots grant) s = .next t ∧ t.gangs = s.gangs ++ [g]
        ∧ g.size = n ∧ g.grant = grant ∧ g.part = x.part ∧ g.queue = q ∧ g.sig = e.record.getD 3 0 ∧ g.prio = level
        ∧ g.arr = 0 ∧ g.gen = 0 ∧ g.ended = 0 ∧ g.spad = spad ∧ g.burl = burl ∧ g.tiles = tiles
        ∧ (∀ i a, slots[i]? = some a → ∃ h, t.hart? (4 * a.core + a.ctx) = some h
            ∧ h.Launches g e.record i (if skm = 1 then true else if skm = 2 then false else c.getLsbD 48))
        ∧ t.eligible = [] ∧ ∃ y, t.queue? q = some y ∧ y.head = x.head + 1)
    ∧ (∀ (word : Fin 4) (w : Word),
      (V = true → word ≠ 0 ∨ w.getLsbD 63 = true → exec (.qdWrite q word w) s = .next s)
      ∧ (V = true → w.getLsbD 63 = false → ∃ t : State, exec (.queueUnregister q) s = .next t ∧ exec (.qdWrite q 0 w) s = .next { t with
          queues := t.queues.map fun y => if y.q == q then { y with qd0 := w &&& 0xFFFF000000000000#64 } else y })
      ∧ (V = false →
        let log := (w.extractLsb' 51 4).toNat
        (w.getLsbD 63 = true → log < 4 ∨ 8 < log → exec (.qdWrite q 0 w) s = .next s)
        ∧ (w.getLsbD 63 = false ∨ (4 ≤ log ∧ log ≤ 8) →
          exec (.qdWrite q 0 w) s = .next { s with queues := becomes { x with qd0 := w &&& 0xFFFF000000000000#64, since := s.epochs, offset := s.steps - s.epochStep } })
        ∧ exec (.qdWrite q 1 w) s = .next { s with queues := becomes { x with qd1 := w &&& 0x01FFFFFFFFFFFFC0#64 } }
        ∧ exec (.qdWrite q 2 w) s = .next { s with queues := becomes { x with qd2 := w &&& 0x01FFFFFFFFFFFFC0#64 } }
        ∧ exec (.qdWrite q 3 w) s = .next s))
    ∧ (V = true → x.highest = none → exec (.queueUnregister q) s = .next { s with
        eligible := s.eligible.filter fun e => e.queue != q
        queues := becomes { x with qd0 := x.qd0 &&& 0x7FFFFFFFFFFFFFFF#64, window := 0, highest := none, slot := none } })

/-- GANG_PREEMPT of a gang without windows, matrix entries and write-backs at lessors, and with nothing under way that may not be divided, writes, while the context engine runs, with a free context slot that its engine may store to, the gang's area and frees its contexts; without a free slot it raises interrupt code 6, and with the engine stopped nothing happens; TIME_SLICE_END pre-empts a gang whose slice has run while an equal waits, unless its every hart is frozen, and POWER_GRANT_ADOPT_TIMEOUT one that has not adopted its grant. GANG_RESUME on the saved contexts, once nothing that the gang issued is out any more, reads the area back: each hart has the PC, scalar registers and gang of its record. FRZCMD_UNFREEZE and FRZCMD_KILL lift the freeze and end the gang; both ignore a hart that is not frozen. PART_WRITE takes a value that meets no other partition while no gang is resident. POWER_SAMPLE records its figures, and halves the lanes of the lowest gang while the module is over its cap. What a pre-emption waits for, the pace of the power controller and the writes that a block ignores are the model's readings and choices (log entries 56, 57 and 58). (23_traps_preemption_context.md: Pre-emption, 21_stoxo_queues_and_scheduling.md: Pre-emption, 20_privileged_state_and_partitions.md: Freezing and its resolution, 20_privileged_state_and_partitions.md: Partitions, 26_bringup_security_power.md: Power, 95_what_each_step_holds.md) -/
def Obligations.GangSteps : Prop :=
  ∀ (s : State) (g : Nat), Memory.wf s.mem = true →
    (∀ x : Gang, s.gangs.filter (fun y => y.id == g) = [x] →
      let p := x.part.val
      let q := s.parts[x.part]
      let mine (h : Hart) : Prop := h.gang = some g
      let divisible : Prop := ∀ h ∈ s.harts, mine h → h.undivided = false ∧ (∀ t, h.wait ≠ .trap t) ∧ ∀ e ∈ h.win, e.dirty = false
      (0x2400 + p ∈ q.frozenEngines → exec (.gangPreempt g) s = .next s)
      ∧ (x.leaving = none → 0x2400 + p ∉ q.frozenEngines →
        (q.ctxp.getLsbD 63 = false ∨ ∀ i < q.ctxn.toNat / 2 ^ 16 % 2 ^ 16, i ∈ q.usedSlots) →
        ∃ t : State, exec (.gangPreempt g) s = .next t ∧ t = { s with cur := t.cur, others := t.others } ∧ t.pendingS p 6)
      ∧ (∀ i : Nat, divisible → x.leaving = none → 0x2400 + p ∉ q.frozenEngines →
        (∀ r ∈ s.link.sent, ∀ h ∈ s.harts, mine h → r.id ≠ chuckId h.id) → (∀ e ∈ s.mxq, ∀ h ∈ s.harts, h.id = e.hart → ¬mine h) →
        (∀ h ∈ s.harts, mine h → h.lane = none ∧ (∀ k : KIdx, (h.k[k]).phase = .invalid) ∧ h.wait ≠ .vacant) →
        (s.harts.map Hart.id).Nodup → (∀ r ∈ s.regions, r.gang ≠ g) → x.size < 2 ^ 16 → x.arr < 2 ^ 16 →
        q.ctxp.getLsbD 63 = true → i < q.ctxn.toNat / 2 ^ 16 % 2 ^ 16 → i ∉ q.usedSlots → (∀ j < i, j ∈ q.usedSlots) →
        let base := q.ctxp.toNat / 2 ^ 21 % 2 ^ 31 * 2 ^ 21 + i * (q.ctxn.toNat % 2 ^ 16) * 2 ^ 20
        let live := s.harts.filter fun h => h.gang == some g && h.wait != .ended
        (∀ n < 64 + live.length * 6144, ∃ u, placeOf (base + 64 * n) = .dram u ∧ s.denied (.mem u) (0x2400 + p) .wr = none) →
        ∃ (t : State) (v : Saved), exec (.gangPreempt g) s = .next t
          ∧ t.gangs = s.gangs.filter (fun y => y.id != g) ∧ t.saved = s.saved ++ [v] ∧ v.gang = x ∧ v.slot = i
          ∧ (t.parts[x.part]).usedSlots = q.usedSlots ++ [i]
          ∧ (∀ h ∈ t.harts, ¬mine h) ∧ (∀ l ∈ t.links, ∀ h ∈ s.harts, h.id = l.hart → ¬mine h)
          ∧ Memory.readN t.mem base 8 = x.size * 2 ^ 48 + x.arr * 2 ^ 32 + x.gen.toNat
          ∧ (∀ y, (y < base ∨ base + 4096 + live.length * 0x60000 ≤ y) → Memory.read t.mem y = Memory.read s.mem y)
          ∧ ∀ n < x.size, (∀ j ≤ n, ∃ h, live.filter (fun h => h.parent.isNone && h.index == j) = [h]) →
            ∀ h ∈ live, h.parent = none → h.index = n →
            Memory.readN t.mem (base + 4096 + n * 0x60000 + 0x200) 8 = h.pc.toNat % 2 ^ 57
            ∧ ∀ r : SReg, r ≠ 0 → Memory.readN t.mem (base + 4096 + n * 0x60000 + 8 * r.val) 8 = (h.s[r]).toNat)
      ∧ (let slice := Max.max 10 (q.sch.toNat % 2 ^ 16)
        let equal : Prop := (∃ e ∈ s.eligible, ∃ y, s.queue? e.queue = some y ∧ y.part = x.part
            ∧ (if y.prio = 7 then 7 else Min.min 6 (y.prio + (s.epochs - y.since))) = x.prio)
          ∨ ∃ v ∈ s.saved, v.gang.part = x.part ∧ (if v.prio = 7 then 7 else Min.min 6 (v.prio + (s.epochs - v.since))) = x.prio
        let run : Prop := slice ≤ 20 * (s.epochs + 1 - x.slice) ∧ equal
          ∧ ∃ h ∈ s.harts, mine h ∧ h.wait ≠ .vacant ∧ h.wait ≠ .ended ∧ h.frozen = false
        (run → exec (.timeSliceEnd g) s = exec (.gangPreempt g) s) ∧ (¬run → exec (.timeSliceEnd g) s = .next s))
      ∧ (x.pending = none → exec (.powerGrantAdoptTimeout g) s = .next s)
      ∧ (x.pending ≠ none → (∃ h ∈ s.harts, mine h ∧ h.pending ≠ none ∧ h.wait ≠ .ended) →
        exec (.powerGrantAdoptTimeout g) s = exec (.gangPreempt g) s)
      ∧ (s.cur.frozen = true → s.cur.resident = true → mine s.cur → ∃ t : State, exec (.frzcmdKill s.cur.id) s = .next t
          ∧ t.gangs = s.gangs.filter (fun y => y.id != g) ∧ (∀ h ∈ t.harts, ¬mine h) ∧ (∀ r ∈ t.regions, r.gang ≠ g)
          ∧ (∀ l ∈ t.links, l.hart ≠ s.cur.id) ∧ ∀ e ∈ t.mxq, e.hart ≠ s.cur.id))
    ∧ (s.cur.resident = true → s.cur.frozen = false →
      exec (.frzcmdKill s.cur.id) s = .next s ∧ exec (.frzcmdUnfreeze s.cur.id) s = .next s)
    ∧ (s.cur.resident = true → s.cur.frozen = true → (s.cur.frzst.extractLsb' 29 3).toNat ≠ 7 →
      exec (.frzcmdUnfreeze s.cur.id) s = .next { s with cur := { s.cur with frozen := false } })
    ∧ (s.cur.resident = true → s.cur.frozen = true → (s.cur.frzst.extractLsb' 29 3).toNat = 7 → s.cur.gang = some g →
      ∃ t : State, exec (.frzcmdUnfreeze s.cur.id) s = .next t ∧ t = { s with cur := t.cur, others := t.others, gangs := t.gangs }
        ∧ ∀ h ∈ t.harts, h.gang = some g → h.frozen = true → (h.frzst.extractLsb' 29 3).toNat ≠ 7)
    ∧ (∀ (v : Saved), s.saved.filter (fun v => v.gang.id == g) = [v] → v.gang.id = g → v.regions = [] →
      (∀ h ∈ v.harts, (∀ k : KIdx, (h.k[k]).phase = .invalid) ∧ h.gang = some g) → (s.gangs.map Gang.id).all (fun y => y != g) = true →
      let busy : Prop := (∃ c ∈ s.nmcq, c.gang = some g) ∨ (∃ i ∈ s.link.instances, ∃ j ∈ i.joins, ∃ w, j.hart = some w ∧ w.gang = some g)
        ∨ ∃ r ∈ s.link.sent, r ∈ v.sent ∨ ∃ h ∈ v.harts, r.id = engineId h.id
      (busy → ∀ slots grant, exec (.gangResume g slots grant) s = .next s)
      ∧ (¬busy →
      let p := v.gang.part.val
      let slots : List Slot := v.harts.map fun h => ⟨coreOf h.id, h.id % 4⟩
      (∀ h ∈ v.harts, h.id < 1536) → s.resumeOk v slots = true → (s.parts[v.gang.part]).throttled = false → 0x2400 + p ∉ (s.parts[v.gang.part]).frozenEngines →
      (v.gang.request.lanes = 4 ∨ v.gang.request.lanes = 8 ∨ v.gang.request.lanes = 16) → 1 ≤ v.gang.request.q →
      let base := (s.parts[v.gang.part]).ctxp.toNat / 2 ^ 21 % 2 ^ 31 * 2 ^ 21 + v.slot * ((s.parts[v.gang.part]).ctxn.toNat % 2 ^ 16) * 2 ^ 20
      (∀ n < 64 + v.harts.length * 6144, s.admits (0x2400 + p) (base + 64 * n) 0 .rd) → base % 64 = 0 →
      v.gang.headerOk (Memory.readN s.mem base 4096) v.harts.length 0 = true →
      let W (n off : Nat) : Nat := Memory.readN s.mem (base + 4096 + n * 0x60000 + off) 8
      ∃ (t : State) (g' : Gang), exec (.gangResume g slots v.gang.request) s = .next t ∧ t.gangs = s.gangs ++ [g']
        ∧ g'.id = g ∧ g'.grant = v.gang.request ∧ t.saved = s.saved.filter (fun w => w.gang.id != g)
        ∧ v.slot ∉ (t.parts[v.gang.part]).usedSlots ∧ t.mem = s.mem
        ∧ ∀ n h, v.harts[n]? = some h → ∃ k, t.hart? h.id = some k ∧ k.gang = some g ∧ k.wait = h.wait ∧ k.prv = h.prv
          ∧ k.pc = BitVec.ofNat 64 (W n 0x200 % 2 ^ 57) ∧ ∀ r : SReg, r ≠ 0 → k.s[r] = BitVec.ofNat 64 (W n (8 * r.val))))
    ∧ (∀ (p : Fin 8) (w : Word),
      let held (x y : Word) : Word := x &&& y &&& 0x000000FFFFFF00FF#64
      ((∀ x ∈ s.gangs, x.part ≠ p) → (w.getLsbD 63 = false ∨ ∀ q : Fin 8, q ≠ p → (s.parts[q]).part.getLsbD 63 = false ∨
          held (s.parts[q]).part w = 0) →
        exec (.partWrite p w) s = .next { s with parts := s.parts.set p { s.parts[p] with part := w &&& 0x800000FFFFFF00FF#64 } })
      ∧ ((∃ q : Fin 8, q ≠ p ∧ w.getLsbD 63 = true ∧ (s.parts[q]).part.getLsbD 63 = true ∧ held (s.parts[q]).part w ≠ 0) →
        exec (.partWrite p w) s = .next s))
    ∧ ∀ (module : Nat) (parts : List Nat) (temp : BitVec 16) (energy : Word), (∀ x ∈ s.gangs, x.pending = none) →
      let cap := Min.min 2200 (s.sec.mcap.toNat % 2 ^ 16)
      let budget (p : Fin 8) : Nat := (s.parts[p]).pbud.toNat % 2 ^ 16
      let above (p : Fin 8) : Prop := (s.parts[p]).pbud ≠ 0 ∧ budget p < parts.getD p.val 0 % 2 ^ 16
      let sampled (t : State) : Prop := ∀ p : Fin 8, ∃ th, t.parts[p] = { s.parts[p] with
        average := BitVec.ofNat 16 (parts.getD p.val 0), throttled := th
        tmax := if (s.parts[p]).telen.getLsbD 0 then temp.setWidth 64 else (s.parts[p]).tmax
        energy := if (s.parts[p]).telen.getLsbD 0 then energy else (s.parts[p]).energy } ∧ (th = true ↔ cap < module ∨ above p)
      (module ≤ cap → (∀ p, ¬above p) → s.sec.below + 1 < 100 → ∃ t : State, exec (.powerSample module parts temp energy) s = .next t
        ∧ sampled t ∧ t.gangs = s.gangs ∧ t.harts = s.harts ∧ t.mem = s.mem)
      ∧ ∀ x : Gang, cap < module → s.gangs.filter (fun y => y.id == x.id) = [x] → 4 < x.grant.lanes →
        (∀ y ∈ s.gangs, 4 < y.grant.lanes → x.prio < y.prio ∨ (x.prio = y.prio ∧ (x.placed < y.placed ∨ y = x))) →
        ∃ t : State, exec (.powerSample module parts temp energy) s = .next t ∧ sampled t ∧ t.mem = s.mem
          ∧ t.gangs = s.withGang { x with pending := some ⟨Max.max 4 (x.grant.lanes / 2), x.grant.q⟩ }
          ∧ t.harts = s.harts.map fun h => if h.gang = some x.id then
              { h with pending := some ⟨Max.max 4 (x.grant.lanes / 2), x.grant.q⟩ } else h

/-- CONTROLLER_READ, CONTROLLER_PARTIAL_STORE and CONTROLLER_FULL_STORE of a permitted master at an undamaged sector of main memory answer with its 64 bytes at class 0, write the enabled bytes, and write all 64 bytes under the layout, clearing damage; a refused hart is frozen. A replayed tag that a target has performed gets the stored outcome again and nothing is performed. ERRPOP removes the oldest record, PDAT_REMOVE the entry that PSEL reaches, EFRZCMD the freeze of the engine named. A word with a double-bit error is marked for a rebuild; a rebuild from a clean column restores it. LANE_SUSPECT at the threshold queues a record of source 12 and clears the count. The refresh steps reset their counter, and a take-over of refresh queues a record of source 8. A patrol step reads its sector and moves to the next one; the end of a pass is counted with LATE. (24_reliability_and_protection.md: Sector codes, 24_reliability_and_protection.md: Exactly-once tags, 24_reliability_and_protection.md: Scratchpad protection, 24_reliability_and_protection.md: Error registers, 24_reliability_and_protection.md: DRAM disturbance and refresh, 24_reliability_and_protection.md: Patrol scrubbing, 24_reliability_and_protection.md: The Skew pass, 20_privileged_state_and_partitions.md: Freezing and its resolution) -/
def Obligations.MemoryUnitSteps : Prop :=
  ∀ (s : State), Memory.wf s.mem = true →
    (∀ (mid : BitVec 16) (sector u : Nat) (layout : BitVec 4), placeOf sector = .dram u → sector % 64 = 0 →
      (∀ p kind, s.denied (.mem u) mid.toNat p = some kind → mid.toNat = s.cur.id → mid.toNat < 2 ^ 13 →
        let frozen (i : Instr) : Prop := ∃ t : State, exec i s = .next t ∧ t.cur.frozen = true ∧ t.mem = s.mem
          ∧ (t.cur.frzst.extractLsb' 27 2).toNat = kind % 4 ∧ (t.cur.frzst.extractLsb' 29 3).toNat = 0
        (p = .rd → frozen (.controllerRead mid sector layout))
        ∧ (p = .wr → ∀ data en, frozen (.controllerPartialStore mid sector layout data en) ∧ frozen (.controllerFullStore mid sector layout data)))
      ∧ (s.denied (.mem u) mid.toNat .rd = none → s.intact u sector layout.toNat → ∃ t : State, exec (.controllerRead mid sector layout) s = .next t
        ∧ t = { s with reply := some (.sector 0 (BitVec.ofNat 512 (Memory.readN s.mem sector 64))), seqCount := t.seqCount, performed := t.performed })
      ∧ (s.denied (.mem u) mid.toNat .wr = none → ∀ (data : BitVec 512),
        (∀ en : BitVec 64, s.intact u sector layout.toNat → ∃ t : State, exec (.controllerPartialStore mid sector layout data en) s = .next t
          ∧ t.reply = some .done ∧ s.quietHarts t ∧ (∀ b, t.sectorAt b = s.sectorAt b) ∧ (∀ l ∈ t.links, l.line ≠ sector / 64 ∧ l ∈ s.links)
          ∧ (∀ b < 64, Memory.read t.mem (sector + b) = if en.getLsbD b then data.extractLsb' (8 * b) 8 else Memory.read s.mem (sector + b))
          ∧ ∀ y, ¬within sector 64 y → Memory.read t.mem y = Memory.read s.mem y)
        ∧ (s.recordOnce u sector → ∃ t : State, exec (.controllerFullStore mid sector layout data) s = .next t
          ∧ t.reply = some .done ∧ s.quietHarts t ∧ t.intact u sector layout.toNat ∧ (∀ l ∈ t.links, l.line ≠ sector / 64 ∧ l ∈ s.links)
          ∧ (∀ b < 64, Memory.read t.mem (sector + b) = data.extractLsb' (8 * b) 8)
          ∧ ∀ y, ¬within sector 64 y → Memory.read t.mem y = Memory.read s.mem y)))
    ∧ (∀ (mid : BitVec 16) (sector : Nat) (layout : BitVec 4) (data : BitVec 512) (en : BitVec 64), (∀ u, placeOf sector ≠ .dram u) →
      exec (.controllerRead mid sector layout) s = .fault .unbackedAddress
      ∧ exec (.controllerPartialStore mid sector layout data en) s = .fault .unbackedAddress
      ∧ exec (.controllerFullStore mid sector layout data) s = .fault .unbackedAddress)
    ∧ (∀ tag : BitVec 32, let again : Host.Outcome State Fault Refusal := match s.performed.find? fun r => r.tag == tag with
        | some r => .next { s with reply := some (.outcome r.outcome) }
        | none => .next s
      exec (.linkResponseLost tag) s = again ∧ exec (.responseTimeout tag) s = again)
    ∧ (∀ (p : Fin 8) (w : Word), let q := s.parts[p]
      (w ≠ 1 → exec (.errpop p w) s = .next s)
      ∧ (2 ≤ q.errors.length → exec (.errpop p 1) s = .next { s with parts := s.parts.set p { q with errors := q.errors.tail } })
      ∧ (q.errors.length ≤ 1 → ∃ t : State, exec (.errpop p 1) s = .next t ∧ t.parts = s.parts.set p { q with errors := [] }
          ∧ t.mem = s.mem ∧ ∀ h, t.hart? (0x8000 + p.val) = some h → h.sset.tstate.getLsbD 18 = false)
      ∧ ((w.extractLsb' 16 2 ≠ 1 ∨ w.extractLsb' 18 46 ≠ 0) → exec (.efrzcmdUnfreeze p w) s = .next s)
      ∧ (w.extractLsb' 16 2 = 1 → w.extractLsb' 18 46 = 0 → exec (.efrzcmdUnfreeze p w) s = .next { s with
          parts := s.parts.set p { q with frozenEngines := q.frozenEngines.filter fun e => e != (w.extractLsb' 0 16).toNat } })
      ∧ (let u := (q.psel.extractLsb' 16 5).toNat
        let n := (q.psel.extractLsb' 0 9).toNat
        let key := 512 * dieOf u + n
        let e := Sparse.get 0 s.memctl.poison key
        q.psel.getLsbD 63 = false → u < 24 → q.holdsUnit u = true →
        (e = 0 → exec (.pdatRemove p) s = .next s)
        ∧ (e ≠ 0 → (∃ v, placeOf (e - 1) = .dram v ∧ q.holdsUnit v = true) →
          exec (.pdatRemove p) s = .next { s with memctl := { s.memctl with poison := Sparse.set 0 s.memctl.poison key 0 } })))
    ∧ (∀ core word : Nat, word < 393216 →
      let key := core * 393216 + word
      let bits (x : BitVec 39) : Nat := ((List.range 39).filter fun i => x.getLsbD i).length
      let flips := Sparse.get 0 s.spadFlips key
      (bits flips ≤ 1 ∨ (core, word) ∈ s.rebuilding → exec (.scratchpadRebuild core word) s = .next s)
      ∧ (2 ≤ bits flips → (core, word) ∉ s.rebuilding →
        exec (.scratchpadRebuild core word) s = .next { s with rebuilding := s.rebuilding ++ [(core, word)] })
      ∧ ((core, word) ∉ s.rebuilding → exec (.scratchpadRebuildComplete core word) s = .next s)
      ∧ ((core, word) ∈ s.rebuilding → 2 ≤ bits flips → bits (s.rebuildFlips core word) ≤ 1 →
        ∃ t : State, exec (.scratchpadRebuildComplete core word) s = .next t ∧ t = { s with
            rebuilding := s.rebuilding.filter fun x => x != (core, word), spadFlips := Sparse.set 0 s.spadFlips key 0
            parityFlips := t.parityFlips }
          ∧ (bits (Sparse.get 0 s.parityFlips (core * 6144 + (word / 4096 * 64 + word % 64))) ≤ 1 → t.parityFlips = s.parityFlips))
      ∧ ((core, word) ∈ s.rebuilding → 2 ≤ bits flips → 2 ≤ bits (s.rebuildFlips core word) →
        ∃ t : State, exec (.scratchpadRebuildComplete core word) s = .next t ∧ t.mem = s.mem ∧ t.spadFlips = s.spadFlips
          ∧ (core, word) ∉ t.rebuilding ∧ t.pendingS (s.partOfCore core) 2))
    ∧ (∀ (core : Nat) (lane : Fin 16),
      let key := core * 16 + lane.val
      let th := ((s.partAt (s.partOfCore core)).errctl.extractLsb' 8 8).toNat
      (th = 0 ∨ Sparse.get 0 s.laneCount key < th → exec (.laneSuspect core lane) s = .next s)
      ∧ (0 < th → th ≤ Sparse.get 0 s.laneCount key → ∃ t : State, exec (.laneSuspect core lane) s = .next t
        ∧ t.laneCount = Sparse.set 0 s.laneCount key 0 ∧ t.mem = s.mem ∧ t.pendingS (s.partOfCore core) 2
        ∧ ((s.partAt (s.partOfCore core)).errors = [] → (t.partAt (s.partOfCore core)).errors = [⟨0, 12, 0, 0, core, 0, core * 2 ^ 32 + lane.val⟩])))
    ∧ (∀ (stack : Fin 8) (bank row : Nat),
      let key := stack.val * 2 ^ 48 + bank * 2 ^ 32 + row
      let p := s.partOfUnit (2 * stack.val)
      exec (.periodicRefresh stack bank row) s
        = .next { s with memctl := { s.memctl with rowCount := Sparse.set 0 s.memctl.rowCount key 0 } }
      ∧ (Sparse.get false s.memctl.rowParityBad key = false → exec (.rowCounterRefresh stack bank row) s
        = .next { s with memctl := { s.memctl with
            rowCount := Sparse.set 0 s.memctl.rowCount key 0, rowParityBad := Sparse.set false s.memctl.rowParityBad key false } })
      ∧ (Sparse.wf 0 s.memctl.rowCount = true → Sparse.get false s.memctl.rowParityBad key = true → ∃ t : State, exec (.rowCounterRefresh stack bank row) s = .next t
        ∧ Sparse.get 0 t.memctl.rowCount key = 0 ∧ t.mem = s.mem ∧ t.pendingS p 2
        ∧ ((s.partAt p).errors = [] → (t.partAt p).errors = [⟨0, 7, 0, 0, stack.val, 0, 0⟩]))
      ∧ (∃ t : State, exec (.fallbackRefreshTakeover stack) s = .next t ∧ t.mem = s.mem ∧ t.pendingS p 2
        ∧ (∀ i < 8, t.memctl.fallback.getLsbD i = (s.memctl.fallback.getLsbD i || i == stack.val))
        ∧ ((s.partAt p).errors = [] → (t.partAt p).errors = [⟨0, 8, 0, 0, stack.val, 0, 0⟩]))
      ∧ ∃ f : BitVec 8, (∀ i < 8, f.getLsbD i = (s.memctl.fallback.getLsbD i && i != stack.val))
        ∧ exec (.baseDieCoreRestart stack) s = .next { s with memctl := { s.memctl with fallback := f } })
    ∧ ∀ (unit : Fin 24) (late : Bool),
      let p := s.partOfUnit unit.val
      let q := s.partAt p
      let base := if unit.val < 16 then unit.val * 2 ^ 35 else 2 ^ 39 + (unit.val - 16) * 2 ^ 37
      let n := Sparse.get 0 s.memctl.patrol unit.val
      let runs : Prop := q.patcfg.getLsbD 63 = true ∧ (unit.val < 16 → s.memctl.fallback.getLsbD (unit.val / 2) = false)
        ∧ 0x2600 + unit.val ∉ q.frozenEngines
      (¬runs → exec (.patrolScrubSector unit) s = .next s)
      ∧ (runs → s.denied (.mem unit.val) (0x2600 + unit.val) .rd = none → (∃ k, s.intact unit.val (base + 64 * n) k) →
        ∃ t : State, exec (.patrolScrubSector unit) s = .next t ∧ t = { s with
          memctl := { s.memctl with
            patrol := Sparse.set 0 s.memctl.patrol unit.val ((n + 1) % (if unit.val < 16 then 2 ^ 29 else 2 ^ 31)) }
          seqCount := t.seqCount, performed := t.performed })
      ∧ (runs → s.denied (.mem unit.val) (0x2600 + unit.val) .rd ≠ none → ∃ t : State, exec (.patrolScrubSector unit) s = .next t
        ∧ t.mem = s.mem ∧ 0x2600 + unit.val ∈ (t.partAt p).frozenEngines ∧ (q.holdsUnit unit.val = true → t.pendingS p 1))
      ∧ ∃ w : Word, w.getLsbD 63 = late ∧ (w.extractLsb' 0 32).toNat = ((q.patstat.extractLsb' 0 32).toNat + 1) % 2 ^ 32
        ∧ ∃ t : State, exec (.patrolPassEnd unit late) s = .next t ∧ (t.partAt p) = { q with patstat := w }
          ∧ t = { s with memctl := { s.memctl with patrol := Sparse.set 0 s.memctl.patrol unit.val 0 }, parts := t.parts }

/-- INVA_WRITE queues an invalidation and INVALIDATION_COMPLETE takes the oldest one, where no window holds an element, once the partition's requests to lessors are performed, and breaks the links that it covers. PROBE_REWALK lets a stalled hart go on once its page is settled. MCMD_START refuses a busy engine, an unmapped page, a misaligned place or one outside the partition with its RESULT, and else sets MIG in the leaf and breaks the links of the page; MIGRATION_COMPLETE copies an undamaged page, points the leaf at it and raises interrupt code 4. The answers of the host to translation and page requests, and its invalidations, change the partition's record of translations. BAR accesses of an assigned function that is not frozen ring doorbells and read HEAD, reach registers and memory, and are refused otherwise: every one of them completes. A peer's permitted request is performed in main memory, its links and conditional stores with it, and a frozen or refused one gets an error. FNCTL, PEERST, LREVOKE, lease and port steps change their bits as the rules give; the answer of a lessor goes to the oldest request of its sector: a load's hart goes on, a store ends, and a refused store is recorded as a loss; a time-out refuses. The exchange with a lessor, what an invalidation, a revocation or a move waits for there, and NPOIS at the start of a move are the model's choices (log entries 21, 65 and 66). (22_translation_and_migration.md: Invalidation, 22_translation_and_migration.md: Migration between tiers, 22_translation_and_migration.md: Leased peer memory, 25_host_and_peers.md: The host link, 25_host_and_peers.md: The UALink domain, 20_privileged_state_and_partitions.md: Freezing and its resolution) -/
def Obligations.TranslationAndLinkSteps : Prop :=
  ∀ (s : State), Memory.wf s.mem = true →
    (∀ (p : Fin 8) (w : Word), let q := s.parts[p]
      exec (.invaWrite p w) s = .next { s with parts := s.parts.set p { q with inva := q.inva ++ [w &&& 0x01FFFFFFFFFFF007#64] } }
      ∧ (q.inva = [] → exec (.invalidationComplete p) s = .next s)
      ∧ (∀ v vs, q.inva = v :: vs → s.noWindows p.val → ∃ t : State, exec (.invalidationComplete p) s = .next t
        ∧ ((∀ r ∈ s.link.sent, s.partOfMaster r.id ≠ p.val) →
          t = { s with links := t.links, parts := s.parts.set p { q with inva := vs, ats := [] } })
        ∧ ((∃ r ∈ s.link.sent, s.partOfMaster r.id = p.val) → t = { s with links := t.links })
        ∧ ∀ l, l ∈ t.links ↔ l ∈ s.links ∧ ∀ h, s.hart? l.hart = some h → h.part = p →
            ¬invalidated (v.extractLsb' 0 3).toNat ((v.extractLsb' 12 45).toNat * 4096) l.va))
    ∧ (∀ (va : Nat) (l : Leaf) (s1 : State), s.cur.wait = .probe va → s.walk s.cur.req va = (.ok l, s1) →
      exec (.probeRewalk s.cur.id) s = .next (if l.entry.testBit 58 then s else { s with cur := { s.cur with wait := .run } }))
    ∧ (s.cur.wait = .run → exec (.probeRewalk s.cur.id) s = .next s)
    ∧ (∀ (p : Fin 8) (l : Leaf), let q := s.parts[p]
      let mid := 0x2200 + p.val
      let va := q.mva.toNat / 4096 % 2 ^ 45 * 4096
      let dst := q.mdst.toNat / 4096 % 2 ^ 40 * 4096
      let result (n : Nat) : Host.Outcome State Fault Refusal :=
        .next { s with parts := s.parts.set p { q with mresult := BitVec.ofNat 3 n } }
      (q.migration.isSome = true → exec (.mcmdStart p) s = result 4)
      ∧ (q.migration = none → mid ∉ q.frozenEngines →
        (∀ k, s.walk ⟨mid, .s, p.val, none⟩ va = (.error (.fault k), s) → q.refused = [] → exec (.mcmdStart p) s = result 1)
        ∧ (s.walk ⟨mid, .s, p.val, none⟩ va = (.ok l, s) →
          (dst % l.size ≠ 0 → exec (.mcmdStart p) s = result 2)
          ∧ (dst % l.size = 0 → (¬∃ u, placeOf dst = .dram u ∧ placeOf (dst + l.size - 1) = .dram u ∧ q.holdsUnit u = true) →
            exec (.mcmdStart p) s = result 3)
          ∧ (dst % l.size = 0 → (∃ u, placeOf dst = .dram u ∧ placeOf (dst + l.size - 1) = .dram u ∧ q.holdsUnit u = true) →
            l.size = 4096 ∨ l.size = 2 ^ 21 ∨ l.size = 2 ^ 30 → l.at' % 8 = 0 → (∃ k, s.admits mid l.at' k .wr) → s.noWindows p.val →
            l.entry < 2 ^ 64 →
            let old := l.entry / 4096 % 2 ^ 40 * 4096
            ∃ t : State, exec (.mcmdStart p) s = .next t
              ∧ (t.parts[p]).migration = some ⟨va / l.size * l.size, l.size, old, dst, [l.at'], BitVec.ofNat 64 l.entry &&& ~~~(1#64 <<< 58)⟩
              ∧ (t.parts[p]).npois = 0 ∧ s.quietHarts t
              ∧ Memory.readN t.mem l.at' 8 = (BitVec.ofNat 64 l.entry ||| (1#64 <<< 58)).toNat
              ∧ (∀ y, ¬within l.at' 8 y → Memory.read t.mem y = Memory.read s.mem y)
              ∧ ∀ x ∈ t.links, x ∈ s.links ∧ ¬(old / 64 ≤ x.line ∧ x.line < (old + l.size) / 64))))
      ∧ (q.migration = none → exec (.migrationComplete p) s = .next s)
      ∧ ∀ (m : Migration) (leaf : Nat), q.migration = some m → mid ∉ q.frozenEngines → m.leaves = [leaf] → leaf % 8 = 0 →
        m.size % 64 = 0 → m.oldPa % 64 = 0 → m.newPa % 4096 = 0 → m.newPa < 2 ^ 52 → s.noWindows p.val →
        (∀ r ∈ s.link.sent, ¬within m.oldPa m.size r.pa) →
        let layout := m.leaf.toNat / 2 ^ 59 % 16
        (∀ n < m.size / 64, s.admits mid (m.oldPa + 64 * n) layout .rd
          ∧ ∃ u, placeOf (m.newPa + 64 * n) = .dram u ∧ s.denied (.mem u) mid .wr = none) →
        (∃ k, s.admits mid leaf k .wr) → apart m.oldPa m.size m.newPa m.size → apart leaf 8 m.newPa m.size → apart leaf 8 m.oldPa m.size →
        (leaf + 64 ≤ m.newPa ∨ m.newPa + m.size ≤ leaf / 64 * 64) →
        ∃ t : State, exec (.migrationComplete p) s = .next t
          ∧ (t.parts[p]).migration = none ∧ (t.parts[p]).mresult = 0 ∧ (t.parts[p]).npois = 0 ∧ t.pendingS p.val 4
          ∧ (∀ n < m.size, Memory.read t.mem (m.newPa + n) = Memory.read s.mem (m.oldPa + n))
          ∧ (Memory.readN t.mem leaf 8) / 4096 % 2 ^ 40 * 4096 = m.newPa
          ∧ (∀ i < 64, (i < 12 ∨ 52 ≤ i) → (BitVec.ofNat 64 (Memory.readN t.mem leaf 8)).getLsbD i = m.leaf.getLsbD i)
          ∧ ∀ y, ¬within leaf 8 y → ¬within m.newPa m.size y → Memory.read t.mem y = Memory.read s.mem y)
    ∧ (∀ (p : Fin 8) (page : Nat) (answer : Option Nat) (ok : Bool) (addr : Word) (sz : BitVec 3), let q := s.parts[p]
      let becomes (q : Partition) : Host.Outcome State Fault Refusal := .next { s with parts := s.parts.set p q }
      let pri : Bool := match s.functionOf p.val with
        | some f => s.link.priEnabled.contains f
        | none => false
      let asked := q.atsAsked.filter fun x => x != page
      (page ∉ q.atsAsked → exec (.atsTranslationCompletion p page answer) s = .next s)
      ∧ (page ∈ q.atsAsked → (∀ x, exec (.atsTranslationCompletion p page (some x)) s
            = becomes { q with ats := Sparse.set 0 q.ats page (x + 1), atsAsked := asked })
        ∧ (pri = false → exec (.atsTranslationCompletion p page none) s = becomes { q with atsAsked := asked, refused := q.refused ++ [page] })
        ∧ (pri = true → q.pageRequest = none →
          exec (.atsTranslationCompletion p page none) s = becomes { q with atsAsked := asked, pageRequest := some page }))
      ∧ (q.pageRequest = none → exec (.priResponse p ok) s = .next s ∧ exec (.priTimeout p) s = .next s)
      ∧ (q.pageRequest = some page → exec (.priResponse p true) s = becomes { q with pageRequest := none }
        ∧ exec (.priResponse p false) s = becomes { q with pageRequest := none, refused := q.refused ++ [page] }
        ∧ exec (.priTimeout p) s = becomes { q with pageRequest := none, refused := q.refused ++ [page] })
      ∧ (s.noWindows p.val → ∃ (ats : Sparse Nat) (t : State), exec (.atsInvalidationRequest p addr sz) s = .next t
        ∧ t = { s with
          links := t.links, parts := s.parts.set p { q with ats := ats }, reply := some .done
          link := { s.link with inva := s.link.inva.erase (.ats p.val addr.toNat sz.toNat) } }
        ∧ (∀ l ∈ t.links, l ∈ s.links)
        ∧ (sz = 0 → ∀ x ∈ ats, x ∈ q.ats ∧ x.1 ≠ addr.toNat / 4096) ∧ (sz = 0 → ∀ x ∈ q.ats, x.1 ≠ addr.toNat / 4096 → x ∈ ats)))
    ∧ (∀ (fn off : Nat) (w : Word) (size : Size) (va : Word) (x : Option Word),
      let c : Word := Sparse.get 0 s.link.fnctl fn
      let n := 2 ^ size.val
      let queue : BitVec 16 := BitVec.ofNat 16 (off / 4096)
      let holder : Nat := match s.queue? queue with
        | some y => y.part.val
        | none => 0
      let mine : Prop := fn = 0 ∨ holder = c.toNat / 2 ^ 45 % 8
      let answer (r : Reply) : Host.Outcome State Fault Refusal := .next { s with reply := some r }
      let req : Req := ⟨0x4000 + fn, .u, c.toNat / 2 ^ 45 % 8, none⟩
      (s.sec.boot = .recovery → exec (.bar0DoorbellAccess fn off x) s = .next { s with reply := none }
        ∧ exec (.bar4MemoryAccess fn va size x) s = .next { s with reply := none })
      ∧ (c.getLsbD 62 = true → (s.sec.boot ≠ .recovery → exec (.bar0DoorbellAccess fn off x) s = answer .completerAbort
          ∧ exec (.bar4MemoryAccess fn va size x) s = answer .completerAbort)
        ∧ (fn = 0 → exec (.bar2SystemAccess fn off x) s = answer .completerAbort))
      ∧ (c.getLsbD 62 = false → c.getLsbD 63 = false → (s.sec.boot ≠ .recovery →
          exec (.bar0DoorbellAccess fn off x) s = answer .unsupportedRequest
          ∧ exec (.bar4MemoryAccess fn va size x) s = answer .unsupportedRequest)
        ∧ exec (.bar2SystemAccess fn off x) s = answer .unsupportedRequest)
      ∧ (fn ≠ 0 → exec (.bar2SystemAccess fn off x) s = answer .unsupportedRequest)
      ∧ (∃ t u : State, exec (.bar0DoorbellAccess fn off x) s = .next t ∧ exec (.bar2SystemAccess fn off x) s = .next u)
      ∧ (c.getLsbD 62 = false → c.getLsbD 63 = true → s.sec.boot ≠ .recovery →
        (mine → off % 4096 = 0 → ∃ t : State, exec (.doorbellAnnounce queue w) s = .next t
          ∧ exec (.bar0DoorbellAccess fn off (some w)) s = .next { t with reply := some .done })
        ∧ (¬mine ∨ off % 4096 ≠ 0 → exec (.bar0DoorbellAccess fn off (some w)) s = answer .dropped)
        ∧ (mine → ∀ y, s.queue? queue = some y → exec (.bar0DoorbellAccess fn off none) s = answer (.value y.head))
        ∧ ((¬mine ∨ s.queue? queue = none) → exec (.bar0DoorbellAccess fn off none) s = answer (.value 0))
        ∧ (fn = 0 → exec (.bar2SystemAccess fn off none) s = exec (.registerWrite (.pcie 0) (0x2000000 + off) none) s
          ∧ exec (.bar2SystemAccess fn off (some w)) s
            = exec (.registerWrite (.pcie 0) (0x2000000 + off) (some w)) { s with reply := some .done }
          ∧ ∀ (q : BitVec 16) (word : Fin 4),
            let at' := 0x200000 + 32 * q.toNat + 8 * word.val
            (s.denied (.system 0) 0x4000 .wr = none → ∃ t : State, exec (.qdWrite q word w) { s with reply := some .done } = .next t
              ∧ exec (.bar2SystemAccess fn at' (some w)) s = .next t)
            ∧ (s.denied (.system 0) 0x4000 .rd = none → ∀ y, s.queue? q = some y → word = 1 →
              exec (.bar2SystemAccess fn at' none) s = answer (.value y.qd1)))
        ∧ (2 ^ 40 < va.toNat + n → exec (.bar4MemoryAccess fn va size x) s = answer .unsupportedRequest)
        ∧ (va.toNat + n ≤ 2 ^ 40 → va.toNat % n = 0 → ∀ key,
          (s.reachedBy (fun _ => False) req .load va.toNat n key → ∃ t : State, exec (.bar4MemoryAccess fn va size none) s = .next t
            ∧ t.reply = some (.value (BitVec.ofNat 64 (Memory.readN s.mem key n))) ∧ t.mem = s.mem ∧ s.quietHarts t)
          ∧ (s.reachedBy (fun _ => False) req .store va.toNat n key → ∃ t : State, exec (.bar4MemoryAccess fn va size (some w)) s = .next t
            ∧ t.reply = some .done ∧ s.quietHarts t ∧ Memory.readN t.mem key n = w.toNat % 2 ^ (8 * n)
            ∧ ∀ y, ¬within key n y → Memory.read t.mem y = Memory.read s.mem y))))
    ∧ (∀ (port : Fin 16) (dev : BitVec 10) (pa : Nat) (size : Size) (w mark : Word) (data : BitVec 512) (en : BitVec 64) (op : PeerOp) (u k : Nat),
      let n := 2 ^ size.val
      let mid := 0x6000 + dev.toNat
      let c : Word := Sparse.get 0 s.link.peerst dev.toNat
      let ask (op : PeerOp) : Host.Outcome State Fault Refusal := exec (.peerRequest port dev pa size op) s
      let base := pa / 64 * 64
      let sector : Reply := .sector 0 (BitVec.ofNat 512 (Memory.readN s.mem base 64))
      let word := pa / 8 * 8
      let old := BitVec.ofNat 64 (Memory.readN s.mem word 8)
      let updated (r : Reply) (t : State) (x : Word) : Prop := t.reply = some r ∧ s.quietHarts t ∧ Memory.readN t.mem word 8 = x.toNat
        ∧ ∀ y, ¬within word 8 y → Memory.read t.mem y = Memory.read s.mem y
      (c.getLsbD 63 = true → ask op = .next { s with reply := some .errorResponse })
      ∧ (c.getLsbD 63 = false → s.denied (.port port.val) mid .wr ≠ none → ∃ t : State, ask (.write data en) = .next t ∧ t.mem = s.mem
        ∧ t.reply = some .errorResponse ∧ (Sparse.get 0 t.link.peerst dev.toNat).getLsbD 63 = true)
      ∧ (c.getLsbD 63 = false → placeOf pa = .dram u → pa % n = 0 → s.denied (.port port.val) mid .wr = none →
        s.denied (.mem u) mid .wr ≠ none → ∃ t : State, ask (.write data en) = .next t ∧ t.mem = s.mem
          ∧ t.reply = some .errorResponse ∧ (Sparse.get 0 t.link.peerst dev.toNat).getLsbD 63 = true)
      ∧ (c.getLsbD 63 = false → placeOf pa = .dram u → pa % n = 0 → s.intact u base k →
        (s.denied (.port port.val) mid .rd = none → s.denied (.mem u) mid .rd = none →
          ∃ t : State, ask .read = .next t ∧ t = { s with reply := some sector, seqCount := t.seqCount, performed := t.performed })
        ∧ (s.denied (.port port.val) mid .wr = none → s.denied (.mem u) mid .wr = none →
          (∃ t : State, ask (.write data en) = .next t ∧ t.reply = some .done ∧ s.quietHarts t ∧ s.sectorStored t base data en)
          ∧ ∃ t : State, ask (.merge w mark) = .next t
            ∧ updated .done t (old &&& ~~~(mark <<< (8 * (pa % 8))) ||| (w &&& mark) <<< (8 * (pa % 8))))
        ∧ (s.denied (.port port.val) mid .rmw = none → s.denied (.mem u) mid .rmw = none →
          (∃ t : State, ask (.add w mark) = .next t ∧ updated (.outcome old) t ((old + w) ||| mark))
          ∧ (∃ t : State, ask .linked = .next t
            ∧ t = { s with reply := some sector, links := t.links, seqCount := t.seqCount, performed := t.performed }
            ∧ ((∀ l ∈ s.links, l.line = pa / 64 → l.hart = mid) → ∃ l ∈ t.links, l.line = pa / 64 ∧ l.hart = mid))
          ∧ ((∃ l ∈ s.links, l.line = pa / 64 ∧ l.hart = mid) → ∃ t : State, ask (.conditional data en) = .next t
            ∧ t.reply = some (.outcome 1) ∧ s.quietHarts t ∧ s.sectorStored t base data en ∧ ∀ l ∈ t.links, l.line ≠ pa / 64)
          ∧ ((∀ l ∈ s.links, l.line = pa / 64 → l.hart ≠ mid) → ∃ t : State, ask (.conditional data en) = .next t
            ∧ t = { s with reply := some (.outcome 0), seqCount := t.seqCount, performed := t.performed }))))
    ∧ (∀ (fn : Nat) (dev : BitVec 10),
      let c : Word := Sparse.get 0 s.link.fnctl fn
      let d : Word := Sparse.get 0 s.link.peerst dev.toNat
      let put (w : Word) : State := { s with link := { s.link with fnctl := Sparse.set 0 s.link.fnctl fn w } }
      exec (.fnctlUnfreeze fn) s = .next (put (c &&& ~~~(1#64 <<< 62)))
      ∧ ((∀ r ∈ s.link.outstanding, r.1 ≠ fn) → exec (.fnctlKill fn) s = .next s
        ∧ exec (.functionLevelReset fn) s = .next (put (c &&& ~~~(1#64 <<< 63))))
      ∧ ((∃ r ∈ s.link.outstanding, r.1 = fn) → ∃ t : State, exec (.fnctlKill fn) s = .next t
        ∧ t = { s with
          link := { s.link with outstanding := s.link.outstanding.filter (fun r => r.1 != fn), sent := t.link.sent }
          peerData := t.peerData, reply := some .completerAbort }
        ∧ (∀ r, r ∈ t.link.sent ↔ r ∈ s.link.sent ∧ (askerOf r.id ≠ 0x4000 + fn ∨ peerStores r.op = true))
        ∧ ∀ e ∈ t.peerData, e ∈ s.peerData ∧ askerOf e.1.id ≠ 0x4000 + fn)
      ∧ exec (.peerstUnfreeze dev) s = .next { s with link := { s.link with
          peerst := Sparse.set 0 s.link.peerst dev.toNat (d &&& ~~~(1#64 <<< 63)) } })
    ∧ (∀ (w : Word) (port : Fin 16) (window : Nat),
      let busy : Prop := s.link.lrvst.getLsbD 0 = true
      let st (v : Word) : State := { s with link := { s.link with lrvst := v } }
      (busy ∨ w.getLsbD 63 = false ∨ w &&& ~~~0x800003FF000000FF#64 ≠ 0 → exec (.lrevoke w) s = .next s)
      ∧ (¬busy → w.getLsbD 63 = true → w &&& ~~~0x800003FF000000FF#64 = 0 →
        exec (.lrevoke w) s = .next { s with link := { s.link with lrevoke := w, lrvst := 1 } })
      ∧ (busy → exec .revocationAck s = .next (st 0)) ∧ (¬busy → exec .revocationAck s = .next s ∧ exec .revocationTimeout s = .next s)
      ∧ (busy → ∃ t : State, exec .revocationTimeout s = .next t ∧ t.link.lrvst = 2 ∧ t.mem = s.mem
        ∧ (Sparse.get 0 t.link.peerst (s.link.lrevoke.toNat / 2 ^ 32 % 2 ^ 10)).getLsbD 63 = true)
      ∧ ((∀ p, s.noWindows p) → ∃ t : State, exec (.leaseRevocation window) s = .next t ∧ t.mem = s.mem
        ∧ (let first := 2 ^ 51 + window * 2 ^ 40
          ((∀ r ∈ s.link.sent, ¬within first (2 ^ 40) r.pa) → t.reply = some .done)
          ∧ ((∃ r ∈ s.link.sent, within first (2 ^ 40) r.pa) → t.reply = none)
          ∧ ∀ l, l ∈ t.links ↔ l ∈ s.links ∧ ¬within (first / 64) (2 ^ 34) l.line)
        ∧ Sparse.get 0 t.link.leases (2 * window) = Sparse.get 0 s.link.leases (2 * window) ||| (1#64 <<< 62)
        ∧ ∀ h, t.hart? 0x8000 = some h → h.mset.tstate.getLsbD 21 = true)
      ∧ (∃ v : BitVec 16, (∀ i < 16, v.getLsbD i = (s.link.ports.getLsbD i && i != port.val))
        ∧ exec (.portDown port) s = .next { s with link := { s.link with ports := v } })
      ∧ ∃ v : BitVec 16, (∀ i < 16, v.getLsbD i = (s.link.ports.getLsbD i || i == port.val))
        ∧ exec (.portUp port) s = .next { s with link := { s.link with ports := v } })
    ∧ ∀ (r : Sent) (a : PeerAnswer), s.leads r = true → s.isOut r = true →
      s.link.sent.find? (fun x => x.id == r.id && x.pa / 64 == r.pa / 64) = some r →
      let gets (a : PeerAnswer) : Host.Outcome State Fault Refusal := exec (.peerResponse r.id ⟨r.pa, a⟩) s
      let sent := s.link.sent.erase r
      let p := s.partOfMaster r.id
      (answersOp r.op a = false → gets a = .next s)
      ∧ (answersOp r.op a = true → r.id = s.cur.id → s.cur.id < 0x20000 → r.op = .read ∨ r.op = .linked →
        ∀ b, s.cur.wait = .peer b → b / 64 = r.pa / 64 →
        gets a = .next { s with cur := { s.cur with wait := .run }, peerData := s.peerData ++ [(r, a)], link := { s.link with sent := sent } })
      ∧ (∀ w en, r.op = .write w en → r.lanes = [] → r.id < 0x20000 →
        gets .done = .next { s with link := { s.link with sent := sent } }
        ∧ (r.report = none → ∃ t : State, gets .refused = .next t ∧ t.link.sent = sent ∧ t.mem = s.mem ∧ t.pendingS p 2
          ∧ ((s.partAt p).errors = [] → p < 8 → (t.partAt p).errors = [⟨r.id % 0x20000, 3, 0, 4, 0, 0, r.pa / 64 * 64⟩])))
      ∧ (∀ w en, r.op = .write w en → r.id = engineId (askerOf r.id) → askerOf r.id < 1536 → r.lanes = [] →
        gets .done = .next { s with peerData := s.peerData ++ [(r, .done)], link := { s.link with sent := sent } })
      ∧ (∀ w en g h, r.op = .write w en → r.id = s.cur.id → s.cur.id < 0x8000 → r.lanes = [h] → (∀ v ∈ s.saved, r ∉ v.sent) →
        s.cur.gang = some g → ∃ t : State, gets .done = .next t ∧ t.link.sent = sent ∧ t.mem = s.mem
          ∧ (∀ l : Fin 16, (t.cur.unacked[l] : Nat) = (s.cur.unacked[l] : Nat) - (if l.val = h then 1 else 0))
          ∧ ∀ x y, s.gang? g = some x → t.gang? g = some y → y.received = x.received + 1)
      ∧ (s.link.sent.find? (fun x => askerOf x.id == askerOf r.id && s.isOut x && s.leads x) = some r →
        answersOp r.op .refused = true → exec (.peerPathTimeout (askerOf r.id)) s = .next (s.answered r .refused)
          ∧ exec (.peerPathTimeout (askerOf r.id)) s = gets .refused)

/-- POWER_ON_RESET gives the state of reset but for the flash, the host's memory, what the outside has yet to do and the counts of the model; WARM_RESET and BOOTCMD.WARM keep the bytes, sector states, poison records and quarantine of main memory. BOOT_SEQUENCE starts root firmware at level M from the first slot that passes its checks, or enters recovery. MEASUREMENT_EXTEND hashes the register with the digest and logs it. SPDM requests wait for the end of boot; then GET_MEASUREMENTS of index 1 to 3 signs the register, another index gets an error, and KEY_EXCHANGE makes the session. REGISTER_WRITE by root firmware that the block's table permits writes MCAP, an access table entry or a group's word, or reads MCAP; a refused one freezes its master, and a frozen master does nothing. The soft interrupts set and clear code 0, and INTERRUPT_ENTRY, at an instruction boundary, enters the handler of the level that the interrupt goes to; an IDLE that waits is completed first. The keys and what a signature covers follow the standards as the model reads them (log entry 16), and what a reset keeps beside R427's list is its choice (log entry 59). (26_bringup_security_power.md: Resets and the management address space, 26_bringup_security_power.md: Boot and verification, 26_bringup_security_power.md: Identity and attestation, 23_traps_preemption_context.md: Causes, 20_privileged_state_and_partitions.md: Access tables, 95_what_each_step_holds.md) -/
def Obligations.ResetAndSecuritySteps : Prop :=
  ∀ (s : State),
    (∃ t : State, exec .powerOnReset s = .next t ∧ t.steps = s.steps ∧ t.free = s.free ∧ t.agenda = s.agenda ∧ t.upsets = s.upsets
      ∧ t.sec.slotA = s.sec.slotA ∧ t.sec.slotB = s.sec.slotB
      ∧ t = { State.reset with
          mem := t.mem, sec := { State.reset.sec with slotA := s.sec.slotA, slotB := s.sec.slotB }
          steps := s.steps, free := s.free, agenda := s.agenda, upsets := s.upsets, stops := s.stops, resetStep := s.steps }
      ∧ (Memory.wf s.mem = true → ∀ y, Memory.read t.mem y = if 2 ^ 50 ≤ y ∧ y < 2 ^ 51 then Memory.read s.mem y else Memory.blank)
      ∧ ∃ u : State, exec .warmReset s = .next u ∧ exec (.bootcmdWarm 1) s = .next u
        ∧ u = { t with mem := u.mem, sectors := s.sectors, memctl := u.memctl } ∧ u.gangs = []
        ∧ u.memctl.poison = s.memctl.poison ∧ u.memctl.quarantine = s.memctl.quarantine ∧ u.memctl.fallback = 0xFF#8
        ∧ (Memory.wf s.mem = true → (∀ y < 2 ^ 52, Memory.read u.mem y = Memory.read s.mem y)
          ∧ ∀ y, 2 ^ 52 ≤ y → Memory.read u.mem y = Memory.blank))
    ∧ (∀ w, w ≠ 1 → exec (.bootcmdWarm w) s = .next s)
    ∧ (s.sec.boot ≠ .pending → exec .bootSequence s = .next s)
    ∧ (s.sec.boot = .pending → s.sec.log = [] → (∃ t : State, exec .bootSequence s = .next t ∧ t.mem = s.mem
      ∧ (∀ m, (s.sec.slotA = some m ∧ imageFailure (some m) = 0)
          ∨ (imageFailure s.sec.slotA ≠ 0 ∧ s.sec.slotB = some m ∧ imageFailure (some m) = 0) →
        t.sec.boot = .running ∧ t.sec.bootst.getLsbD 63 = true ∧ t.sec.secretHidden = true
        ∧ t.sec.mr[1] = BitVec.ofNat 256 (sha256 (beBytes 32 (s.sec.mr[1]).toNat ++ beBytes 32 (sha256 (m.bytes.map BitVec.toNat))))
        ∧ t.sec.log.length = 2
        ∧ ∀ h ∈ t.harts, h.wait ≠ .held ∧ ∀ k ∈ s.harts, k.wait = .held → k.id = h.id → (∀ k' ∈ s.harts, k'.id = h.id → k' = k) →
          h.wait = .run ∧ h.prv = .m)
      ∧ (imageFailure s.sec.slotA ≠ 0 → imageFailure s.sec.slotB ≠ 0 →
        t.sec.boot = .recovery ∧ t.sec.bootst.getLsbD 62 = true ∧ t.harts = s.harts)))
    ∧ (∀ (r : Fin 3) (stage : BitVec 8) (version : Word) (digest : BitVec 256), ∃ t : State,
      exec (.measurementExtend r stage version digest) s = .next t ∧ t = { s with sec := { s.sec with mr := t.sec.mr, log := t.sec.log, bootst := t.sec.bootst } }
      ∧ t.sec.mr[r] = BitVec.ofNat 256 (sha256 (beBytes 32 (s.sec.mr[r]).toNat ++ beBytes 32 digest.toNat))
      ∧ (∀ q : Fin 3, q ≠ r → t.sec.mr[q] = s.sec.mr[q])
      ∧ (s.sec.log.length < 64 → t.sec.log = s.sec.log ++ [⟨stage, version, digest⟩] ∧ t.sec.bootst = s.sec.bootst)
      ∧ (64 ≤ s.sec.log.length → t.sec.log = s.sec.log ∧ t.sec.bootst = s.sec.bootst ||| 0x2000000000000000#64))
    ∧ (∀ (nonce : BitVec 256) (index : BitVec 8) (session : BitVec 32) (stream : Fin 9) (peer : BitVec 512),
      let waits (i : Instr) (r : SpdmRequest) : Prop := exec i s = .next { s with sec := { s.sec with asked := s.sec.asked ++ [r] } }
      let signs (i : Instr) (body : List Nat) : Prop := ∃ (v : BitVec 8) (sig : List (BitVec 8)) (chain : List Cert) (last : Cert),
        (v = 0x12 ∨ v = 0x13) ∧ sig.length = 64
        ∧ exec i s = .next { s with free := s.free + 2, reply := some (.signed (v :: (body.map (BitVec.ofNat 8) ++ sig)) chain) }
        ∧ chain.getLast? = some last ∧ last.key = BitVec.ofNat 512 (ofBytes (publicKey s.sec.identityKey.toNat))
        ∧ ∃ c ∈ chain, c.key = BitVec.ofNat 512 (ofBytes (publicKey s.sec.aliasKey.toNat)) ∧ c.sig = s.sec.aliasCert
      (s.sec.bootst.getLsbD 63 = false → waits (.spdmChallenge nonce) (.challenge nonce)
        ∧ waits (.spdmGetMeasurements index nonce) (.measurements index nonce)
        ∧ waits (.spdmKeyExchange session stream peer) (.keyExchange session stream peer))
      ∧ (s.sec.bootst.getLsbD 63 = true → signs (.spdmChallenge nonce) (beBytes 32 nonce.toNat)
        ∧ (∀ r : Fin 3, signs (.spdmGetMeasurements (BitVec.ofNat 8 (r.val + 1)) nonce)
            ((r.val + 1) :: (beBytes 32 (s.sec.mr[r]).toNat ++ beBytes 32 nonce.toNat)))
        ∧ (index = 0 ∨ 5 ≤ index.toNat → exec (.spdmGetMeasurements index nonce) s = .next { s with reply := some .errorResponse })
        ∧ ∃ key : BitVec 256, exec (.spdmKeyExchange session stream peer) s = .next { s with
            free := s.free + 1, reply := some .done
            sec := { s.sec with sessions := ⟨session, stream, key⟩ :: s.sec.sessions.filter fun x => x.id != session } }))
    ∧ (∀ (m : Fin 8) (w : Word) (core : Hart), s.sec.boot ≠ .recovery → s.hart? (0x8000 + m.val) = some core → core.prv = .m →
      let mid := 0x8000 + m.val
      let root : Master := .mgmt m
      (core.frozen = true → ∀ addr x, exec (.registerWrite root addr x) s = .next s)
      ∧ (core.frozen = false →
      let open' (t : Target) : Prop := s.denied t mid .wr = none
      (s.denied (.system 3) mid .rd = none → exec (.registerWrite root 0x2A01100 none) s = .next { s with reply := some (.value s.sec.mcap) })
      ∧ (open' (.system 3) → exec (.registerWrite root 0x2A01100 (some w)) s = .next { s with sec := { s.sec with mcap := w &&& 0xFFFF#64 } })
      ∧ (∀ u < 24, ∀ i < 16, open' (.system 1) → Sparse.wf 0 s.tables = true → ∃ t : State, exec (.registerWrite root (0x2800000 + 0x80 * u + 8 * i) (some w)) s = .next t
        ∧ t = { s with tables := t.tables } ∧ t.tableWord (.mem u) i = w &&& 0x8E00FFFF0000FFFF#64
        ∧ ∀ v < 24, ∀ j < 16, (v, j) ≠ (u, i) → t.tableWord (.mem v) j = s.tableWord (.mem v) j)
      ∧ (∀ g < 1024, open' (.system 2) → (Sparse.get 0 s.link.groups (2 * g)).getLsbD 63 = false →
        exec (.registerWrite root (0x2908008 + 16 * g) (some w)) s = .next { s with link := { s.link with
          groups := Sparse.set 0 s.link.groups (2 * g + 1) (w &&& 0x000FFFFFFFFFFFFF#64) } })
      ∧ (∀ kind, s.denied (.system 3) mid .wr = some kind → ∃ t : State,
        exec (.registerWrite root 0x2A01100 (some w)) s = .next t ∧ t.sec = s.sec ∧ t.mem = s.mem
        ∧ ∀ h, t.hart? mid = some h → h.frozen = true ∧ (h.frzst.extractLsb' 27 2).toNat = kind % 4 ∧ h.frzadr = 0x2A01100))
      ∧ ∀ (h : Hart) (mset : Bool), s.hart? mid = some h →
        let bits (t : State) (on : Bool) : Prop := ∃ k, t.hart? mid = some k
          ∧ ∀ i < 64, ((if mset then k.mset else k.sset).tstate).getLsbD i
              = if i = 16 then on else ((if mset then h.mset else h.sset).tstate).getLsbD i
        (∃ t : State, exec (.mgmtSoftInterruptSet m mset) s = .next t ∧ bits t true ∧ t = { s with cur := t.cur, others := t.others })
        ∧ ∃ t : State, exec (.mgmtSoftInterruptAck m mset) s = .next t ∧ bits t false ∧ t = { s with cur := t.cur, others := t.others })
    ∧ ∀ (m : Fin 8), s.cur.id = 0x8000 + m.val → s.cur.lane = none →
      (s.cur.interrupt? = none ∨ s.cur.wait.atBoundary = false ∨ s.cur.undivided = true → exec (.interruptEntry m) s = .next s)
      ∧ ∀ level code s2, s.cur.interrupt? = some (level, code) →
        let frame := ((if level = .m then s.cur.mset.tframe else s.cur.sset.tframe) &&& 0x01FFFFFFFFFFFE00#64).toNat
        let h : Hart := { (if s.cur.wait = .idle then s.cur.past else s.cur) with wait := .run }
        s.cur.wait.atBoundary = true → s.cur.undivided = false → (∀ e ∈ s.peerData, e.1.id ≠ s.cur.id) → s.clearStream 0 true →
        s.clearBytes frame 512 → (level = .m → s.cur.mset.tstate.getLsbD 7 = false) →
        State.writeFrame { h.req with level := level } 8 frame h.frameWords
          { s with cur := h, links := s.links.filter fun l => l.hart != s.cur.id } = (.done, s2) →
        ∃ k : Hart, s2.cur.AtHandler k level (if s.cur.wait = .idle then s.cur.pc + 4 else s.cur.pc) (BitVec.ofNat 64 (2 ^ 63 + code)) 0 0
          ∧ exec (.interruptEntry m) s = .next { s2 with cur := k }
end

