-- ==== Sys2Proof/Laws/Memory.lean ====
section
/-! SUPPORT. Tables and memory: reading what was written, leaving every other key alone, and the canonical form, which every
operation that writes memory keeps. -/

namespace Sys2Proof.Machine

/-! ### Tables -/

section Table
variable {α : Type} [DecidableEq α] {d x : α} {t : Sparse α} {lo i j : Nat}

theorem Sparse.get_below (h : Sparse.wfFrom d lo t = true) (hi : i < lo) : Sparse.get d t i = d := by
  cases t with
  | nil => rfl
  | cons p t =>
    obtain ⟨k, v⟩ := p
    simp only [Sparse.wfFrom, Bool.and_eq_true, decide_eq_true_eq] at h
    have h1 : i ≠ k := by omega
    have h2 : i < k := by omega
    simp [Sparse.get, h1, h2]

theorem Sparse.wfFrom_weaken (h : Sparse.wfFrom d lo t = true) (hi : i ≤ lo) : Sparse.wfFrom d i t = true := by
  cases t with
  | nil => rfl
  | cons p t =>
    simp only [Sparse.wfFrom, Bool.and_eq_true, decide_eq_true_eq] at h ⊢
    exact ⟨⟨by omega, h.1.2⟩, h.2⟩

/-- A write keeps the canonical form. -/
theorem Sparse.wfFrom_set (h : Sparse.wfFrom d lo t = true) (hi : lo ≤ i) : Sparse.wfFrom d lo (Sparse.set d t i x) = true := by
  induction t generalizing lo with
  | nil => by_cases hx : x = d <;> simp [Sparse.set, Sparse.wfFrom, hx, hi]
  | cons p t ih =>
    obtain ⟨k, v⟩ := p
    simp only [Sparse.wfFrom, Bool.and_eq_true, decide_eq_true_eq, Bool.not_eq_true', decide_eq_false_iff_not] at h
    obtain ⟨⟨hk, hv⟩, ht⟩ := h
    simp only [Sparse.set]
    split
    · split
      · exact Sparse.wfFrom_weaken ht (by omega)
      · simp [Sparse.wfFrom, *]
    · split
      · split <;> simp [Sparse.wfFrom, *]
      · simp [Sparse.wfFrom, hk, hv, ih ht (by omega)]

theorem Sparse.wf_set (h : Sparse.wf d t = true) : Sparse.wf d (Sparse.set d t i x) = true :=
  Sparse.wfFrom_set h (Nat.zero_le i)

/-- A read at the key written gives what was written. -/
theorem Sparse.get_set_self (h : Sparse.wfFrom d lo t = true) : Sparse.get d (Sparse.set d t i x) i = x := by
  induction t generalizing lo with
  | nil => by_cases hx : x = d <;> simp [Sparse.set, Sparse.get, hx]
  | cons p t ih =>
    obtain ⟨k, v⟩ := p
    simp only [Sparse.wfFrom, Bool.and_eq_true] at h
    simp only [Sparse.set]
    split
    · rename_i e
      split
      · rename_i hx; rw [hx]; exact Sparse.get_below h.2 (by omega)
      · simp [Sparse.get, e]
    · split
      · split
        · rename_i hx; simp [Sparse.get, *]
        · simp [Sparse.get]
      · simp [Sparse.get, *, ih h.2]

/-- A read at another key gives what it gave before. -/
theorem Sparse.get_set_ne (h : Sparse.wfFrom d lo t = true) (hj : j ≠ i) : Sparse.get d (Sparse.set d t i x) j = Sparse.get d t j := by
  induction t generalizing lo with
  | nil => by_cases hx : x = d <;> simp [Sparse.set, Sparse.get, hx, hj]
  | cons p t ih =>
    obtain ⟨k, v⟩ := p
    simp only [Sparse.wfFrom, Bool.and_eq_true] at h
    simp only [Sparse.set]
    split
    · rename_i e
      have hk : j ≠ k := e ▸ hj
      split
      · by_cases hlt : j < k
        · simp [Sparse.get, hk, hlt, Sparse.get_below h.2 (show j < k + 1 by omega)]
        · simp [Sparse.get, hk, hlt]
      · simp [Sparse.get, hk]
    · split
      · rename_i hik
        split
        · rfl
        · by_cases hlt : j < i
          · have : j ≠ k := by omega
            have : j < k := by omega
            simp [Sparse.get, *]
          · simp [Sparse.get, hj, hlt]
      · simp only [Sparse.get]
        split
        · rfl
        · split
          · rfl
          · exact ih h.2

theorem Sparse.get_set (h : Sparse.wf d t = true) : Sparse.get d (Sparse.set d t i x) j = if j = i then x else Sparse.get d t j := by
  split
  · subst j; exact Sparse.get_set_self h
  · exact Sparse.get_set_ne h ‹_›

/-- Tables in the canonical form that read alike are equal. -/
theorem Sparse.ext_wfFrom {u : Sparse α} (ht : Sparse.wfFrom d lo t = true) (hu : Sparse.wfFrom d lo u = true)
    (h : ∀ i, Sparse.get d t i = Sparse.get d u i) : t = u := by
  induction t generalizing lo u with
  | nil =>
    cases u with
    | nil => rfl
    | cons p u =>
      simp only [Sparse.wfFrom, Bool.and_eq_true, Bool.not_eq_true', decide_eq_false_iff_not] at hu
      have := h p.1
      simp [Sparse.get] at this
      exact absurd this.symm hu.1.2
  | cons p t ih =>
    obtain ⟨k, v⟩ := p
    simp only [Sparse.wfFrom, Bool.and_eq_true, Bool.not_eq_true', decide_eq_false_iff_not] at ht
    cases u with
    | nil =>
      have := h k
      simp [Sparse.get] at this
      exact absurd this ht.1.2
    | cons q u =>
      obtain ⟨l, w⟩ := q
      simp only [Sparse.wfFrom, Bool.and_eq_true, Bool.not_eq_true', decide_eq_false_iff_not] at hu
      have hkl : k = l := by
        rcases Nat.lt_trichotomy k l with g | g | g
        · have := h k
          simp [Sparse.get, g, show k ≠ l by omega] at this
          exact absurd this ht.1.2
        · exact g
        · have := h l
          simp [Sparse.get, g, show l ≠ k by omega] at this
          exact absurd this.symm hu.1.2
      subst hkl
      have hv : v = w := by simpa [Sparse.get] using h k
      subst hv
      refine congrArg _ (ih ht.2 hu.2 fun i => ?_)
      have := h i
      by_cases hi : i = k
      · subst hi; rw [Sparse.get_below ht.2 (by omega), Sparse.get_below hu.2 (by omega)]
      · by_cases hlt : i < k
        · rw [Sparse.get_below ht.2 (by omega), Sparse.get_below hu.2 (by omega)]
        · simpa [Sparse.get, hi, hlt] using this

end Table

/-! ### Memory -/

theorem Memory.wf_nil : Memory.wf [] = true := rfl

theorem Memory.wf_reset : Memory.wf State.reset.mem = true := rfl

theorem Memory.wf_write {m : Memory} {k : Nat} {b : Byte} (h : Memory.wf m = true) : Memory.wf (Memory.write m k b) = true :=
  Sparse.wf_set h

theorem Memory.wf_writeN {m : Memory} {k n x : Nat} (h : Memory.wf m = true) : Memory.wf (Memory.writeN m k n x) = true := by
  induction n generalizing m k x with
  | zero => exact h
  | succ n ih => exact ih (Memory.wf_write h)

/-- What a warm reset keeps of memory is in the canonical form. -/
theorem Sparse.wfFrom_filter {α : Type} [DecidableEq α] {d : α} {t : Sparse α} {lo : Nat} {p : Nat × α → Bool}
    (h : Sparse.wfFrom d lo t = true) : Sparse.wfFrom d lo (t.filter p) = true := by
  induction t generalizing lo with
  | nil => rfl
  | cons q t ih =>
    simp only [Sparse.wfFrom, Bool.and_eq_true] at h
    rw [List.filter_cons]
    split
    · simp only [Sparse.wfFrom, Bool.and_eq_true]
      exact ⟨h.1, ih h.2⟩
    · exact Sparse.wfFrom_weaken (ih h.2) (by have := h.1.1; simp only [decide_eq_true_eq] at this; omega)

theorem Memory.read_write {m : Memory} {k j : Nat} {b : Byte} (h : Memory.wf m = true) :
    Memory.read (Memory.write m k b) j = if j = k then b else Memory.read m j :=
  Sparse.get_set h

/-- A write of n bytes leaves every other byte. -/
theorem Memory.read_writeN_outside {m : Memory} {k n x j : Nat} (h : Memory.wf m = true) (hj : j < k ∨ k + n ≤ j) :
    Memory.read (Memory.writeN m k n x) j = Memory.read m j := by
  induction n generalizing m k x with
  | zero => rfl
  | succ n ih =>
    rw [Memory.writeN, ih (Memory.wf_write h) (by omega), Memory.read_write h, if_neg (by omega)]

/-- A byte among n written reads as its byte of the number. -/
theorem Memory.read_writeN_inside {m : Memory} {k n x i : Nat} (h : Memory.wf m = true) (hi : i < n) :
    Memory.read (Memory.writeN m k n x) (k + i) = BitVec.ofNat 8 (x / 256 ^ i) := by
  induction n generalizing m k x i with
  | zero => omega
  | succ n ih =>
    rw [Memory.writeN]
    cases i with
    | zero =>
      rw [Memory.read_writeN_outside (Memory.wf_write h) (by omega), Memory.read_write h]
      simp
    | succ i =>
      have := ih (m := Memory.write m k (BitVec.ofNat 8 x)) (k := k + 1) (x := x / 256) (Memory.wf_write h) (show i < n by omega)
      rw [show k + (i + 1) = k + 1 + i by omega, this, Nat.pow_succ', Nat.div_div_eq_div_mul]

theorem Memory.readN_congr {m m' : Memory} {k n : Nat} (h : ∀ i < n, Memory.read m (k + i) = Memory.read m' (k + i)) :
    Memory.readN m k n = Memory.readN m' k n := by
  induction n generalizing k with
  | zero => rfl
  | succ n ih =>
    rw [Memory.readN, Memory.readN, show Memory.read m k = Memory.read m' k from h 0 (by omega),
      ih fun i hi => by simpa [Nat.add_assoc, Nat.add_comm 1] using h (i + 1) (by omega)]

theorem Memory.readN_lt (m : Memory) (k n : Nat) : Memory.readN m k n < 256 ^ n := by
  induction n generalizing k with
  | zero => simp [Memory.readN]
  | succ n ih =>
    have h1 := ih (k + 1)
    have h2 := (Memory.read m k).isLt
    rw [Memory.readN, Nat.pow_succ']
    omega

/-- n bytes read where n bytes were written give the number written. -/
theorem Memory.readN_writeN {m : Memory} {k n x : Nat} (h : Memory.wf m = true) :
    Memory.readN (Memory.writeN m k n x) k n = x % 256 ^ n := by
  induction n generalizing m k x with
  | zero => simp [Memory.readN, Nat.mod_one]
  | succ n ih =>
    rw [Memory.readN, Memory.writeN, ih (Memory.wf_write h), Memory.read_writeN_outside (Memory.wf_write h) (by omega),
      Memory.read_write h, if_pos rfl, Nat.pow_succ', Nat.mod_mul]
    simp

/-! ### The operations that write memory keep the form -/

theorem State.noteStore_mem (s : State) (id : HartId) (k : Nat) (x y : Byte) : (s.noteStore id k x y).mem = s.mem := by
  unfold State.noteStore
  split <;> rfl

theorem State.wf_pokeBytes {s : State} {id : HartId} {k n x en : Nat} (h : Memory.wf s.mem = true) :
    Memory.wf (s.pokeBytes id k n x en).mem = true := by
  induction n generalizing s k x en with
  | zero => exact h
  | succ n ih =>
    rw [State.pokeBytes]
    apply ih
    split
    · exact Memory.wf_write (by rw [State.noteStore_mem]; exact h)
    · exact h

theorem State.wf_warmReset {s : State} (h : Memory.wf s.mem = true) : Memory.wf (s.warmReset).mem = true :=
  Sparse.wfFrom_filter h

theorem State.wf_plant {s : State} {pa n x : Nat} (h : Memory.wf s.mem = true) : Memory.wf (s.plant pa n x).mem = true := by
  unfold State.plant
  exact Memory.wf_writeN h

end Sys2Proof.Machine
end

