-- ==== Sys2Proof/Laws/State.lean ====
section
/-! SUPPORT. One lemma for each field of each named update, so that no proof unfolds an update of the state or of a hart. -/

set_option Elab.async false

namespace Sys2Proof.Machine

@[simp] theorem State.after_cur (s : State) (h : Hart) : (s.after h).cur = h := rfl
@[simp] theorem State.after_others (s : State) (h : Hart) : (s.after h).others = s.others := rfl
@[simp] theorem State.after_gangs (s : State) (h : Hart) : (s.after h).gangs = s.gangs := rfl
@[simp] theorem State.after_mem (s : State) (h : Hart) : (s.after h).mem = s.mem := rfl
@[simp] theorem State.after_sectors (s : State) (h : Hart) : (s.after h).sectors = s.sectors := rfl
@[simp] theorem State.after_spadFlips (s : State) (h : Hart) : (s.after h).spadFlips = s.spadFlips := rfl
@[simp] theorem State.after_parityFlips (s : State) (h : Hart) : (s.after h).parityFlips = s.parityFlips := rfl
@[simp] theorem State.after_rebuilding (s : State) (h : Hart) : (s.after h).rebuilding = s.rebuilding := rfl
@[simp] theorem State.after_tables (s : State) (h : Hart) : (s.after h).tables = s.tables := rfl
@[simp] theorem State.after_links (s : State) (h : Hart) : (s.after h).links = s.links := rfl
@[simp] theorem State.after_regions (s : State) (h : Hart) : (s.after h).regions = s.regions := rfl
@[simp] theorem State.after_mxq (s : State) (h : Hart) : (s.after h).mxq = s.mxq := rfl
@[simp] theorem State.after_laneCount (s : State) (h : Hart) : (s.after h).laneCount = s.laneCount := rfl
@[simp] theorem State.after_nmcq (s : State) (h : Hart) : (s.after h).nmcq = s.nmcq := rfl
@[simp] theorem State.after_memctl (s : State) (h : Hart) : (s.after h).memctl = s.memctl := rfl
@[simp] theorem State.after_parts (s : State) (h : Hart) : (s.after h).parts = s.parts := rfl
@[simp] theorem State.after_queues (s : State) (h : Hart) : (s.after h).queues = s.queues := rfl
@[simp] theorem State.after_eligible (s : State) (h : Hart) : (s.after h).eligible = s.eligible := rfl
@[simp] theorem State.after_saved (s : State) (h : Hart) : (s.after h).saved = s.saved := rfl
@[simp] theorem State.after_past (s : State) (h : Hart) : (s.after h).past = s.past := rfl
@[simp] theorem State.after_signals (s : State) (h : Hart) : (s.after h).signals = s.signals := rfl
@[simp] theorem State.after_rings (s : State) (h : Hart) : (s.after h).rings = s.rings := rfl
@[simp] theorem State.after_link (s : State) (h : Hart) : (s.after h).link = s.link := rfl
@[simp] theorem State.after_sec (s : State) (h : Hart) : (s.after h).sec = s.sec := rfl
@[simp] theorem State.after_seqCount (s : State) (h : Hart) : (s.after h).seqCount = s.seqCount := rfl
@[simp] theorem State.after_performed (s : State) (h : Hart) : (s.after h).performed = s.performed := rfl
@[simp] theorem State.after_peerData (s : State) (h : Hart) : (s.after h).peerData = s.peerData.filter fun e => e.1.id != s.cur.id := rfl
@[simp] theorem State.after_lost (s : State) (h : Hart) : (s.after h).lost = s.lost := rfl
@[simp] theorem State.after_reply (s : State) (h : Hart) : (s.after h).reply = s.reply := rfl
@[simp] theorem State.after_epochs (s : State) (h : Hart) : (s.after h).epochs = s.epochs := rfl
@[simp] theorem State.after_epochStep (s : State) (h : Hart) : (s.after h).epochStep = s.epochStep := rfl
@[simp] theorem State.after_placements (s : State) (h : Hart) : (s.after h).placements = s.placements := rfl
@[simp] theorem State.after_agenda (s : State) (h : Hart) : (s.after h).agenda = s.agenda := rfl
@[simp] theorem State.after_upsets (s : State) (h : Hart) : (s.after h).upsets = s.upsets := rfl
@[simp] theorem State.after_stops (s : State) (h : Hart) : (s.after h).stops = s.stops := rfl
@[simp] theorem State.after_due (s : State) (h : Hart) : (s.after h).due = s.due := rfl
@[simp] theorem State.after_resetStep (s : State) (h : Hart) : (s.after h).resetStep = s.resetStep := rfl
@[simp] theorem State.after_free (s : State) (h : Hart) : (s.after h).free = s.free := rfl
@[simp] theorem State.after_steps (s : State) (h : Hart) : (s.after h).steps = s.steps := rfl

@[simp] theorem State.breakLinks_cur (s : State) (id : HartId) : (s.breakLinks id).cur = s.cur := rfl
@[simp] theorem State.breakLinks_others (s : State) (id : HartId) : (s.breakLinks id).others = s.others := rfl
@[simp] theorem State.breakLinks_gangs (s : State) (id : HartId) : (s.breakLinks id).gangs = s.gangs := rfl
@[simp] theorem State.breakLinks_mem (s : State) (id : HartId) : (s.breakLinks id).mem = s.mem := rfl
@[simp] theorem State.breakLinks_sectors (s : State) (id : HartId) : (s.breakLinks id).sectors = s.sectors := rfl
@[simp] theorem State.breakLinks_spadFlips (s : State) (id : HartId) : (s.breakLinks id).spadFlips = s.spadFlips := rfl
@[simp] theorem State.breakLinks_parityFlips (s : State) (id : HartId) : (s.breakLinks id).parityFlips = s.parityFlips := rfl
@[simp] theorem State.breakLinks_rebuilding (s : State) (id : HartId) : (s.breakLinks id).rebuilding = s.rebuilding := rfl
@[simp] theorem State.breakLinks_tables (s : State) (id : HartId) : (s.breakLinks id).tables = s.tables := rfl
@[simp] theorem State.breakLinks_links (s : State) (id : HartId) : (s.breakLinks id).links = s.links.filter fun l => l.hart != id := rfl
@[simp] theorem State.breakLinks_regions (s : State) (id : HartId) : (s.breakLinks id).regions = s.regions := rfl
@[simp] theorem State.breakLinks_mxq (s : State) (id : HartId) : (s.breakLinks id).mxq = s.mxq := rfl
@[simp] theorem State.breakLinks_laneCount (s : State) (id : HartId) : (s.breakLinks id).laneCount = s.laneCount := rfl
@[simp] theorem State.breakLinks_nmcq (s : State) (id : HartId) : (s.breakLinks id).nmcq = s.nmcq := rfl
@[simp] theorem State.breakLinks_memctl (s : State) (id : HartId) : (s.breakLinks id).memctl = s.memctl := rfl
@[simp] theorem State.breakLinks_parts (s : State) (id : HartId) : (s.breakLinks id).parts = s.parts := rfl
@[simp] theorem State.breakLinks_queues (s : State) (id : HartId) : (s.breakLinks id).queues = s.queues := rfl
@[simp] theorem State.breakLinks_eligible (s : State) (id : HartId) : (s.breakLinks id).eligible = s.eligible := rfl
@[simp] theorem State.breakLinks_saved (s : State) (id : HartId) : (s.breakLinks id).saved = s.saved := rfl
@[simp] theorem State.breakLinks_past (s : State) (id : HartId) : (s.breakLinks id).past = s.past := rfl
@[simp] theorem State.breakLinks_signals (s : State) (id : HartId) : (s.breakLinks id).signals = s.signals := rfl
@[simp] theorem State.breakLinks_rings (s : State) (id : HartId) : (s.breakLinks id).rings = s.rings := rfl
@[simp] theorem State.breakLinks_link (s : State) (id : HartId) : (s.breakLinks id).link = s.link := rfl
@[simp] theorem State.breakLinks_sec (s : State) (id : HartId) : (s.breakLinks id).sec = s.sec := rfl
@[simp] theorem State.breakLinks_seqCount (s : State) (id : HartId) : (s.breakLinks id).seqCount = s.seqCount := rfl
@[simp] theorem State.breakLinks_performed (s : State) (id : HartId) : (s.breakLinks id).performed = s.performed := rfl
@[simp] theorem State.breakLinks_peerData (s : State) (id : HartId) : (s.breakLinks id).peerData = s.peerData := rfl
@[simp] theorem State.breakLinks_lost (s : State) (id : HartId) : (s.breakLinks id).lost = s.lost := rfl
@[simp] theorem State.breakLinks_reply (s : State) (id : HartId) : (s.breakLinks id).reply = s.reply := rfl
@[simp] theorem State.breakLinks_epochs (s : State) (id : HartId) : (s.breakLinks id).epochs = s.epochs := rfl
@[simp] theorem State.breakLinks_epochStep (s : State) (id : HartId) : (s.breakLinks id).epochStep = s.epochStep := rfl
@[simp] theorem State.breakLinks_placements (s : State) (id : HartId) : (s.breakLinks id).placements = s.placements := rfl
@[simp] theorem State.breakLinks_agenda (s : State) (id : HartId) : (s.breakLinks id).agenda = s.agenda := rfl
@[simp] theorem State.breakLinks_upsets (s : State) (id : HartId) : (s.breakLinks id).upsets = s.upsets := rfl
@[simp] theorem State.breakLinks_stops (s : State) (id : HartId) : (s.breakLinks id).stops = s.stops := rfl
@[simp] theorem State.breakLinks_due (s : State) (id : HartId) : (s.breakLinks id).due = s.due := rfl
@[simp] theorem State.breakLinks_resetStep (s : State) (id : HartId) : (s.breakLinks id).resetStep = s.resetStep := rfl
@[simp] theorem State.breakLinks_free (s : State) (id : HartId) : (s.breakLinks id).free = s.free := rfl
@[simp] theorem State.breakLinks_steps (s : State) (id : HartId) : (s.breakLinks id).steps = s.steps := rfl

@[simp] theorem State.breakLine_cur (s : State) (n : Nat) : (s.breakLine n).cur = s.cur := rfl
@[simp] theorem State.breakLine_others (s : State) (n : Nat) : (s.breakLine n).others = s.others := rfl
@[simp] theorem State.breakLine_gangs (s : State) (n : Nat) : (s.breakLine n).gangs = s.gangs := rfl
@[simp] theorem State.breakLine_mem (s : State) (n : Nat) : (s.breakLine n).mem = s.mem := rfl
@[simp] theorem State.breakLine_sectors (s : State) (n : Nat) : (s.breakLine n).sectors = s.sectors := rfl
@[simp] theorem State.breakLine_spadFlips (s : State) (n : Nat) : (s.breakLine n).spadFlips = s.spadFlips := rfl
@[simp] theorem State.breakLine_parityFlips (s : State) (n : Nat) : (s.breakLine n).parityFlips = s.parityFlips := rfl
@[simp] theorem State.breakLine_rebuilding (s : State) (n : Nat) : (s.breakLine n).rebuilding = s.rebuilding := rfl
@[simp] theorem State.breakLine_tables (s : State) (n : Nat) : (s.breakLine n).tables = s.tables := rfl
@[simp] theorem State.breakLine_links (s : State) (n : Nat) : (s.breakLine n).links = s.links.filter fun l => l.line != n := rfl
@[simp] theorem State.breakLine_regions (s : State) (n : Nat) : (s.breakLine n).regions = s.regions := rfl
@[simp] theorem State.breakLine_mxq (s : State) (n : Nat) : (s.breakLine n).mxq = s.mxq := rfl
@[simp] theorem State.breakLine_laneCount (s : State) (n : Nat) : (s.breakLine n).laneCount = s.laneCount := rfl
@[simp] theorem State.breakLine_nmcq (s : State) (n : Nat) : (s.breakLine n).nmcq = s.nmcq := rfl
@[simp] theorem State.breakLine_memctl (s : State) (n : Nat) : (s.breakLine n).memctl = s.memctl := rfl
@[simp] theorem State.breakLine_parts (s : State) (n : Nat) : (s.breakLine n).parts = s.parts := rfl
@[simp] theorem State.breakLine_queues (s : State) (n : Nat) : (s.breakLine n).queues = s.queues := rfl
@[simp] theorem State.breakLine_eligible (s : State) (n : Nat) : (s.breakLine n).eligible = s.eligible := rfl
@[simp] theorem State.breakLine_saved (s : State) (n : Nat) : (s.breakLine n).saved = s.saved := rfl
@[simp] theorem State.breakLine_past (s : State) (n : Nat) : (s.breakLine n).past = s.past := rfl
@[simp] theorem State.breakLine_signals (s : State) (n : Nat) : (s.breakLine n).signals = s.signals := rfl
@[simp] theorem State.breakLine_rings (s : State) (n : Nat) : (s.breakLine n).rings = s.rings := rfl
@[simp] theorem State.breakLine_link (s : State) (n : Nat) : (s.breakLine n).link = s.link := rfl
@[simp] theorem State.breakLine_sec (s : State) (n : Nat) : (s.breakLine n).sec = s.sec := rfl
@[simp] theorem State.breakLine_seqCount (s : State) (n : Nat) : (s.breakLine n).seqCount = s.seqCount := rfl
@[simp] theorem State.breakLine_performed (s : State) (n : Nat) : (s.breakLine n).performed = s.performed := rfl
@[simp] theorem State.breakLine_peerData (s : State) (n : Nat) : (s.breakLine n).peerData = s.peerData := rfl
@[simp] theorem State.breakLine_lost (s : State) (n : Nat) : (s.breakLine n).lost = s.lost := rfl
@[simp] theorem State.breakLine_reply (s : State) (n : Nat) : (s.breakLine n).reply = s.reply := rfl
@[simp] theorem State.breakLine_epochs (s : State) (n : Nat) : (s.breakLine n).epochs = s.epochs := rfl
@[simp] theorem State.breakLine_epochStep (s : State) (n : Nat) : (s.breakLine n).epochStep = s.epochStep := rfl
@[simp] theorem State.breakLine_placements (s : State) (n : Nat) : (s.breakLine n).placements = s.placements := rfl
@[simp] theorem State.breakLine_agenda (s : State) (n : Nat) : (s.breakLine n).agenda = s.agenda := rfl
@[simp] theorem State.breakLine_upsets (s : State) (n : Nat) : (s.breakLine n).upsets = s.upsets := rfl
@[simp] theorem State.breakLine_stops (s : State) (n : Nat) : (s.breakLine n).stops = s.stops := rfl
@[simp] theorem State.breakLine_due (s : State) (n : Nat) : (s.breakLine n).due = s.due := rfl
@[simp] theorem State.breakLine_resetStep (s : State) (n : Nat) : (s.breakLine n).resetStep = s.resetStep := rfl
@[simp] theorem State.breakLine_free (s : State) (n : Nat) : (s.breakLine n).free = s.free := rfl
@[simp] theorem State.breakLine_steps (s : State) (n : Nat) : (s.breakLine n).steps = s.steps := rfl

@[simp] theorem State.putSector_cur (s : State) (pa : Nat) (x : Sector) : (s.putSector pa x).cur = s.cur := rfl
@[simp] theorem State.putSector_others (s : State) (pa : Nat) (x : Sector) : (s.putSector pa x).others = s.others := rfl
@[simp] theorem State.putSector_gangs (s : State) (pa : Nat) (x : Sector) : (s.putSector pa x).gangs = s.gangs := rfl
@[simp] theorem State.putSector_mem (s : State) (pa : Nat) (x : Sector) : (s.putSector pa x).mem = s.mem := rfl
@[simp] theorem State.putSector_sectors (s : State) (pa : Nat) (x : Sector) : (s.putSector pa x).sectors = Sparse.set Sector.clean s.sectors (pa / 64) x := rfl
@[simp] theorem State.putSector_spadFlips (s : State) (pa : Nat) (x : Sector) : (s.putSector pa x).spadFlips = s.spadFlips := rfl
@[simp] theorem State.putSector_parityFlips (s : State) (pa : Nat) (x : Sector) : (s.putSector pa x).parityFlips = s.parityFlips := rfl
@[simp] theorem State.putSector_rebuilding (s : State) (pa : Nat) (x : Sector) : (s.putSector pa x).rebuilding = s.rebuilding := rfl
@[simp] theorem State.putSector_tables (s : State) (pa : Nat) (x : Sector) : (s.putSector pa x).tables = s.tables := rfl
@[simp] theorem State.putSector_links (s : State) (pa : Nat) (x : Sector) : (s.putSector pa x).links = s.links := rfl
@[simp] theorem State.putSector_regions (s : State) (pa : Nat) (x : Sector) : (s.putSector pa x).regions = s.regions := rfl
@[simp] theorem State.putSector_mxq (s : State) (pa : Nat) (x : Sector) : (s.putSector pa x).mxq = s.mxq := rfl
@[simp] theorem State.putSector_laneCount (s : State) (pa : Nat) (x : Sector) : (s.putSector pa x).laneCount = s.laneCount := rfl
@[simp] theorem State.putSector_nmcq (s : State) (pa : Nat) (x : Sector) : (s.putSector pa x).nmcq = s.nmcq := rfl
@[simp] theorem State.putSector_memctl (s : State) (pa : Nat) (x : Sector) : (s.putSector pa x).memctl = s.memctl := rfl
@[simp] theorem State.putSector_parts (s : State) (pa : Nat) (x : Sector) : (s.putSector pa x).parts = s.parts := rfl
@[simp] theorem State.putSector_queues (s : State) (pa : Nat) (x : Sector) : (s.putSector pa x).queues = s.queues := rfl
@[simp] theorem State.putSector_eligible (s : State) (pa : Nat) (x : Sector) : (s.putSector pa x).eligible = s.eligible := rfl
@[simp] theorem State.putSector_saved (s : State) (pa : Nat) (x : Sector) : (s.putSector pa x).saved = s.saved := rfl
@[simp] theorem State.putSector_past (s : State) (pa : Nat) (x : Sector) : (s.putSector pa x).past = s.past := rfl
@[simp] theorem State.putSector_signals (s : State) (pa : Nat) (x : Sector) : (s.putSector pa x).signals = s.signals := rfl
@[simp] theorem State.putSector_rings (s : State) (pa : Nat) (x : Sector) : (s.putSector pa x).rings = s.rings := rfl
@[simp] theorem State.putSector_link (s : State) (pa : Nat) (x : Sector) : (s.putSector pa x).link = s.link := rfl
@[simp] theorem State.putSector_sec (s : State) (pa : Nat) (x : Sector) : (s.putSector pa x).sec = s.sec := rfl
@[simp] theorem State.putSector_seqCount (s : State) (pa : Nat) (x : Sector) : (s.putSector pa x).seqCount = s.seqCount := rfl
@[simp] theorem State.putSector_performed (s : State) (pa : Nat) (x : Sector) : (s.putSector pa x).performed = s.performed := rfl
@[simp] theorem State.putSector_peerData (s : State) (pa : Nat) (x : Sector) : (s.putSector pa x).peerData = s.peerData := rfl
@[simp] theorem State.putSector_lost (s : State) (pa : Nat) (x : Sector) : (s.putSector pa x).lost = s.lost := rfl
@[simp] theorem State.putSector_reply (s : State) (pa : Nat) (x : Sector) : (s.putSector pa x).reply = s.reply := rfl
@[simp] theorem State.putSector_epochs (s : State) (pa : Nat) (x : Sector) : (s.putSector pa x).epochs = s.epochs := rfl
@[simp] theorem State.putSector_epochStep (s : State) (pa : Nat) (x : Sector) : (s.putSector pa x).epochStep = s.epochStep := rfl
@[simp] theorem State.putSector_placements (s : State) (pa : Nat) (x : Sector) : (s.putSector pa x).placements = s.placements := rfl
@[simp] theorem State.putSector_agenda (s : State) (pa : Nat) (x : Sector) : (s.putSector pa x).agenda = s.agenda := rfl
@[simp] theorem State.putSector_upsets (s : State) (pa : Nat) (x : Sector) : (s.putSector pa x).upsets = s.upsets := rfl
@[simp] theorem State.putSector_stops (s : State) (pa : Nat) (x : Sector) : (s.putSector pa x).stops = s.stops := rfl
@[simp] theorem State.putSector_due (s : State) (pa : Nat) (x : Sector) : (s.putSector pa x).due = s.due := rfl
@[simp] theorem State.putSector_resetStep (s : State) (pa : Nat) (x : Sector) : (s.putSector pa x).resetStep = s.resetStep := rfl
@[simp] theorem State.putSector_free (s : State) (pa : Nat) (x : Sector) : (s.putSector pa x).free = s.free := rfl
@[simp] theorem State.putSector_steps (s : State) (pa : Nat) (x : Sector) : (s.putSector pa x).steps = s.steps := rfl

@[simp] theorem State.mapHarts_cur (s : State) (f : Hart → Hart) : (s.mapHarts f).cur = f s.cur := rfl
@[simp] theorem State.mapHarts_others (s : State) (f : Hart → Hart) : (s.mapHarts f).others = s.others.map f := rfl
@[simp] theorem State.mapHarts_gangs (s : State) (f : Hart → Hart) : (s.mapHarts f).gangs = s.gangs := rfl
@[simp] theorem State.mapHarts_mem (s : State) (f : Hart → Hart) : (s.mapHarts f).mem = s.mem := rfl
@[simp] theorem State.mapHarts_sectors (s : State) (f : Hart → Hart) : (s.mapHarts f).sectors = s.sectors := rfl
@[simp] theorem State.mapHarts_spadFlips (s : State) (f : Hart → Hart) : (s.mapHarts f).spadFlips = s.spadFlips := rfl
@[simp] theorem State.mapHarts_parityFlips (s : State) (f : Hart → Hart) : (s.mapHarts f).parityFlips = s.parityFlips := rfl
@[simp] theorem State.mapHarts_rebuilding (s : State) (f : Hart → Hart) : (s.mapHarts f).rebuilding = s.rebuilding := rfl
@[simp] theorem State.mapHarts_tables (s : State) (f : Hart → Hart) : (s.mapHarts f).tables = s.tables := rfl
@[simp] theorem State.mapHarts_links (s : State) (f : Hart → Hart) : (s.mapHarts f).links = s.links := rfl
@[simp] theorem State.mapHarts_regions (s : State) (f : Hart → Hart) : (s.mapHarts f).regions = s.regions := rfl
@[simp] theorem State.mapHarts_mxq (s : State) (f : Hart → Hart) : (s.mapHarts f).mxq = s.mxq := rfl
@[simp] theorem State.mapHarts_laneCount (s : State) (f : Hart → Hart) : (s.mapHarts f).laneCount = s.laneCount := rfl
@[simp] theorem State.mapHarts_nmcq (s : State) (f : Hart → Hart) : (s.mapHarts f).nmcq = s.nmcq := rfl
@[simp] theorem State.mapHarts_memctl (s : State) (f : Hart → Hart) : (s.mapHarts f).memctl = s.memctl := rfl
@[simp] theorem State.mapHarts_parts (s : State) (f : Hart → Hart) : (s.mapHarts f).parts = s.parts := rfl
@[simp] theorem State.mapHarts_queues (s : State) (f : Hart → Hart) : (s.mapHarts f).queues = s.queues := rfl
@[simp] theorem State.mapHarts_eligible (s : State) (f : Hart → Hart) : (s.mapHarts f).eligible = s.eligible := rfl
@[simp] theorem State.mapHarts_saved (s : State) (f : Hart → Hart) : (s.mapHarts f).saved = s.saved := rfl
@[simp] theorem State.mapHarts_past (s : State) (f : Hart → Hart) : (s.mapHarts f).past = s.past := rfl
@[simp] theorem State.mapHarts_signals (s : State) (f : Hart → Hart) : (s.mapHarts f).signals = s.signals := rfl
@[simp] theorem State.mapHarts_rings (s : State) (f : Hart → Hart) : (s.mapHarts f).rings = s.rings := rfl
@[simp] theorem State.mapHarts_link (s : State) (f : Hart → Hart) : (s.mapHarts f).link = s.link := rfl
@[simp] theorem State.mapHarts_sec (s : State) (f : Hart → Hart) : (s.mapHarts f).sec = s.sec := rfl
@[simp] theorem State.mapHarts_seqCount (s : State) (f : Hart → Hart) : (s.mapHarts f).seqCount = s.seqCount := rfl
@[simp] theorem State.mapHarts_performed (s : State) (f : Hart → Hart) : (s.mapHarts f).performed = s.performed := rfl
@[simp] theorem State.mapHarts_peerData (s : State) (f : Hart → Hart) : (s.mapHarts f).peerData = s.peerData := rfl
@[simp] theorem State.mapHarts_lost (s : State) (f : Hart → Hart) : (s.mapHarts f).lost = s.lost := rfl
@[simp] theorem State.mapHarts_reply (s : State) (f : Hart → Hart) : (s.mapHarts f).reply = s.reply := rfl
@[simp] theorem State.mapHarts_epochs (s : State) (f : Hart → Hart) : (s.mapHarts f).epochs = s.epochs := rfl
@[simp] theorem State.mapHarts_epochStep (s : State) (f : Hart → Hart) : (s.mapHarts f).epochStep = s.epochStep := rfl
@[simp] theorem State.mapHarts_placements (s : State) (f : Hart → Hart) : (s.mapHarts f).placements = s.placements := rfl
@[simp] theorem State.mapHarts_agenda (s : State) (f : Hart → Hart) : (s.mapHarts f).agenda = s.agenda := rfl
@[simp] theorem State.mapHarts_upsets (s : State) (f : Hart → Hart) : (s.mapHarts f).upsets = s.upsets := rfl
@[simp] theorem State.mapHarts_stops (s : State) (f : Hart → Hart) : (s.mapHarts f).stops = s.stops := rfl
@[simp] theorem State.mapHarts_due (s : State) (f : Hart → Hart) : (s.mapHarts f).due = s.due := rfl
@[simp] theorem State.mapHarts_resetStep (s : State) (f : Hart → Hart) : (s.mapHarts f).resetStep = s.resetStep := rfl
@[simp] theorem State.mapHarts_free (s : State) (f : Hart → Hart) : (s.mapHarts f).free = s.free := rfl
@[simp] theorem State.mapHarts_steps (s : State) (f : Hart → Hart) : (s.mapHarts f).steps = s.steps := rfl

@[simp] theorem State.request_cur (s : State) (mid target : Nat) (w : Word) : (s.request mid target w).cur = s.cur := by unfold State.request; split <;> rfl
@[simp] theorem State.request_others (s : State) (mid target : Nat) (w : Word) : (s.request mid target w).others = s.others := by unfold State.request; split <;> rfl
@[simp] theorem State.request_gangs (s : State) (mid target : Nat) (w : Word) : (s.request mid target w).gangs = s.gangs := by unfold State.request; split <;> rfl
@[simp] theorem State.request_mem (s : State) (mid target : Nat) (w : Word) : (s.request mid target w).mem = s.mem := by unfold State.request; split <;> rfl
@[simp] theorem State.request_sectors (s : State) (mid target : Nat) (w : Word) : (s.request mid target w).sectors = s.sectors := by unfold State.request; split <;> rfl
@[simp] theorem State.request_spadFlips (s : State) (mid target : Nat) (w : Word) : (s.request mid target w).spadFlips = s.spadFlips := by unfold State.request; split <;> rfl
@[simp] theorem State.request_parityFlips (s : State) (mid target : Nat) (w : Word) : (s.request mid target w).parityFlips = s.parityFlips := by unfold State.request; split <;> rfl
@[simp] theorem State.request_rebuilding (s : State) (mid target : Nat) (w : Word) : (s.request mid target w).rebuilding = s.rebuilding := by unfold State.request; split <;> rfl
@[simp] theorem State.request_tables (s : State) (mid target : Nat) (w : Word) : (s.request mid target w).tables = s.tables := by unfold State.request; split <;> rfl
@[simp] theorem State.request_links (s : State) (mid target : Nat) (w : Word) : (s.request mid target w).links = s.links := by unfold State.request; split <;> rfl
@[simp] theorem State.request_regions (s : State) (mid target : Nat) (w : Word) : (s.request mid target w).regions = s.regions := by unfold State.request; split <;> rfl
@[simp] theorem State.request_mxq (s : State) (mid target : Nat) (w : Word) : (s.request mid target w).mxq = s.mxq := by unfold State.request; split <;> rfl
@[simp] theorem State.request_laneCount (s : State) (mid target : Nat) (w : Word) : (s.request mid target w).laneCount = s.laneCount := by unfold State.request; split <;> rfl
@[simp] theorem State.request_nmcq (s : State) (mid target : Nat) (w : Word) : (s.request mid target w).nmcq = s.nmcq := by unfold State.request; split <;> rfl
@[simp] theorem State.request_memctl (s : State) (mid target : Nat) (w : Word) : (s.request mid target w).memctl = s.memctl := by unfold State.request; split <;> rfl
@[simp] theorem State.request_parts (s : State) (mid target : Nat) (w : Word) : (s.request mid target w).parts = s.parts := by unfold State.request; split <;> rfl
@[simp] theorem State.request_queues (s : State) (mid target : Nat) (w : Word) : (s.request mid target w).queues = s.queues := by unfold State.request; split <;> rfl
@[simp] theorem State.request_eligible (s : State) (mid target : Nat) (w : Word) : (s.request mid target w).eligible = s.eligible := by unfold State.request; split <;> rfl
@[simp] theorem State.request_saved (s : State) (mid target : Nat) (w : Word) : (s.request mid target w).saved = s.saved := by unfold State.request; split <;> rfl
@[simp] theorem State.request_past (s : State) (mid target : Nat) (w : Word) : (s.request mid target w).past = s.past := by unfold State.request; split <;> rfl
@[simp] theorem State.request_signals (s : State) (mid target : Nat) (w : Word) : (s.request mid target w).signals = s.signals := by unfold State.request; split <;> rfl
@[simp] theorem State.request_rings (s : State) (mid target : Nat) (w : Word) : (s.request mid target w).rings = s.rings := by unfold State.request; split <;> rfl
@[simp] theorem State.request_link (s : State) (mid target : Nat) (w : Word) : (s.request mid target w).link = s.link := by unfold State.request; split <;> rfl
@[simp] theorem State.request_sec (s : State) (mid target : Nat) (w : Word) : (s.request mid target w).sec = s.sec := by unfold State.request; split <;> rfl
@[simp] theorem State.request_peerData (s : State) (mid target : Nat) (w : Word) : (s.request mid target w).peerData = s.peerData := by unfold State.request; split <;> rfl
@[simp] theorem State.request_lost (s : State) (mid target : Nat) (w : Word) : (s.request mid target w).lost = s.lost := by unfold State.request; split <;> rfl
@[simp] theorem State.request_reply (s : State) (mid target : Nat) (w : Word) : (s.request mid target w).reply = s.reply := by unfold State.request; split <;> rfl
@[simp] theorem State.request_epochs (s : State) (mid target : Nat) (w : Word) : (s.request mid target w).epochs = s.epochs := by unfold State.request; split <;> rfl
@[simp] theorem State.request_epochStep (s : State) (mid target : Nat) (w : Word) : (s.request mid target w).epochStep = s.epochStep := by unfold State.request; split <;> rfl
@[simp] theorem State.request_placements (s : State) (mid target : Nat) (w : Word) : (s.request mid target w).placements = s.placements := by unfold State.request; split <;> rfl
@[simp] theorem State.request_agenda (s : State) (mid target : Nat) (w : Word) : (s.request mid target w).agenda = s.agenda := by unfold State.request; split <;> rfl
@[simp] theorem State.request_upsets (s : State) (mid target : Nat) (w : Word) : (s.request mid target w).upsets = s.upsets := by unfold State.request; split <;> rfl
@[simp] theorem State.request_stops (s : State) (mid target : Nat) (w : Word) : (s.request mid target w).stops = s.stops := by unfold State.request; split <;> rfl
@[simp] theorem State.request_due (s : State) (mid target : Nat) (w : Word) : (s.request mid target w).due = s.due := by unfold State.request; split <;> rfl
@[simp] theorem State.request_resetStep (s : State) (mid target : Nat) (w : Word) : (s.request mid target w).resetStep = s.resetStep := by unfold State.request; split <;> rfl
@[simp] theorem State.request_free (s : State) (mid target : Nat) (w : Word) : (s.request mid target w).free = s.free := by unfold State.request; split <;> rfl
@[simp] theorem State.request_steps (s : State) (mid target : Nat) (w : Word) : (s.request mid target w).steps = s.steps := by unfold State.request; split <;> rfl

@[simp] theorem Hart.past_id (h : Hart) : (h.past).id = h.id := by unfold Hart.past; rfl
@[simp] theorem Hart.past_gang (h : Hart) : (h.past).gang = h.gang := by unfold Hart.past; rfl
@[simp] theorem Hart.past_index (h : Hart) : (h.past).index = h.index := by unfold Hart.past; rfl
@[simp] theorem Hart.past_parent (h : Hart) : (h.past).parent = h.parent := by unfold Hart.past; rfl
@[simp] theorem Hart.past_child (h : Hart) : (h.past).child = h.child := by unfold Hart.past; rfl
@[simp] theorem Hart.past_depth (h : Hart) : (h.past).depth = h.depth := by unfold Hart.past; rfl
@[simp] theorem Hart.past_wait (h : Hart) : (h.past).wait = h.wait := by unfold Hart.past; rfl
@[simp] theorem Hart.past_frozen (h : Hart) : (h.past).frozen = h.frozen := by unfold Hart.past; rfl
@[simp] theorem Hart.past_prv (h : Hart) : (h.past).prv = h.prv := by unfold Hart.past; rfl
@[simp] theorem Hart.past_part (h : Hart) : (h.past).part = h.part := by unfold Hart.past; rfl
@[simp] theorem Hart.past_skew (h : Hart) : (h.past).skew = h.skew := by unfold Hart.past; rfl
@[simp] theorem Hart.past_pc (h : Hart) : (h.past).pc = h.pc + 4 := rfl
@[simp] theorem Hart.past_ir (h : Hart) : (h.past).ir = h.ir := by unfold Hart.past; rfl
@[simp] theorem Hart.past_s (h : Hart) : (h.past).s = h.s := by unfold Hart.past; rfl
@[simp] theorem Hart.past_a (h : Hart) : (h.past).a = h.a := by unfold Hart.past; rfl
@[simp] theorem Hart.past_c (h : Hart) : (h.past).c = h.c := by unfold Hart.past; rfl
@[simp] theorem Hart.past_v (h : Hart) : (h.past).v = h.v := by unfold Hart.past; rfl
@[simp] theorem Hart.past_tag (h : Hart) : (h.past).tag = h.tag := by unfold Hart.past; rfl
@[simp] theorem Hart.past_m (h : Hart) : (h.past).m = h.m := by unfold Hart.past; rfl
@[simp] theorem Hart.past_t (h : Hart) : (h.past).t = h.t := by unfold Hart.past; rfl
@[simp] theorem Hart.past_tiles (h : Hart) : (h.past).tiles = h.tiles := by unfold Hart.past; rfl
@[simp] theorem Hart.past_tileMap (h : Hart) : (h.past).tileMap = h.tileMap := by unfold Hart.past; rfl
@[simp] theorem Hart.past_k (h : Hart) : (h.past).k = h.k := by unfold Hart.past; rfl
@[simp] theorem Hart.past_win (h : Hart) : (h.past).win = h.win := by unfold Hart.past; rfl
@[simp] theorem Hart.past_f (h : Hart) : (h.past).f = h.f := by unfold Hart.past; rfl
@[simp] theorem Hart.past_h (h : Hart) : (h.past).h = h.h := by unfold Hart.past; rfl
@[simp] theorem Hart.past_gl (h : Hart) : (h.past).gl = h.gl := by unfold Hart.past; rfl
@[simp] theorem Hart.past_erix (h : Hart) : (h.past).erix = h.erix := by unfold Hart.past; rfl
@[simp] theorem Hart.past_fcs (h : Hart) : (h.past).fcs = h.fcs := by unfold Hart.past; rfl
@[simp] theorem Hart.past_gseedLo (h : Hart) : (h.past).gseedLo = h.gseedLo := by unfold Hart.past; rfl
@[simp] theorem Hart.past_gseedHi (h : Hart) : (h.past).gseedHi = h.gseedHi := by unfold Hart.past; rfl
@[simp] theorem Hart.past_pfxs (h : Hart) : (h.past).pfxs = h.pfxs &&& 0x7FFF#16 := rfl
@[simp] theorem Hart.past_grant (h : Hart) : (h.past).grant = h.grant := by unfold Hart.past; rfl
@[simp] theorem Hart.past_forkGrant (h : Hart) : (h.past).forkGrant = h.forkGrant := by unfold Hart.past; rfl
@[simp] theorem Hart.past_pending (h : Hart) : (h.past).pending = h.pending := by unfold Hart.past; rfl
@[simp] theorem Hart.past_laneBase (h : Hart) : (h.past).laneBase = h.laneBase := by unfold Hart.past; rfl
@[simp] theorem Hart.past_sset (h : Hart) : (h.past).sset = h.sset := by unfold Hart.past; rfl
@[simp] theorem Hart.past_mset (h : Hart) : (h.past).mset = h.mset := by unfold Hart.past; rfl
@[simp] theorem Hart.past_frzst (h : Hart) : (h.past).frzst = h.frzst := by unfold Hart.past; rfl
@[simp] theorem Hart.past_frzadr (h : Hart) : (h.past).frzadr = h.frzadr := by unfold Hart.past; rfl
@[simp] theorem Hart.past_linkGen (h : Hart) : (h.past).linkGen = h.linkGen := by unfold Hart.past; rfl
@[simp] theorem Hart.past_unacked (h : Hart) : (h.past).unacked = h.unacked := by unfold Hart.past; rfl
@[simp] theorem Hart.past_lane (h : Hart) : (h.past).lane = h.lane := by unfold Hart.past; rfl
@[simp] theorem Hart.past_credit (h : Hart) : (h.past).credit = h.credit := by unfold Hart.past; rfl
@[simp] theorem Hart.past_view (h : Hart) : (h.past).view = h.view := by unfold Hart.past; rfl
@[simp] theorem Hart.past_undivided (h : Hart) : (h.past).undivided = false := rfl

@[simp] theorem Hart.retire_id (h : Hart) : (h.retire).id = h.id := by unfold Hart.retire; rfl
@[simp] theorem Hart.retire_gang (h : Hart) : (h.retire).gang = h.gang := by unfold Hart.retire; rfl
@[simp] theorem Hart.retire_index (h : Hart) : (h.retire).index = h.index := by unfold Hart.retire; rfl
@[simp] theorem Hart.retire_parent (h : Hart) : (h.retire).parent = h.parent := by unfold Hart.retire; rfl
@[simp] theorem Hart.retire_child (h : Hart) : (h.retire).child = h.child := by unfold Hart.retire; rfl
@[simp] theorem Hart.retire_depth (h : Hart) : (h.retire).depth = h.depth := by unfold Hart.retire; rfl
@[simp] theorem Hart.retire_wait (h : Hart) : (h.retire).wait = h.wait := by unfold Hart.retire; rfl
@[simp] theorem Hart.retire_frozen (h : Hart) : (h.retire).frozen = h.frozen := by unfold Hart.retire; rfl
@[simp] theorem Hart.retire_prv (h : Hart) : (h.retire).prv = h.prv := by unfold Hart.retire; rfl
@[simp] theorem Hart.retire_part (h : Hart) : (h.retire).part = h.part := by unfold Hart.retire; rfl
@[simp] theorem Hart.retire_skew (h : Hart) : (h.retire).skew = h.skew := by unfold Hart.retire; rfl
@[simp] theorem Hart.retire_pc (h : Hart) : (h.retire).pc = h.pc + 4 := rfl
@[simp] theorem Hart.retire_ir (h : Hart) : (h.retire).ir = h.ir := by unfold Hart.retire; rfl
@[simp] theorem Hart.retire_s (h : Hart) : (h.retire).s = h.s := by unfold Hart.retire; rfl
@[simp] theorem Hart.retire_a (h : Hart) : (h.retire).a = h.a := by unfold Hart.retire; rfl
@[simp] theorem Hart.retire_c (h : Hart) : (h.retire).c = h.c := by unfold Hart.retire; rfl
@[simp] theorem Hart.retire_v (h : Hart) : (h.retire).v = h.v := by unfold Hart.retire; rfl
@[simp] theorem Hart.retire_tag (h : Hart) : (h.retire).tag = h.tag := by unfold Hart.retire; rfl
@[simp] theorem Hart.retire_m (h : Hart) : (h.retire).m = h.m := by unfold Hart.retire; rfl
@[simp] theorem Hart.retire_t (h : Hart) : (h.retire).t = h.t := by unfold Hart.retire; rfl
@[simp] theorem Hart.retire_tiles (h : Hart) : (h.retire).tiles = h.tiles := by unfold Hart.retire; rfl
@[simp] theorem Hart.retire_tileMap (h : Hart) : (h.retire).tileMap = h.tileMap := by unfold Hart.retire; rfl
@[simp] theorem Hart.retire_k (h : Hart) : (h.retire).k = h.k := by unfold Hart.retire; rfl
@[simp] theorem Hart.retire_win (h : Hart) : (h.retire).win = h.win := by unfold Hart.retire; rfl
@[simp] theorem Hart.retire_f (h : Hart) : (h.retire).f = h.f := by unfold Hart.retire; rfl
@[simp] theorem Hart.retire_h (h : Hart) : (h.retire).h = h.h := by unfold Hart.retire; rfl
@[simp] theorem Hart.retire_gl (h : Hart) : (h.retire).gl = h.gl := by unfold Hart.retire; rfl
@[simp] theorem Hart.retire_erix (h : Hart) : (h.retire).erix = h.erix := by unfold Hart.retire; rfl
@[simp] theorem Hart.retire_fcs (h : Hart) : (h.retire).fcs = h.fcs := by unfold Hart.retire; rfl
@[simp] theorem Hart.retire_gseedLo (h : Hart) : (h.retire).gseedLo = h.gseedLo := by unfold Hart.retire; rfl
@[simp] theorem Hart.retire_gseedHi (h : Hart) : (h.retire).gseedHi = h.gseedHi := by unfold Hart.retire; rfl
@[simp] theorem Hart.retire_grant (h : Hart) : (h.retire).grant = h.grant := by unfold Hart.retire; rfl
@[simp] theorem Hart.retire_forkGrant (h : Hart) : (h.retire).forkGrant = h.forkGrant := by unfold Hart.retire; rfl
@[simp] theorem Hart.retire_pending (h : Hart) : (h.retire).pending = h.pending := by unfold Hart.retire; rfl
@[simp] theorem Hart.retire_laneBase (h : Hart) : (h.retire).laneBase = h.laneBase := by unfold Hart.retire; rfl
@[simp] theorem Hart.retire_sset (h : Hart) : (h.retire).sset = h.sset := by unfold Hart.retire; rfl
@[simp] theorem Hart.retire_mset (h : Hart) : (h.retire).mset = h.mset := by unfold Hart.retire; rfl
@[simp] theorem Hart.retire_frzst (h : Hart) : (h.retire).frzst = h.frzst := by unfold Hart.retire; rfl
@[simp] theorem Hart.retire_frzadr (h : Hart) : (h.retire).frzadr = h.frzadr := by unfold Hart.retire; rfl
@[simp] theorem Hart.retire_linkGen (h : Hart) : (h.retire).linkGen = h.linkGen := by unfold Hart.retire; rfl
@[simp] theorem Hart.retire_unacked (h : Hart) : (h.retire).unacked = h.unacked := by unfold Hart.retire; rfl
@[simp] theorem Hart.retire_lane (h : Hart) : (h.retire).lane = h.lane := by unfold Hart.retire; rfl
@[simp] theorem Hart.retire_credit (h : Hart) : (h.retire).credit = h.credit := by unfold Hart.retire; rfl
@[simp] theorem Hart.retire_view (h : Hart) : (h.retire).view = h.view := by unfold Hart.retire; rfl
@[simp] theorem Hart.retire_undivided (h : Hart) : (h.retire).undivided = false := rfl

@[simp] theorem Hart.jumped_id (h : Hart) (t : Word) : (h.jumped t).id = h.id := by unfold Hart.jumped; rfl
@[simp] theorem Hart.jumped_gang (h : Hart) (t : Word) : (h.jumped t).gang = h.gang := by unfold Hart.jumped; rfl
@[simp] theorem Hart.jumped_index (h : Hart) (t : Word) : (h.jumped t).index = h.index := by unfold Hart.jumped; rfl
@[simp] theorem Hart.jumped_parent (h : Hart) (t : Word) : (h.jumped t).parent = h.parent := by unfold Hart.jumped; rfl
@[simp] theorem Hart.jumped_child (h : Hart) (t : Word) : (h.jumped t).child = h.child := by unfold Hart.jumped; rfl
@[simp] theorem Hart.jumped_depth (h : Hart) (t : Word) : (h.jumped t).depth = h.depth := by unfold Hart.jumped; rfl
@[simp] theorem Hart.jumped_wait (h : Hart) (t : Word) : (h.jumped t).wait = h.wait := by unfold Hart.jumped; rfl
@[simp] theorem Hart.jumped_frozen (h : Hart) (t : Word) : (h.jumped t).frozen = h.frozen := by unfold Hart.jumped; rfl
@[simp] theorem Hart.jumped_prv (h : Hart) (t : Word) : (h.jumped t).prv = h.prv := by unfold Hart.jumped; rfl
@[simp] theorem Hart.jumped_part (h : Hart) (t : Word) : (h.jumped t).part = h.part := by unfold Hart.jumped; rfl
@[simp] theorem Hart.jumped_skew (h : Hart) (t : Word) : (h.jumped t).skew = h.skew := by unfold Hart.jumped; rfl
@[simp] theorem Hart.jumped_pc (h : Hart) (t : Word) : (h.jumped t).pc = t := rfl
@[simp] theorem Hart.jumped_ir (h : Hart) (t : Word) : (h.jumped t).ir = h.ir := by unfold Hart.jumped; rfl
@[simp] theorem Hart.jumped_s (h : Hart) (t : Word) : (h.jumped t).s = h.s := by unfold Hart.jumped; rfl
@[simp] theorem Hart.jumped_a (h : Hart) (t : Word) : (h.jumped t).a = h.a := by unfold Hart.jumped; rfl
@[simp] theorem Hart.jumped_c (h : Hart) (t : Word) : (h.jumped t).c = h.c := by unfold Hart.jumped; rfl
@[simp] theorem Hart.jumped_v (h : Hart) (t : Word) : (h.jumped t).v = h.v := by unfold Hart.jumped; rfl
@[simp] theorem Hart.jumped_tag (h : Hart) (t : Word) : (h.jumped t).tag = h.tag := by unfold Hart.jumped; rfl
@[simp] theorem Hart.jumped_m (h : Hart) (t : Word) : (h.jumped t).m = h.m := by unfold Hart.jumped; rfl
@[simp] theorem Hart.jumped_t (h : Hart) (t : Word) : (h.jumped t).t = h.t := by unfold Hart.jumped; rfl
@[simp] theorem Hart.jumped_tiles (h : Hart) (t : Word) : (h.jumped t).tiles = h.tiles := by unfold Hart.jumped; rfl
@[simp] theorem Hart.jumped_tileMap (h : Hart) (t : Word) : (h.jumped t).tileMap = h.tileMap := by unfold Hart.jumped; rfl
@[simp] theorem Hart.jumped_k (h : Hart) (t : Word) : (h.jumped t).k = h.k := by unfold Hart.jumped; rfl
@[simp] theorem Hart.jumped_win (h : Hart) (t : Word) : (h.jumped t).win = h.win := by unfold Hart.jumped; rfl
@[simp] theorem Hart.jumped_f (h : Hart) (t : Word) : (h.jumped t).f = h.f := by unfold Hart.jumped; rfl
@[simp] theorem Hart.jumped_h (h : Hart) (t : Word) : (h.jumped t).h = h.h := by unfold Hart.jumped; rfl
@[simp] theorem Hart.jumped_gl (h : Hart) (t : Word) : (h.jumped t).gl = h.gl := by unfold Hart.jumped; rfl
@[simp] theorem Hart.jumped_erix (h : Hart) (t : Word) : (h.jumped t).erix = h.erix := by unfold Hart.jumped; rfl
@[simp] theorem Hart.jumped_fcs (h : Hart) (t : Word) : (h.jumped t).fcs = h.fcs := by unfold Hart.jumped; rfl
@[simp] theorem Hart.jumped_gseedLo (h : Hart) (t : Word) : (h.jumped t).gseedLo = h.gseedLo := by unfold Hart.jumped; rfl
@[simp] theorem Hart.jumped_gseedHi (h : Hart) (t : Word) : (h.jumped t).gseedHi = h.gseedHi := by unfold Hart.jumped; rfl
@[simp] theorem Hart.jumped_pfxs (h : Hart) (t : Word) : (h.jumped t).pfxs = h.pfxs &&& 0x7FFF#16 := rfl
@[simp] theorem Hart.jumped_grant (h : Hart) (t : Word) : (h.jumped t).grant = h.grant := by unfold Hart.jumped; rfl
@[simp] theorem Hart.jumped_forkGrant (h : Hart) (t : Word) : (h.jumped t).forkGrant = h.forkGrant := by unfold Hart.jumped; rfl
@[simp] theorem Hart.jumped_pending (h : Hart) (t : Word) : (h.jumped t).pending = h.pending := by unfold Hart.jumped; rfl
@[simp] theorem Hart.jumped_laneBase (h : Hart) (t : Word) : (h.jumped t).laneBase = h.laneBase := by unfold Hart.jumped; rfl
@[simp] theorem Hart.jumped_sset (h : Hart) (t : Word) : (h.jumped t).sset = h.sset := by unfold Hart.jumped; rfl
@[simp] theorem Hart.jumped_mset (h : Hart) (t : Word) : (h.jumped t).mset = h.mset := by unfold Hart.jumped; rfl
@[simp] theorem Hart.jumped_frzst (h : Hart) (t : Word) : (h.jumped t).frzst = h.frzst := by unfold Hart.jumped; rfl
@[simp] theorem Hart.jumped_frzadr (h : Hart) (t : Word) : (h.jumped t).frzadr = h.frzadr := by unfold Hart.jumped; rfl
@[simp] theorem Hart.jumped_linkGen (h : Hart) (t : Word) : (h.jumped t).linkGen = h.linkGen := by unfold Hart.jumped; rfl
@[simp] theorem Hart.jumped_unacked (h : Hart) (t : Word) : (h.jumped t).unacked = h.unacked := by unfold Hart.jumped; rfl
@[simp] theorem Hart.jumped_lane (h : Hart) (t : Word) : (h.jumped t).lane = h.lane := by unfold Hart.jumped; rfl
@[simp] theorem Hart.jumped_credit (h : Hart) (t : Word) : (h.jumped t).credit = h.credit := by unfold Hart.jumped; rfl
@[simp] theorem Hart.jumped_view (h : Hart) (t : Word) : (h.jumped t).view = h.view := by unfold Hart.jumped; rfl
@[simp] theorem Hart.jumped_undivided (h : Hart) (t : Word) : (h.jumped t).undivided = false := rfl

@[simp] theorem Hart.wrote_id (h : Hart) (d : SReg) (w : Word) : (h.wrote d w).id = h.id := by unfold Hart.wrote; rfl
@[simp] theorem Hart.wrote_gang (h : Hart) (d : SReg) (w : Word) : (h.wrote d w).gang = h.gang := by unfold Hart.wrote; rfl
@[simp] theorem Hart.wrote_index (h : Hart) (d : SReg) (w : Word) : (h.wrote d w).index = h.index := by unfold Hart.wrote; rfl
@[simp] theorem Hart.wrote_parent (h : Hart) (d : SReg) (w : Word) : (h.wrote d w).parent = h.parent := by unfold Hart.wrote; rfl
@[simp] theorem Hart.wrote_child (h : Hart) (d : SReg) (w : Word) : (h.wrote d w).child = h.child := by unfold Hart.wrote; rfl
@[simp] theorem Hart.wrote_depth (h : Hart) (d : SReg) (w : Word) : (h.wrote d w).depth = h.depth := by unfold Hart.wrote; rfl
@[simp] theorem Hart.wrote_wait (h : Hart) (d : SReg) (w : Word) : (h.wrote d w).wait = h.wait := by unfold Hart.wrote; rfl
@[simp] theorem Hart.wrote_frozen (h : Hart) (d : SReg) (w : Word) : (h.wrote d w).frozen = h.frozen := by unfold Hart.wrote; rfl
@[simp] theorem Hart.wrote_prv (h : Hart) (d : SReg) (w : Word) : (h.wrote d w).prv = h.prv := by unfold Hart.wrote; rfl
@[simp] theorem Hart.wrote_part (h : Hart) (d : SReg) (w : Word) : (h.wrote d w).part = h.part := by unfold Hart.wrote; rfl
@[simp] theorem Hart.wrote_skew (h : Hart) (d : SReg) (w : Word) : (h.wrote d w).skew = h.skew := by unfold Hart.wrote; rfl
@[simp] theorem Hart.wrote_pc (h : Hart) (d : SReg) (w : Word) : (h.wrote d w).pc = h.pc := by unfold Hart.wrote; rfl
@[simp] theorem Hart.wrote_ir (h : Hart) (d : SReg) (w : Word) : (h.wrote d w).ir = h.ir := by unfold Hart.wrote; rfl
@[simp] theorem Hart.wrote_c (h : Hart) (d : SReg) (w : Word) : (h.wrote d w).c = h.c := by unfold Hart.wrote; rfl
@[simp] theorem Hart.wrote_v (h : Hart) (d : SReg) (w : Word) : (h.wrote d w).v = h.v := by unfold Hart.wrote; rfl
@[simp] theorem Hart.wrote_tag (h : Hart) (d : SReg) (w : Word) : (h.wrote d w).tag = h.tag := by unfold Hart.wrote; rfl
@[simp] theorem Hart.wrote_m (h : Hart) (d : SReg) (w : Word) : (h.wrote d w).m = h.m := by unfold Hart.wrote; rfl
@[simp] theorem Hart.wrote_t (h : Hart) (d : SReg) (w : Word) : (h.wrote d w).t = h.t := by unfold Hart.wrote; rfl
@[simp] theorem Hart.wrote_tiles (h : Hart) (d : SReg) (w : Word) : (h.wrote d w).tiles = h.tiles := by unfold Hart.wrote; rfl
@[simp] theorem Hart.wrote_tileMap (h : Hart) (d : SReg) (w : Word) : (h.wrote d w).tileMap = h.tileMap := by unfold Hart.wrote; rfl
@[simp] theorem Hart.wrote_k (h : Hart) (d : SReg) (w : Word) : (h.wrote d w).k = h.k := by unfold Hart.wrote; rfl
@[simp] theorem Hart.wrote_win (h : Hart) (d : SReg) (w : Word) : (h.wrote d w).win = h.win := by unfold Hart.wrote; rfl
@[simp] theorem Hart.wrote_f (h : Hart) (d : SReg) (w : Word) : (h.wrote d w).f = h.f := by unfold Hart.wrote; rfl
@[simp] theorem Hart.wrote_h (h : Hart) (d : SReg) (w : Word) : (h.wrote d w).h = h.h := by unfold Hart.wrote; rfl
@[simp] theorem Hart.wrote_gl (h : Hart) (d : SReg) (w : Word) : (h.wrote d w).gl = h.gl := by unfold Hart.wrote; rfl
@[simp] theorem Hart.wrote_erix (h : Hart) (d : SReg) (w : Word) : (h.wrote d w).erix = h.erix := by unfold Hart.wrote; rfl
@[simp] theorem Hart.wrote_fcs (h : Hart) (d : SReg) (w : Word) : (h.wrote d w).fcs = h.fcs := by unfold Hart.wrote; rfl
@[simp] theorem Hart.wrote_gseedLo (h : Hart) (d : SReg) (w : Word) : (h.wrote d w).gseedLo = h.gseedLo := by unfold Hart.wrote; rfl
@[simp] theorem Hart.wrote_gseedHi (h : Hart) (d : SReg) (w : Word) : (h.wrote d w).gseedHi = h.gseedHi := by unfold Hart.wrote; rfl
@[simp] theorem Hart.wrote_pfxs (h : Hart) (d : SReg) (w : Word) : (h.wrote d w).pfxs = h.pfxs := by unfold Hart.wrote; rfl
@[simp] theorem Hart.wrote_grant (h : Hart) (d : SReg) (w : Word) : (h.wrote d w).grant = h.grant := by unfold Hart.wrote; rfl
@[simp] theorem Hart.wrote_forkGrant (h : Hart) (d : SReg) (w : Word) : (h.wrote d w).forkGrant = h.forkGrant := by unfold Hart.wrote; rfl
@[simp] theorem Hart.wrote_pending (h : Hart) (d : SReg) (w : Word) : (h.wrote d w).pending = h.pending := by unfold Hart.wrote; rfl
@[simp] theorem Hart.wrote_laneBase (h : Hart) (d : SReg) (w : Word) : (h.wrote d w).laneBase = h.laneBase := by unfold Hart.wrote; rfl
@[simp] theorem Hart.wrote_sset (h : Hart) (d : SReg) (w : Word) : (h.wrote d w).sset = h.sset := by unfold Hart.wrote; rfl
@[simp] theorem Hart.wrote_mset (h : Hart) (d : SReg) (w : Word) : (h.wrote d w).mset = h.mset := by unfold Hart.wrote; rfl
@[simp] theorem Hart.wrote_frzst (h : Hart) (d : SReg) (w : Word) : (h.wrote d w).frzst = h.frzst := by unfold Hart.wrote; rfl
@[simp] theorem Hart.wrote_frzadr (h : Hart) (d : SReg) (w : Word) : (h.wrote d w).frzadr = h.frzadr := by unfold Hart.wrote; rfl
@[simp] theorem Hart.wrote_linkGen (h : Hart) (d : SReg) (w : Word) : (h.wrote d w).linkGen = h.linkGen := by unfold Hart.wrote; rfl
@[simp] theorem Hart.wrote_unacked (h : Hart) (d : SReg) (w : Word) : (h.wrote d w).unacked = h.unacked := by unfold Hart.wrote; rfl
@[simp] theorem Hart.wrote_lane (h : Hart) (d : SReg) (w : Word) : (h.wrote d w).lane = h.lane := by unfold Hart.wrote; rfl
@[simp] theorem Hart.wrote_credit (h : Hart) (d : SReg) (w : Word) : (h.wrote d w).credit = h.credit := by unfold Hart.wrote; rfl
@[simp] theorem Hart.wrote_view (h : Hart) (d : SReg) (w : Word) : (h.wrote d w).view = h.view := by unfold Hart.wrote; rfl
@[simp] theorem Hart.wrote_undivided (h : Hart) (d : SReg) (w : Word) : (h.wrote d w).undivided = h.undivided := by unfold Hart.wrote; rfl

@[simp] theorem Hart.wroteOnly_id (h : Hart) (d : SReg) (w : Word) : (h.wroteOnly d w).id = h.id := by unfold Hart.wroteOnly; rfl
@[simp] theorem Hart.wroteOnly_gang (h : Hart) (d : SReg) (w : Word) : (h.wroteOnly d w).gang = h.gang := by unfold Hart.wroteOnly; rfl
@[simp] theorem Hart.wroteOnly_index (h : Hart) (d : SReg) (w : Word) : (h.wroteOnly d w).index = h.index := by unfold Hart.wroteOnly; rfl
@[simp] theorem Hart.wroteOnly_parent (h : Hart) (d : SReg) (w : Word) : (h.wroteOnly d w).parent = h.parent := by unfold Hart.wroteOnly; rfl
@[simp] theorem Hart.wroteOnly_child (h : Hart) (d : SReg) (w : Word) : (h.wroteOnly d w).child = h.child := by unfold Hart.wroteOnly; rfl
@[simp] theorem Hart.wroteOnly_depth (h : Hart) (d : SReg) (w : Word) : (h.wroteOnly d w).depth = h.depth := by unfold Hart.wroteOnly; rfl
@[simp] theorem Hart.wroteOnly_wait (h : Hart) (d : SReg) (w : Word) : (h.wroteOnly d w).wait = h.wait := by unfold Hart.wroteOnly; rfl
@[simp] theorem Hart.wroteOnly_frozen (h : Hart) (d : SReg) (w : Word) : (h.wroteOnly d w).frozen = h.frozen := by unfold Hart.wroteOnly; rfl
@[simp] theorem Hart.wroteOnly_prv (h : Hart) (d : SReg) (w : Word) : (h.wroteOnly d w).prv = h.prv := by unfold Hart.wroteOnly; rfl
@[simp] theorem Hart.wroteOnly_part (h : Hart) (d : SReg) (w : Word) : (h.wroteOnly d w).part = h.part := by unfold Hart.wroteOnly; rfl
@[simp] theorem Hart.wroteOnly_skew (h : Hart) (d : SReg) (w : Word) : (h.wroteOnly d w).skew = h.skew := by unfold Hart.wroteOnly; rfl
@[simp] theorem Hart.wroteOnly_pc (h : Hart) (d : SReg) (w : Word) : (h.wroteOnly d w).pc = h.pc := by unfold Hart.wroteOnly; rfl
@[simp] theorem Hart.wroteOnly_ir (h : Hart) (d : SReg) (w : Word) : (h.wroteOnly d w).ir = h.ir := by unfold Hart.wroteOnly; rfl
@[simp] theorem Hart.wroteOnly_a (h : Hart) (d : SReg) (w : Word) : (h.wroteOnly d w).a = h.a := by unfold Hart.wroteOnly; rfl
@[simp] theorem Hart.wroteOnly_c (h : Hart) (d : SReg) (w : Word) : (h.wroteOnly d w).c = h.c := by unfold Hart.wroteOnly; rfl
@[simp] theorem Hart.wroteOnly_v (h : Hart) (d : SReg) (w : Word) : (h.wroteOnly d w).v = h.v := by unfold Hart.wroteOnly; rfl
@[simp] theorem Hart.wroteOnly_tag (h : Hart) (d : SReg) (w : Word) : (h.wroteOnly d w).tag = h.tag := by unfold Hart.wroteOnly; rfl
@[simp] theorem Hart.wroteOnly_m (h : Hart) (d : SReg) (w : Word) : (h.wroteOnly d w).m = h.m := by unfold Hart.wroteOnly; rfl
@[simp] theorem Hart.wroteOnly_t (h : Hart) (d : SReg) (w : Word) : (h.wroteOnly d w).t = h.t := by unfold Hart.wroteOnly; rfl
@[simp] theorem Hart.wroteOnly_tiles (h : Hart) (d : SReg) (w : Word) : (h.wroteOnly d w).tiles = h.tiles := by unfold Hart.wroteOnly; rfl
@[simp] theorem Hart.wroteOnly_tileMap (h : Hart) (d : SReg) (w : Word) : (h.wroteOnly d w).tileMap = h.tileMap := by unfold Hart.wroteOnly; rfl
@[simp] theorem Hart.wroteOnly_k (h : Hart) (d : SReg) (w : Word) : (h.wroteOnly d w).k = h.k := by unfold Hart.wroteOnly; rfl
@[simp] theorem Hart.wroteOnly_win (h : Hart) (d : SReg) (w : Word) : (h.wroteOnly d w).win = h.win := by unfold Hart.wroteOnly; rfl
@[simp] theorem Hart.wroteOnly_f (h : Hart) (d : SReg) (w : Word) : (h.wroteOnly d w).f = h.f := by unfold Hart.wroteOnly; rfl
@[simp] theorem Hart.wroteOnly_h (h : Hart) (d : SReg) (w : Word) : (h.wroteOnly d w).h = h.h := by unfold Hart.wroteOnly; rfl
@[simp] theorem Hart.wroteOnly_gl (h : Hart) (d : SReg) (w : Word) : (h.wroteOnly d w).gl = h.gl := by unfold Hart.wroteOnly; rfl
@[simp] theorem Hart.wroteOnly_erix (h : Hart) (d : SReg) (w : Word) : (h.wroteOnly d w).erix = h.erix := by unfold Hart.wroteOnly; rfl
@[simp] theorem Hart.wroteOnly_fcs (h : Hart) (d : SReg) (w : Word) : (h.wroteOnly d w).fcs = h.fcs := by unfold Hart.wroteOnly; rfl
@[simp] theorem Hart.wroteOnly_gseedLo (h : Hart) (d : SReg) (w : Word) : (h.wroteOnly d w).gseedLo = h.gseedLo := by unfold Hart.wroteOnly; rfl
@[simp] theorem Hart.wroteOnly_gseedHi (h : Hart) (d : SReg) (w : Word) : (h.wroteOnly d w).gseedHi = h.gseedHi := by unfold Hart.wroteOnly; rfl
@[simp] theorem Hart.wroteOnly_pfxs (h : Hart) (d : SReg) (w : Word) : (h.wroteOnly d w).pfxs = h.pfxs := by unfold Hart.wroteOnly; rfl
@[simp] theorem Hart.wroteOnly_grant (h : Hart) (d : SReg) (w : Word) : (h.wroteOnly d w).grant = h.grant := by unfold Hart.wroteOnly; rfl
@[simp] theorem Hart.wroteOnly_forkGrant (h : Hart) (d : SReg) (w : Word) : (h.wroteOnly d w).forkGrant = h.forkGrant := by unfold Hart.wroteOnly; rfl
@[simp] theorem Hart.wroteOnly_pending (h : Hart) (d : SReg) (w : Word) : (h.wroteOnly d w).pending = h.pending := by unfold Hart.wroteOnly; rfl
@[simp] theorem Hart.wroteOnly_laneBase (h : Hart) (d : SReg) (w : Word) : (h.wroteOnly d w).laneBase = h.laneBase := by unfold Hart.wroteOnly; rfl
@[simp] theorem Hart.wroteOnly_sset (h : Hart) (d : SReg) (w : Word) : (h.wroteOnly d w).sset = h.sset := by unfold Hart.wroteOnly; rfl
@[simp] theorem Hart.wroteOnly_mset (h : Hart) (d : SReg) (w : Word) : (h.wroteOnly d w).mset = h.mset := by unfold Hart.wroteOnly; rfl
@[simp] theorem Hart.wroteOnly_frzst (h : Hart) (d : SReg) (w : Word) : (h.wroteOnly d w).frzst = h.frzst := by unfold Hart.wroteOnly; rfl
@[simp] theorem Hart.wroteOnly_frzadr (h : Hart) (d : SReg) (w : Word) : (h.wroteOnly d w).frzadr = h.frzadr := by unfold Hart.wroteOnly; rfl
@[simp] theorem Hart.wroteOnly_linkGen (h : Hart) (d : SReg) (w : Word) : (h.wroteOnly d w).linkGen = h.linkGen := by unfold Hart.wroteOnly; rfl
@[simp] theorem Hart.wroteOnly_unacked (h : Hart) (d : SReg) (w : Word) : (h.wroteOnly d w).unacked = h.unacked := by unfold Hart.wroteOnly; rfl
@[simp] theorem Hart.wroteOnly_lane (h : Hart) (d : SReg) (w : Word) : (h.wroteOnly d w).lane = h.lane := by unfold Hart.wroteOnly; rfl
@[simp] theorem Hart.wroteOnly_credit (h : Hart) (d : SReg) (w : Word) : (h.wroteOnly d w).credit = h.credit := by unfold Hart.wroteOnly; rfl
@[simp] theorem Hart.wroteOnly_view (h : Hart) (d : SReg) (w : Word) : (h.wroteOnly d w).view = h.view := by unfold Hart.wroteOnly; rfl
@[simp] theorem Hart.wroteOnly_undivided (h : Hart) (d : SReg) (w : Word) : (h.wroteOnly d w).undivided = h.undivided := by unfold Hart.wroteOnly; rfl

@[simp] theorem Hart.wa_id (h : Hart) (r : AReg) (w : Word) : (h.wa r w).id = h.id := by unfold Hart.wa; rfl
@[simp] theorem Hart.wa_gang (h : Hart) (r : AReg) (w : Word) : (h.wa r w).gang = h.gang := by unfold Hart.wa; rfl
@[simp] theorem Hart.wa_index (h : Hart) (r : AReg) (w : Word) : (h.wa r w).index = h.index := by unfold Hart.wa; rfl
@[simp] theorem Hart.wa_parent (h : Hart) (r : AReg) (w : Word) : (h.wa r w).parent = h.parent := by unfold Hart.wa; rfl
@[simp] theorem Hart.wa_child (h : Hart) (r : AReg) (w : Word) : (h.wa r w).child = h.child := by unfold Hart.wa; rfl
@[simp] theorem Hart.wa_depth (h : Hart) (r : AReg) (w : Word) : (h.wa r w).depth = h.depth := by unfold Hart.wa; rfl
@[simp] theorem Hart.wa_wait (h : Hart) (r : AReg) (w : Word) : (h.wa r w).wait = h.wait := by unfold Hart.wa; rfl
@[simp] theorem Hart.wa_frozen (h : Hart) (r : AReg) (w : Word) : (h.wa r w).frozen = h.frozen := by unfold Hart.wa; rfl
@[simp] theorem Hart.wa_prv (h : Hart) (r : AReg) (w : Word) : (h.wa r w).prv = h.prv := by unfold Hart.wa; rfl
@[simp] theorem Hart.wa_part (h : Hart) (r : AReg) (w : Word) : (h.wa r w).part = h.part := by unfold Hart.wa; rfl
@[simp] theorem Hart.wa_skew (h : Hart) (r : AReg) (w : Word) : (h.wa r w).skew = h.skew := by unfold Hart.wa; rfl
@[simp] theorem Hart.wa_pc (h : Hart) (r : AReg) (w : Word) : (h.wa r w).pc = h.pc := by unfold Hart.wa; rfl
@[simp] theorem Hart.wa_ir (h : Hart) (r : AReg) (w : Word) : (h.wa r w).ir = h.ir := by unfold Hart.wa; rfl
@[simp] theorem Hart.wa_s (h : Hart) (r : AReg) (w : Word) : (h.wa r w).s = h.s := by unfold Hart.wa; rfl
@[simp] theorem Hart.wa_a (h : Hart) (r : AReg) (w : Word) : (h.wa r w).a = h.a.set r w := rfl
@[simp] theorem Hart.wa_c (h : Hart) (r : AReg) (w : Word) : (h.wa r w).c = h.c := by unfold Hart.wa; rfl
@[simp] theorem Hart.wa_v (h : Hart) (r : AReg) (w : Word) : (h.wa r w).v = h.v := by unfold Hart.wa; rfl
@[simp] theorem Hart.wa_tag (h : Hart) (r : AReg) (w : Word) : (h.wa r w).tag = h.tag := by unfold Hart.wa; rfl
@[simp] theorem Hart.wa_m (h : Hart) (r : AReg) (w : Word) : (h.wa r w).m = h.m := by unfold Hart.wa; rfl
@[simp] theorem Hart.wa_t (h : Hart) (r : AReg) (w : Word) : (h.wa r w).t = h.t := by unfold Hart.wa; rfl
@[simp] theorem Hart.wa_tiles (h : Hart) (r : AReg) (w : Word) : (h.wa r w).tiles = h.tiles := by unfold Hart.wa; rfl
@[simp] theorem Hart.wa_tileMap (h : Hart) (r : AReg) (w : Word) : (h.wa r w).tileMap = h.tileMap := by unfold Hart.wa; rfl
@[simp] theorem Hart.wa_k (h : Hart) (r : AReg) (w : Word) : (h.wa r w).k = h.k := by unfold Hart.wa; rfl
@[simp] theorem Hart.wa_win (h : Hart) (r : AReg) (w : Word) : (h.wa r w).win = h.win := by unfold Hart.wa; rfl
@[simp] theorem Hart.wa_f (h : Hart) (r : AReg) (w : Word) : (h.wa r w).f = h.f := by unfold Hart.wa; rfl
@[simp] theorem Hart.wa_h (h : Hart) (r : AReg) (w : Word) : (h.wa r w).h = h.h := by unfold Hart.wa; rfl
@[simp] theorem Hart.wa_gl (h : Hart) (r : AReg) (w : Word) : (h.wa r w).gl = h.gl := by unfold Hart.wa; rfl
@[simp] theorem Hart.wa_erix (h : Hart) (r : AReg) (w : Word) : (h.wa r w).erix = h.erix := by unfold Hart.wa; rfl
@[simp] theorem Hart.wa_fcs (h : Hart) (r : AReg) (w : Word) : (h.wa r w).fcs = h.fcs := by unfold Hart.wa; rfl
@[simp] theorem Hart.wa_gseedLo (h : Hart) (r : AReg) (w : Word) : (h.wa r w).gseedLo = h.gseedLo := by unfold Hart.wa; rfl
@[simp] theorem Hart.wa_gseedHi (h : Hart) (r : AReg) (w : Word) : (h.wa r w).gseedHi = h.gseedHi := by unfold Hart.wa; rfl
@[simp] theorem Hart.wa_pfxs (h : Hart) (r : AReg) (w : Word) : (h.wa r w).pfxs = h.pfxs := by unfold Hart.wa; rfl
@[simp] theorem Hart.wa_grant (h : Hart) (r : AReg) (w : Word) : (h.wa r w).grant = h.grant := by unfold Hart.wa; rfl
@[simp] theorem Hart.wa_forkGrant (h : Hart) (r : AReg) (w : Word) : (h.wa r w).forkGrant = h.forkGrant := by unfold Hart.wa; rfl
@[simp] theorem Hart.wa_pending (h : Hart) (r : AReg) (w : Word) : (h.wa r w).pending = h.pending := by unfold Hart.wa; rfl
@[simp] theorem Hart.wa_laneBase (h : Hart) (r : AReg) (w : Word) : (h.wa r w).laneBase = h.laneBase := by unfold Hart.wa; rfl
@[simp] theorem Hart.wa_sset (h : Hart) (r : AReg) (w : Word) : (h.wa r w).sset = h.sset := by unfold Hart.wa; rfl
@[simp] theorem Hart.wa_mset (h : Hart) (r : AReg) (w : Word) : (h.wa r w).mset = h.mset := by unfold Hart.wa; rfl
@[simp] theorem Hart.wa_frzst (h : Hart) (r : AReg) (w : Word) : (h.wa r w).frzst = h.frzst := by unfold Hart.wa; rfl
@[simp] theorem Hart.wa_frzadr (h : Hart) (r : AReg) (w : Word) : (h.wa r w).frzadr = h.frzadr := by unfold Hart.wa; rfl
@[simp] theorem Hart.wa_linkGen (h : Hart) (r : AReg) (w : Word) : (h.wa r w).linkGen = h.linkGen := by unfold Hart.wa; rfl
@[simp] theorem Hart.wa_unacked (h : Hart) (r : AReg) (w : Word) : (h.wa r w).unacked = h.unacked := by unfold Hart.wa; rfl
@[simp] theorem Hart.wa_lane (h : Hart) (r : AReg) (w : Word) : (h.wa r w).lane = h.lane := by unfold Hart.wa; rfl
@[simp] theorem Hart.wa_credit (h : Hart) (r : AReg) (w : Word) : (h.wa r w).credit = h.credit := by unfold Hart.wa; rfl
@[simp] theorem Hart.wa_view (h : Hart) (r : AReg) (w : Word) : (h.wa r w).view = h.view := by unfold Hart.wa; rfl
@[simp] theorem Hart.wa_undivided (h : Hart) (r : AReg) (w : Word) : (h.wa r w).undivided = h.undivided := by unfold Hart.wa; rfl

@[simp] theorem Hart.putK_id (h : Hart) (i : KIdx) (k : KReg) : (h.putK i k).id = h.id := by unfold Hart.putK; rfl
@[simp] theorem Hart.putK_gang (h : Hart) (i : KIdx) (k : KReg) : (h.putK i k).gang = h.gang := by unfold Hart.putK; rfl
@[simp] theorem Hart.putK_index (h : Hart) (i : KIdx) (k : KReg) : (h.putK i k).index = h.index := by unfold Hart.putK; rfl
@[simp] theorem Hart.putK_parent (h : Hart) (i : KIdx) (k : KReg) : (h.putK i k).parent = h.parent := by unfold Hart.putK; rfl
@[simp] theorem Hart.putK_child (h : Hart) (i : KIdx) (k : KReg) : (h.putK i k).child = h.child := by unfold Hart.putK; rfl
@[simp] theorem Hart.putK_depth (h : Hart) (i : KIdx) (k : KReg) : (h.putK i k).depth = h.depth := by unfold Hart.putK; rfl
@[simp] theorem Hart.putK_wait (h : Hart) (i : KIdx) (k : KReg) : (h.putK i k).wait = h.wait := by unfold Hart.putK; rfl
@[simp] theorem Hart.putK_frozen (h : Hart) (i : KIdx) (k : KReg) : (h.putK i k).frozen = h.frozen := by unfold Hart.putK; rfl
@[simp] theorem Hart.putK_prv (h : Hart) (i : KIdx) (k : KReg) : (h.putK i k).prv = h.prv := by unfold Hart.putK; rfl
@[simp] theorem Hart.putK_part (h : Hart) (i : KIdx) (k : KReg) : (h.putK i k).part = h.part := by unfold Hart.putK; rfl
@[simp] theorem Hart.putK_skew (h : Hart) (i : KIdx) (k : KReg) : (h.putK i k).skew = h.skew := by unfold Hart.putK; rfl
@[simp] theorem Hart.putK_pc (h : Hart) (i : KIdx) (k : KReg) : (h.putK i k).pc = h.pc := by unfold Hart.putK; rfl
@[simp] theorem Hart.putK_ir (h : Hart) (i : KIdx) (k : KReg) : (h.putK i k).ir = h.ir := by unfold Hart.putK; rfl
@[simp] theorem Hart.putK_s (h : Hart) (i : KIdx) (k : KReg) : (h.putK i k).s = h.s := by unfold Hart.putK; rfl
@[simp] theorem Hart.putK_a (h : Hart) (i : KIdx) (k : KReg) : (h.putK i k).a = h.a := by unfold Hart.putK; rfl
@[simp] theorem Hart.putK_c (h : Hart) (i : KIdx) (k : KReg) : (h.putK i k).c = h.c := by unfold Hart.putK; rfl
@[simp] theorem Hart.putK_v (h : Hart) (i : KIdx) (k : KReg) : (h.putK i k).v = h.v := by unfold Hart.putK; rfl
@[simp] theorem Hart.putK_tag (h : Hart) (i : KIdx) (k : KReg) : (h.putK i k).tag = h.tag := by unfold Hart.putK; rfl
@[simp] theorem Hart.putK_m (h : Hart) (i : KIdx) (k : KReg) : (h.putK i k).m = h.m := by unfold Hart.putK; rfl
@[simp] theorem Hart.putK_t (h : Hart) (i : KIdx) (k : KReg) : (h.putK i k).t = h.t := by unfold Hart.putK; rfl
@[simp] theorem Hart.putK_tiles (h : Hart) (i : KIdx) (k : KReg) : (h.putK i k).tiles = h.tiles := by unfold Hart.putK; rfl
@[simp] theorem Hart.putK_tileMap (h : Hart) (i : KIdx) (k : KReg) : (h.putK i k).tileMap = h.tileMap := by unfold Hart.putK; rfl
@[simp] theorem Hart.putK_k (h : Hart) (i : KIdx) (k : KReg) : (h.putK i k).k = h.k.set i k := rfl
@[simp] theorem Hart.putK_win (h : Hart) (i : KIdx) (k : KReg) : (h.putK i k).win = h.win := by unfold Hart.putK; rfl
@[simp] theorem Hart.putK_f (h : Hart) (i : KIdx) (k : KReg) : (h.putK i k).f = h.f := by unfold Hart.putK; rfl
@[simp] theorem Hart.putK_h (h : Hart) (i : KIdx) (k : KReg) : (h.putK i k).h = h.h := by unfold Hart.putK; rfl
@[simp] theorem Hart.putK_gl (h : Hart) (i : KIdx) (k : KReg) : (h.putK i k).gl = h.gl := by unfold Hart.putK; rfl
@[simp] theorem Hart.putK_erix (h : Hart) (i : KIdx) (k : KReg) : (h.putK i k).erix = h.erix := by unfold Hart.putK; rfl
@[simp] theorem Hart.putK_fcs (h : Hart) (i : KIdx) (k : KReg) : (h.putK i k).fcs = h.fcs := by unfold Hart.putK; rfl
@[simp] theorem Hart.putK_gseedLo (h : Hart) (i : KIdx) (k : KReg) : (h.putK i k).gseedLo = h.gseedLo := by unfold Hart.putK; rfl
@[simp] theorem Hart.putK_gseedHi (h : Hart) (i : KIdx) (k : KReg) : (h.putK i k).gseedHi = h.gseedHi := by unfold Hart.putK; rfl
@[simp] theorem Hart.putK_pfxs (h : Hart) (i : KIdx) (k : KReg) : (h.putK i k).pfxs = h.pfxs := by unfold Hart.putK; rfl
@[simp] theorem Hart.putK_grant (h : Hart) (i : KIdx) (k : KReg) : (h.putK i k).grant = h.grant := by unfold Hart.putK; rfl
@[simp] theorem Hart.putK_forkGrant (h : Hart) (i : KIdx) (k : KReg) : (h.putK i k).forkGrant = h.forkGrant := by unfold Hart.putK; rfl
@[simp] theorem Hart.putK_pending (h : Hart) (i : KIdx) (k : KReg) : (h.putK i k).pending = h.pending := by unfold Hart.putK; rfl
@[simp] theorem Hart.putK_laneBase (h : Hart) (i : KIdx) (k : KReg) : (h.putK i k).laneBase = h.laneBase := by unfold Hart.putK; rfl
@[simp] theorem Hart.putK_sset (h : Hart) (i : KIdx) (k : KReg) : (h.putK i k).sset = h.sset := by unfold Hart.putK; rfl
@[simp] theorem Hart.putK_mset (h : Hart) (i : KIdx) (k : KReg) : (h.putK i k).mset = h.mset := by unfold Hart.putK; rfl
@[simp] theorem Hart.putK_frzst (h : Hart) (i : KIdx) (k : KReg) : (h.putK i k).frzst = h.frzst := by unfold Hart.putK; rfl
@[simp] theorem Hart.putK_frzadr (h : Hart) (i : KIdx) (k : KReg) : (h.putK i k).frzadr = h.frzadr := by unfold Hart.putK; rfl
@[simp] theorem Hart.putK_linkGen (h : Hart) (i : KIdx) (k : KReg) : (h.putK i k).linkGen = h.linkGen := by unfold Hart.putK; rfl
@[simp] theorem Hart.putK_unacked (h : Hart) (i : KIdx) (k : KReg) : (h.putK i k).unacked = h.unacked := by unfold Hart.putK; rfl
@[simp] theorem Hart.putK_lane (h : Hart) (i : KIdx) (k : KReg) : (h.putK i k).lane = h.lane := by unfold Hart.putK; rfl
@[simp] theorem Hart.putK_credit (h : Hart) (i : KIdx) (k : KReg) : (h.putK i k).credit = h.credit := by unfold Hart.putK; rfl
@[simp] theorem Hart.putK_view (h : Hart) (i : KIdx) (k : KReg) : (h.putK i k).view = h.view := by unfold Hart.putK; rfl
@[simp] theorem Hart.putK_undivided (h : Hart) (i : KIdx) (k : KReg) : (h.putK i k).undivided = h.undivided := by unfold Hart.putK; rfl

@[simp] theorem Hart.freeze_id (h : Hart) (tid tgt kind : Nat) (eng post : Bool) (stream elem adr : Nat) : (h.freeze tid tgt kind eng post stream elem adr).id = h.id := by unfold Hart.freeze; rfl
@[simp] theorem Hart.freeze_gang (h : Hart) (tid tgt kind : Nat) (eng post : Bool) (stream elem adr : Nat) : (h.freeze tid tgt kind eng post stream elem adr).gang = h.gang := by unfold Hart.freeze; rfl
@[simp] theorem Hart.freeze_index (h : Hart) (tid tgt kind : Nat) (eng post : Bool) (stream elem adr : Nat) : (h.freeze tid tgt kind eng post stream elem adr).index = h.index := by unfold Hart.freeze; rfl
@[simp] theorem Hart.freeze_parent (h : Hart) (tid tgt kind : Nat) (eng post : Bool) (stream elem adr : Nat) : (h.freeze tid tgt kind eng post stream elem adr).parent = h.parent := by unfold Hart.freeze; rfl
@[simp] theorem Hart.freeze_child (h : Hart) (tid tgt kind : Nat) (eng post : Bool) (stream elem adr : Nat) : (h.freeze tid tgt kind eng post stream elem adr).child = h.child := by unfold Hart.freeze; rfl
@[simp] theorem Hart.freeze_depth (h : Hart) (tid tgt kind : Nat) (eng post : Bool) (stream elem adr : Nat) : (h.freeze tid tgt kind eng post stream elem adr).depth = h.depth := by unfold Hart.freeze; rfl
@[simp] theorem Hart.freeze_wait (h : Hart) (tid tgt kind : Nat) (eng post : Bool) (stream elem adr : Nat) : (h.freeze tid tgt kind eng post stream elem adr).wait = h.wait := by unfold Hart.freeze; rfl
@[simp] theorem Hart.freeze_frozen (h : Hart) (tid tgt kind : Nat) (eng post : Bool) (stream elem adr : Nat) : (h.freeze tid tgt kind eng post stream elem adr).frozen = true := rfl
@[simp] theorem Hart.freeze_prv (h : Hart) (tid tgt kind : Nat) (eng post : Bool) (stream elem adr : Nat) : (h.freeze tid tgt kind eng post stream elem adr).prv = h.prv := by unfold Hart.freeze; rfl
@[simp] theorem Hart.freeze_part (h : Hart) (tid tgt kind : Nat) (eng post : Bool) (stream elem adr : Nat) : (h.freeze tid tgt kind eng post stream elem adr).part = h.part := by unfold Hart.freeze; rfl
@[simp] theorem Hart.freeze_skew (h : Hart) (tid tgt kind : Nat) (eng post : Bool) (stream elem adr : Nat) : (h.freeze tid tgt kind eng post stream elem adr).skew = h.skew := by unfold Hart.freeze; rfl
@[simp] theorem Hart.freeze_pc (h : Hart) (tid tgt kind : Nat) (eng post : Bool) (stream elem adr : Nat) : (h.freeze tid tgt kind eng post stream elem adr).pc = h.pc := by unfold Hart.freeze; rfl
@[simp] theorem Hart.freeze_ir (h : Hart) (tid tgt kind : Nat) (eng post : Bool) (stream elem adr : Nat) : (h.freeze tid tgt kind eng post stream elem adr).ir = h.ir := by unfold Hart.freeze; rfl
@[simp] theorem Hart.freeze_s (h : Hart) (tid tgt kind : Nat) (eng post : Bool) (stream elem adr : Nat) : (h.freeze tid tgt kind eng post stream elem adr).s = h.s := by unfold Hart.freeze; rfl
@[simp] theorem Hart.freeze_a (h : Hart) (tid tgt kind : Nat) (eng post : Bool) (stream elem adr : Nat) : (h.freeze tid tgt kind eng post stream elem adr).a = h.a := by unfold Hart.freeze; rfl
@[simp] theorem Hart.freeze_c (h : Hart) (tid tgt kind : Nat) (eng post : Bool) (stream elem adr : Nat) : (h.freeze tid tgt kind eng post stream elem adr).c = h.c := by unfold Hart.freeze; rfl
@[simp] theorem Hart.freeze_v (h : Hart) (tid tgt kind : Nat) (eng post : Bool) (stream elem adr : Nat) : (h.freeze tid tgt kind eng post stream elem adr).v = h.v := by unfold Hart.freeze; rfl
@[simp] theorem Hart.freeze_tag (h : Hart) (tid tgt kind : Nat) (eng post : Bool) (stream elem adr : Nat) : (h.freeze tid tgt kind eng post stream elem adr).tag = h.tag := by unfold Hart.freeze; rfl
@[simp] theorem Hart.freeze_m (h : Hart) (tid tgt kind : Nat) (eng post : Bool) (stream elem adr : Nat) : (h.freeze tid tgt kind eng post stream elem adr).m = h.m := by unfold Hart.freeze; rfl
@[simp] theorem Hart.freeze_t (h : Hart) (tid tgt kind : Nat) (eng post : Bool) (stream elem adr : Nat) : (h.freeze tid tgt kind eng post stream elem adr).t = h.t := by unfold Hart.freeze; rfl
@[simp] theorem Hart.freeze_tiles (h : Hart) (tid tgt kind : Nat) (eng post : Bool) (stream elem adr : Nat) : (h.freeze tid tgt kind eng post stream elem adr).tiles = h.tiles := by unfold Hart.freeze; rfl
@[simp] theorem Hart.freeze_tileMap (h : Hart) (tid tgt kind : Nat) (eng post : Bool) (stream elem adr : Nat) : (h.freeze tid tgt kind eng post stream elem adr).tileMap = h.tileMap := by unfold Hart.freeze; rfl
@[simp] theorem Hart.freeze_k (h : Hart) (tid tgt kind : Nat) (eng post : Bool) (stream elem adr : Nat) : (h.freeze tid tgt kind eng post stream elem adr).k = h.k := by unfold Hart.freeze; rfl
@[simp] theorem Hart.freeze_win (h : Hart) (tid tgt kind : Nat) (eng post : Bool) (stream elem adr : Nat) : (h.freeze tid tgt kind eng post stream elem adr).win = h.win := by unfold Hart.freeze; rfl
@[simp] theorem Hart.freeze_f (h : Hart) (tid tgt kind : Nat) (eng post : Bool) (stream elem adr : Nat) : (h.freeze tid tgt kind eng post stream elem adr).f = h.f := by unfold Hart.freeze; rfl
@[simp] theorem Hart.freeze_h (h : Hart) (tid tgt kind : Nat) (eng post : Bool) (stream elem adr : Nat) : (h.freeze tid tgt kind eng post stream elem adr).h = h.h := by unfold Hart.freeze; rfl
@[simp] theorem Hart.freeze_gl (h : Hart) (tid tgt kind : Nat) (eng post : Bool) (stream elem adr : Nat) : (h.freeze tid tgt kind eng post stream elem adr).gl = h.gl := by unfold Hart.freeze; rfl
@[simp] theorem Hart.freeze_erix (h : Hart) (tid tgt kind : Nat) (eng post : Bool) (stream elem adr : Nat) : (h.freeze tid tgt kind eng post stream elem adr).erix = h.erix := by unfold Hart.freeze; rfl
@[simp] theorem Hart.freeze_fcs (h : Hart) (tid tgt kind : Nat) (eng post : Bool) (stream elem adr : Nat) : (h.freeze tid tgt kind eng post stream elem adr).fcs = h.fcs := by unfold Hart.freeze; rfl
@[simp] theorem Hart.freeze_gseedLo (h : Hart) (tid tgt kind : Nat) (eng post : Bool) (stream elem adr : Nat) : (h.freeze tid tgt kind eng post stream elem adr).gseedLo = h.gseedLo := by unfold Hart.freeze; rfl
@[simp] theorem Hart.freeze_gseedHi (h : Hart) (tid tgt kind : Nat) (eng post : Bool) (stream elem adr : Nat) : (h.freeze tid tgt kind eng post stream elem adr).gseedHi = h.gseedHi := by unfold Hart.freeze; rfl
@[simp] theorem Hart.freeze_pfxs (h : Hart) (tid tgt kind : Nat) (eng post : Bool) (stream elem adr : Nat) : (h.freeze tid tgt kind eng post stream elem adr).pfxs = h.pfxs := by unfold Hart.freeze; rfl
@[simp] theorem Hart.freeze_grant (h : Hart) (tid tgt kind : Nat) (eng post : Bool) (stream elem adr : Nat) : (h.freeze tid tgt kind eng post stream elem adr).grant = h.grant := by unfold Hart.freeze; rfl
@[simp] theorem Hart.freeze_forkGrant (h : Hart) (tid tgt kind : Nat) (eng post : Bool) (stream elem adr : Nat) : (h.freeze tid tgt kind eng post stream elem adr).forkGrant = h.forkGrant := by unfold Hart.freeze; rfl
@[simp] theorem Hart.freeze_pending (h : Hart) (tid tgt kind : Nat) (eng post : Bool) (stream elem adr : Nat) : (h.freeze tid tgt kind eng post stream elem adr).pending = h.pending := by unfold Hart.freeze; rfl
@[simp] theorem Hart.freeze_laneBase (h : Hart) (tid tgt kind : Nat) (eng post : Bool) (stream elem adr : Nat) : (h.freeze tid tgt kind eng post stream elem adr).laneBase = h.laneBase := by unfold Hart.freeze; rfl
@[simp] theorem Hart.freeze_sset (h : Hart) (tid tgt kind : Nat) (eng post : Bool) (stream elem adr : Nat) : (h.freeze tid tgt kind eng post stream elem adr).sset = h.sset := by unfold Hart.freeze; rfl
@[simp] theorem Hart.freeze_mset (h : Hart) (tid tgt kind : Nat) (eng post : Bool) (stream elem adr : Nat) : (h.freeze tid tgt kind eng post stream elem adr).mset = h.mset := by unfold Hart.freeze; rfl
@[simp] theorem Hart.freeze_frzadr (h : Hart) (tid tgt kind : Nat) (eng post : Bool) (stream elem adr : Nat) : (h.freeze tid tgt kind eng post stream elem adr).frzadr = BitVec.ofNat 64 adr := rfl
@[simp] theorem Hart.freeze_linkGen (h : Hart) (tid tgt kind : Nat) (eng post : Bool) (stream elem adr : Nat) : (h.freeze tid tgt kind eng post stream elem adr).linkGen = h.linkGen := by unfold Hart.freeze; rfl
@[simp] theorem Hart.freeze_unacked (h : Hart) (tid tgt kind : Nat) (eng post : Bool) (stream elem adr : Nat) : (h.freeze tid tgt kind eng post stream elem adr).unacked = h.unacked := by unfold Hart.freeze; rfl
@[simp] theorem Hart.freeze_lane (h : Hart) (tid tgt kind : Nat) (eng post : Bool) (stream elem adr : Nat) : (h.freeze tid tgt kind eng post stream elem adr).lane = h.lane := by unfold Hart.freeze; rfl
@[simp] theorem Hart.freeze_credit (h : Hart) (tid tgt kind : Nat) (eng post : Bool) (stream elem adr : Nat) : (h.freeze tid tgt kind eng post stream elem adr).credit = h.credit := by unfold Hart.freeze; rfl
@[simp] theorem Hart.freeze_view (h : Hart) (tid tgt kind : Nat) (eng post : Bool) (stream elem adr : Nat) : (h.freeze tid tgt kind eng post stream elem adr).view = h.view := by unfold Hart.freeze; rfl
@[simp] theorem Hart.freeze_undivided (h : Hart) (tid tgt kind : Nat) (eng post : Bool) (stream elem adr : Nat) : (h.freeze tid tgt kind eng post stream elem adr).undivided = h.undivided := by unfold Hart.freeze; rfl

@[simp] theorem Hart.flag_id (h : Hart) (fl : Nat) : (h.flag fl).id = h.id := by unfold Hart.flag; rfl
@[simp] theorem Hart.flag_gang (h : Hart) (fl : Nat) : (h.flag fl).gang = h.gang := by unfold Hart.flag; rfl
@[simp] theorem Hart.flag_index (h : Hart) (fl : Nat) : (h.flag fl).index = h.index := by unfold Hart.flag; rfl
@[simp] theorem Hart.flag_parent (h : Hart) (fl : Nat) : (h.flag fl).parent = h.parent := by unfold Hart.flag; rfl
@[simp] theorem Hart.flag_child (h : Hart) (fl : Nat) : (h.flag fl).child = h.child := by unfold Hart.flag; rfl
@[simp] theorem Hart.flag_depth (h : Hart) (fl : Nat) : (h.flag fl).depth = h.depth := by unfold Hart.flag; rfl
@[simp] theorem Hart.flag_wait (h : Hart) (fl : Nat) : (h.flag fl).wait = h.wait := by unfold Hart.flag; rfl
@[simp] theorem Hart.flag_frozen (h : Hart) (fl : Nat) : (h.flag fl).frozen = h.frozen := by unfold Hart.flag; rfl
@[simp] theorem Hart.flag_prv (h : Hart) (fl : Nat) : (h.flag fl).prv = h.prv := by unfold Hart.flag; rfl
@[simp] theorem Hart.flag_part (h : Hart) (fl : Nat) : (h.flag fl).part = h.part := by unfold Hart.flag; rfl
@[simp] theorem Hart.flag_skew (h : Hart) (fl : Nat) : (h.flag fl).skew = h.skew := by unfold Hart.flag; rfl
@[simp] theorem Hart.flag_pc (h : Hart) (fl : Nat) : (h.flag fl).pc = h.pc := by unfold Hart.flag; rfl
@[simp] theorem Hart.flag_ir (h : Hart) (fl : Nat) : (h.flag fl).ir = h.ir := by unfold Hart.flag; rfl
@[simp] theorem Hart.flag_s (h : Hart) (fl : Nat) : (h.flag fl).s = h.s := by unfold Hart.flag; rfl
@[simp] theorem Hart.flag_a (h : Hart) (fl : Nat) : (h.flag fl).a = h.a := by unfold Hart.flag; rfl
@[simp] theorem Hart.flag_c (h : Hart) (fl : Nat) : (h.flag fl).c = h.c := by unfold Hart.flag; rfl
@[simp] theorem Hart.flag_v (h : Hart) (fl : Nat) : (h.flag fl).v = h.v := by unfold Hart.flag; rfl
@[simp] theorem Hart.flag_tag (h : Hart) (fl : Nat) : (h.flag fl).tag = h.tag := by unfold Hart.flag; rfl
@[simp] theorem Hart.flag_m (h : Hart) (fl : Nat) : (h.flag fl).m = h.m := by unfold Hart.flag; rfl
@[simp] theorem Hart.flag_t (h : Hart) (fl : Nat) : (h.flag fl).t = h.t := by unfold Hart.flag; rfl
@[simp] theorem Hart.flag_tiles (h : Hart) (fl : Nat) : (h.flag fl).tiles = h.tiles := by unfold Hart.flag; rfl
@[simp] theorem Hart.flag_tileMap (h : Hart) (fl : Nat) : (h.flag fl).tileMap = h.tileMap := by unfold Hart.flag; rfl
@[simp] theorem Hart.flag_k (h : Hart) (fl : Nat) : (h.flag fl).k = h.k := by unfold Hart.flag; rfl
@[simp] theorem Hart.flag_win (h : Hart) (fl : Nat) : (h.flag fl).win = h.win := by unfold Hart.flag; rfl
@[simp] theorem Hart.flag_f (h : Hart) (fl : Nat) : (h.flag fl).f = h.f := by unfold Hart.flag; rfl
@[simp] theorem Hart.flag_h (h : Hart) (fl : Nat) : (h.flag fl).h = h.h := by unfold Hart.flag; rfl
@[simp] theorem Hart.flag_gl (h : Hart) (fl : Nat) : (h.flag fl).gl = h.gl := by unfold Hart.flag; rfl
@[simp] theorem Hart.flag_erix (h : Hart) (fl : Nat) : (h.flag fl).erix = h.erix := by unfold Hart.flag; rfl
@[simp] theorem Hart.flag_fcs (h : Hart) (fl : Nat) : (h.flag fl).fcs = h.fcs ||| BitVec.ofNat 11 (fl % 64) := rfl
@[simp] theorem Hart.flag_gseedLo (h : Hart) (fl : Nat) : (h.flag fl).gseedLo = h.gseedLo := by unfold Hart.flag; rfl
@[simp] theorem Hart.flag_gseedHi (h : Hart) (fl : Nat) : (h.flag fl).gseedHi = h.gseedHi := by unfold Hart.flag; rfl
@[simp] theorem Hart.flag_pfxs (h : Hart) (fl : Nat) : (h.flag fl).pfxs = h.pfxs := by unfold Hart.flag; rfl
@[simp] theorem Hart.flag_grant (h : Hart) (fl : Nat) : (h.flag fl).grant = h.grant := by unfold Hart.flag; rfl
@[simp] theorem Hart.flag_forkGrant (h : Hart) (fl : Nat) : (h.flag fl).forkGrant = h.forkGrant := by unfold Hart.flag; rfl
@[simp] theorem Hart.flag_pending (h : Hart) (fl : Nat) : (h.flag fl).pending = h.pending := by unfold Hart.flag; rfl
@[simp] theorem Hart.flag_laneBase (h : Hart) (fl : Nat) : (h.flag fl).laneBase = h.laneBase := by unfold Hart.flag; rfl
@[simp] theorem Hart.flag_sset (h : Hart) (fl : Nat) : (h.flag fl).sset = h.sset := by unfold Hart.flag; rfl
@[simp] theorem Hart.flag_mset (h : Hart) (fl : Nat) : (h.flag fl).mset = h.mset := by unfold Hart.flag; rfl
@[simp] theorem Hart.flag_frzst (h : Hart) (fl : Nat) : (h.flag fl).frzst = h.frzst := by unfold Hart.flag; rfl
@[simp] theorem Hart.flag_frzadr (h : Hart) (fl : Nat) : (h.flag fl).frzadr = h.frzadr := by unfold Hart.flag; rfl
@[simp] theorem Hart.flag_linkGen (h : Hart) (fl : Nat) : (h.flag fl).linkGen = h.linkGen := by unfold Hart.flag; rfl
@[simp] theorem Hart.flag_unacked (h : Hart) (fl : Nat) : (h.flag fl).unacked = h.unacked := by unfold Hart.flag; rfl
@[simp] theorem Hart.flag_lane (h : Hart) (fl : Nat) : (h.flag fl).lane = h.lane := by unfold Hart.flag; rfl
@[simp] theorem Hart.flag_credit (h : Hart) (fl : Nat) : (h.flag fl).credit = h.credit := by unfold Hart.flag; rfl
@[simp] theorem Hart.flag_view (h : Hart) (fl : Nat) : (h.flag fl).view = h.view := by unfold Hart.flag; rfl
@[simp] theorem Hart.flag_undivided (h : Hart) (fl : Nat) : (h.flag fl).undivided = h.undivided := by unfold Hart.flag; rfl

end Sys2Proof.Machine
end

