-- ==== Sys2Proof/Laws/Ops.lean ====
section
/-! SUPPORT. What each shared operation can do, said once: the parts of an instruction, its end, the scalar and branch forms, waits,
and the operations of the memory controller on what they do not touch. -/

set_option Elab.async false

namespace Sys2Proof.Machine

/-! ### Parts of an instruction -/

theorem Act.bind_ok {α β : Type} {x : Act α} {f : α → Act β} {s s' : State} {a : α} (h : x s = .ok (a, s')) :
    (x >>= f) s = f a s' := by
  simp [bind, StateT.bind, Except.bind, h]

theorem Act.bind_error {α β : Type} {x : Act α} {f : α → Act β} {s : State} {e : Exit} (h : x s = .error e) :
    (x >>= f) s = .error e := by
  simp [bind, StateT.bind, Except.bind, h]

/-- A sequence that ends well has gone through a first part that ended well. -/
theorem Act.bind_eq_ok {α β : Type} {x : Act α} {f : α → Act β} {s s' : State} {b : β} (h : (x >>= f) s = .ok (b, s')) :
    ∃ a t, x s = .ok (a, t) ∧ f a t = .ok (b, s') := by
  cases hx : x s with
  | error e => rw [Act.bind_error hx] at h; cases h
  | ok p => obtain ⟨a, t⟩ := p; exact ⟨a, t, rfl, by rwa [Act.bind_ok hx] at h⟩

theorem Act.pure_run {α : Type} (a : α) (s : State) : (pure a : Act α) s = .ok (a, s) := rfl

theorem hart_run (s : State) : hart s = .ok (s.cur, s) := rfl

theorem updCur_run (f : Hart → Hart) (s : State) : updCur f s = .ok ((), { s with cur := f s.cur }) := rfl

theorem raise_run {α : Type} (t : Trap) (s : State) : (raise t : Act α) s = .error (.trap t s) := rfl

theorem freeValue_run (w : Nat) (s : State) :
    freeValue w s = .ok (Config.freeBits w s.free, { s with free := s.free + 1 }) := rfl

theorem legal_run (b : Bool) (s : State) : legal b s = if b then .ok ((), s) else .error (.trap { code := 0x01 } s) := by
  cases b <;> rfl

theorem operand_run (b : Bool) (s : State) : operand b s = if b then .ok ((), s) else .error (.trap { code := 0x03 } s) := by
  cases b <;> rfl

/-- A wait ends at once when its cause is gone, and otherwise stalls the instruction with nothing done. -/
theorem waitFor_run (c : Cause) (s : State) :
    waitFor c s = if s.cleared s.cur c then .ok ((), s) else .error (.stay (s.stallOn c)) := rfl

theorem waitStream_run (stream : Nat) (store : Bool) (s : State) :
    waitStream stream store s = if s.cleared s.cur (.stream stream store) then .ok ((), s)
      else .error (.stay (s.stallOn (.stream stream store))) := rfl

/-- An access in a stream goes on when nothing that the hart has posted orders before it. -/
theorem waitStream_clear {stream : Nat} {store : Bool} {s : State} (h : s.clearStream stream store) :
    waitStream stream store s = .ok ((), s) := by
  rw [waitStream_run]
  exact if_pos h

theorem stall_run {α : Type} (w : Wait) (s : State) : (stall w : Act α) s = .error (.stay { s with cur.wait := w }) := rfl

/-- The common checks end well, or raise the illegal-instruction trap in the state as it was. -/
theorem begin_run (b : Bool) (p : Pairing) (s : State) :
    begin b p s = if (b || s.cur.lane.isNone) && s.cur.pairOk p then .ok ((), s) else .error (.trap { code := 0x01 } s) := by
  cases h : (b || s.cur.lane.isNone) <;> cases h' : s.cur.pairOk p <;>
    simp [begin, hart, legal_run, bind, StateT.bind, Except.bind, h, h']

/-! ### The end of an instruction -/

theorem run_ok {s s' : State} {b : Act Unit} (h : b s = .ok ((), s')) : run s b = .next s'.retire := by
  unfold run; rw [h]

theorem run_trap {s s' : State} {b : Act Unit} {t : Trap} (h : b s = .error (.trap t s')) : run s b = s'.takeTrap t := by
  unfold run; rw [h]; rfl

theorem run_stay {s s' : State} {b : Act Unit} (h : b s = .error (.stay s')) : run s b = .next s' := by
  unfold run; rw [h]; rfl

/-- An instruction that answers a next state has retired, stayed in place or gone elsewhere, or entered a handler. -/
theorem run_next {s t : State} {b : Act Unit} (h : run s b = .next t) :
    (∃ s', b s = .ok ((), s') ∧ t = s'.retire) ∨ b s = .error (.stay t) ∨ ∃ r s', b s = .error (.trap r s') ∧ s'.takeTrap r = .next t := by
  unfold run at h
  cases hb : b s with
  | ok p => rw [hb] at h; cases h; exact .inl ⟨p.2, rfl, rfl⟩
  | error e =>
    rw [hb] at h
    cases e with
    | trap r s' => exact .inr (.inr ⟨r, s', rfl, h⟩)
    | stay s' => cases h; exact .inr (.inl rfl)
    | fault f => cases h

theorem dropPeerData_eq (s : State) : s.dropPeerData = { s with peerData := s.peerData.filter fun e => e.1.id != s.cur.id } := by
  unfold State.dropPeerData
  split
  · rename_i h
    have : s.peerData = [] := by simpa using h
    cases s; simp_all
  · rfl

theorem retire_pfxs (x : BitVec 16) : (x.setWidth 15).setWidth 16 = x &&& 0x7FFF#16 := by
  ext i hi
  interval_cases i <;> simp

theorem Hart.retire_eq (h : Hart) : h.retire = h.past := by
  simp [Hart.retire, Hart.past, retire_pfxs]

/-- A retired state is the state as it was with the hart past its instruction. -/
theorem State.retire_after (s : State) (h : Hart) (hid : h.id = s.cur.id) :
    ({ s with cur := h } : State).retire = s.after h.past := by
  simp [State.retire, dropPeerData_eq, State.after, Hart.retire_eq, hid]

theorem State.retire_eq (s : State) : s.retire = s.after s.cur.past := State.retire_after s s.cur rfl

theorem jumpTo_run {α : Type} (pc : Word) (s : State) : (jumpTo pc : Act α) s = .error (.stay (s.after (s.cur.jumped pc))) := by
  simp [jumpTo, endAs, dropPeerData_eq, State.after, Hart.retire_eq, Hart.jumped, Hart.past]

/-! ### Registers -/

theorem Hart.copyIndex_lt (h : Hart) : h.copyIndex < 32 := by
  unfold Hart.copyIndex fld; omega

theorem Hart.ws_frame (h : Hart) (d : SReg) (w : Word) : h.ws d w = { h with s := (h.ws d w).s } := by
  unfold Hart.ws
  split <;> rfl

theorem Hart.ws_s (h : Hart) (d r : SReg) (w : Word) : (h.ws d w).s[r] = if r ≠ 0 ∧ r = d then w else h.s[r] := by
  unfold Hart.ws
  split
  · rename_i e
    exact (if_neg fun g => g.1 (g.2.trans e)).symm
  · rename_i e
    show (h.s.set d.val w d.isLt)[r.val] = _
    rw [Vector.getElem_set]
    by_cases hr : r = d
    · subst hr
      rw [if_pos rfl, if_pos ⟨e, rfl⟩]
    · rw [if_neg fun e => hr (Fin.ext e.symm), if_neg fun e => hr e.2]
      rfl

/-- A write to s[d], where s0 keeps its value (R51). -/
theorem Hart.ws_eq (h : Hart) (d : SReg) (w : Word) : h.ws d w = h.wroteOnly d w := by
  have e : (h.ws d w).s = Vector.ofFn fun r => if r ≠ 0 ∧ r = d then w else h.s[r] := by
    apply Vector.ext
    intro i hi
    rw [Vector.getElem_ofFn]
    exact h.ws_s d ⟨i, hi⟩ w
  rw [Hart.ws_frame, e]
  rfl

theorem Hart.wd_frame (h : Hart) (d : SReg) (w : Word) : h.wd d w = { h with s := (h.wd d w).s, a := (h.wd d w).a } := by
  unfold Hart.wd
  dsimp only
  split
  · rw [Hart.ws_frame]
  · split
    · rw [Hart.ws_frame (h.ws d w), Hart.ws_frame h]
    · split
      · unfold Hart.wa
        rw [Hart.ws_frame h]
      · rw [Hart.ws_frame]

theorem Hart.wd_plain {h : Hart} {d : SReg} {w : Word} (hl : h.lent = false) : h.wd d w = h.ws d w := by
  unfold Hart.wd; dsimp only; rw [hl]; rfl

theorem Hart.wd_copyS {h : Hart} {d : SReg} {w : Word} (hl : h.lent = true) (hc : h.copyClass = 1) :
    h.wd d w = (h.ws d w).ws (Fin.ofNat 32 h.copyIndex) w := by
  unfold Hart.wd; dsimp only; rw [hl, hc]; rfl

theorem Hart.wd_copyA {h : Hart} {d : SReg} {w : Word} (hl : h.lent = true) (hc : h.copyClass = 3) :
    h.wd d w = (h.ws d w).wa (Fin.ofNat 16 h.copyIndex) w := by
  unfold Hart.wd; dsimp only; rw [hl, hc]; rfl

theorem Hart.wd_noCopy {h : Hart} {d : SReg} {w : Word} (hl : h.lent = true) (h1 : h.copyClass ≠ 1) (h3 : h.copyClass ≠ 3) :
    h.wd d w = h.ws d w := by
  have e1 : (h.copyClass == 1) = false := by simpa using h1
  have e3 : (h.copyClass == 3) = false := by simpa using h3
  unfold Hart.wd; dsimp only; rw [hl, e1, e3]; rfl

theorem Hart.wd_s (h : Hart) (d r : SReg) (w : Word) :
    (h.wd d w).s[r] = if r ≠ 0 ∧ (r = d ∨ (h.lent = true ∧ h.copyClass = 1 ∧ r.val = h.copyIndex)) then w else h.s[r] := by
  have e1 : r.val = h.copyIndex ↔ r = Fin.ofNat 32 h.copyIndex := by
    rw [Fin.ext_iff]; simp [Fin.ofNat, Nat.mod_eq_of_lt h.copyIndex_lt]
  simp only [e1]
  cases hl : h.lent
  · have e := Hart.ws_s h d r w
    simp only [Hart.wd_plain hl, e, Bool.false_eq_true, false_and, or_false]
  · by_cases h1 : h.copyClass = 1
    · have e := Hart.ws_s (h.ws d w) (Fin.ofNat 32 h.copyIndex) r w
      have e' := Hart.ws_s h d r w
      simp only [Hart.wd_copyS hl h1, e, e']
      by_cases h2 : r = 0 <;> by_cases h3 : r = Fin.ofNat 32 h.copyIndex <;> by_cases h4 : r = d <;> simp_all
    · by_cases h3 : h.copyClass = 3
      · have e := Hart.ws_s h d r w
        have e' : ((h.ws d w).wa (Fin.ofNat 16 h.copyIndex) w).s[r] = (h.ws d w).s[r] := rfl
        simp only [Hart.wd_copyA hl h3, e', e, h1, false_and, and_false, or_false]
      · have e := Hart.ws_s h d r w
        simp only [Hart.wd_noCopy hl h1 h3, e, h1, false_and, and_false, or_false]

theorem Hart.wd_a (h : Hart) (d : SReg) (w : Word) (r : AReg) :
    (h.wd d w).a[r] = if h.lent = true ∧ h.copyClass = 3 ∧ r.val = h.copyIndex % 16 then w else h.a[r] := by
  have e2 : r.val = h.copyIndex % 16 ↔ r = Fin.ofNat 16 h.copyIndex := by
    rw [Fin.ext_iff]; simp [Fin.ofNat]
  have ea : ∀ (k : Hart) (i : SReg), (k.ws i w).a[r] = k.a[r] := by
    intro k i; rw [Hart.ws_frame]
  simp only [e2]
  cases hl : h.lent
  · simp only [Hart.wd_plain hl, ea, Bool.false_eq_true, false_and, if_false]
  · by_cases h3 : h.copyClass = 3
    · have e : ((h.ws d w).wa (Fin.ofNat 16 h.copyIndex) w).a[r] = if r = Fin.ofNat 16 h.copyIndex then w else h.a[r] := by
        show ((h.ws d w).a.set (Fin.ofNat 16 h.copyIndex).val w (Fin.ofNat 16 h.copyIndex).isLt)[r.val] = _
        rw [Vector.getElem_set]
        by_cases hr : r = Fin.ofNat 16 h.copyIndex
        · rw [if_pos (congrArg Fin.val hr.symm), if_pos hr]
        · rw [if_neg fun g => hr (Fin.ext g.symm), if_neg hr]
          exact ea h d
      simp only [Hart.wd_copyA hl h3, e, h3, true_and]
    · by_cases h1 : h.copyClass = 1
      · simp only [Hart.wd_copyS hl h1, ea, h3, false_and, and_false, if_false]
      · simp only [Hart.wd_noCopy hl h1 h3, ea, h3, false_and, and_false, if_false]

/-- A write to a scalar destination and to the copy that lent state names (R173). -/
theorem Hart.wd_eq (h : Hart) (d : SReg) (w : Word) : h.wd d w = h.wrote d w := by
  have e1 : (h.wd d w).s = Vector.ofFn fun r =>
      if r ≠ 0 ∧ (r = d ∨ (h.lent = true ∧ h.copyClass = 1 ∧ r.val = h.copyIndex)) then w else h.s[r] := by
    apply Vector.ext
    intro i hi
    rw [Vector.getElem_ofFn]
    exact h.wd_s d ⟨i, hi⟩ w
  have e2 : (h.wd d w).a = Vector.ofFn fun r => if h.lent = true ∧ h.copyClass = 3 ∧ r.val = h.copyIndex % 16 then w else h.a[r] := by
    apply Vector.ext
    intro i hi
    rw [Vector.getElem_ofFn]
    exact h.wd_a d w ⟨i, hi⟩
  rw [Hart.wd_frame, e1, e2]
  rfl

theorem writeD_run (d : SReg) (w : Word) (s : State) : writeD d w s = .ok ((), { s with cur := s.cur.wrote d w }) := by
  rw [writeD, updCur_run, Hart.wd_eq]

/-! ### Scalar and branch forms -/

/-- A scalar operation completes with its result and copy, or raises the illegal-instruction trap. -/
theorem run_scalarOp (d : SReg) (f : Hart → Word) (s : State) :
    run s (scalarOp d f) = if s.cur.pairOk (.maskless .scalar) then .next (s.after (s.cur.wrote d (f s.cur)).past)
      else s.takeTrap { code := 0x01 } := by
  cases hp : s.cur.pairOk (.maskless .scalar)
  · exact run_trap (Act.bind_error (by rw [begin_run, hp]; rfl))
  · have h1 : scalarOp d f s = .ok ((), { s with cur := s.cur.wrote d (f s.cur) }) := by
      unfold scalarOp
      rw [Act.bind_ok (show begin true (.maskless .scalar) s = .ok ((), s) by rw [begin_run, hp]; rfl),
        Act.bind_ok (hart_run s), writeD_run]
    rw [run_ok h1, State.retire_after _ _ (Hart.wrote_id _ _ _)]
    rfl

/-- A compare-branch outside a lane block. -/
theorem run_branch_outside {off : BitVec 13} {f : Hart → Bool} {s : State} (hl : s.cur.lane = none) (hp : s.cur.lent = false) :
    run s (branch off f) = .next (s.after (if f s.cur then s.cur.jumped (s.cur.pc + 4 * off.signExtend 64) else s.cur.past)) := by
  have h0 : begin true .never s = .ok ((), s) := by rw [begin_run]; simp [Hart.pairOk, hp]
  cases hf : f s.cur
  · have h1 : branch off f s = .ok ((), s) := by
      unfold branch
      rw [Act.bind_ok h0, Act.bind_ok (hart_run s), hf]
      rfl
    rw [run_ok h1, State.retire_eq]
    rfl
  · have h1 : branch off f s = .error (.stay (s.after (s.cur.jumped (s.cur.pc + 4 * off.signExtend 64)))) := by
      unfold branch
      rw [Act.bind_ok h0, Act.bind_ok (hart_run s), hf]
      show transfer _ s = _
      unfold transfer
      rw [Act.bind_ok (hart_run s), hl]
      exact jumpTo_run _ s
    rw [run_stay h1]
    rfl

/-! ### What the units leave alone -/

theorem State.updHart_frame (s : State) (id : HartId) (f : Hart → Hart) :
    s.updHart id f = { s with cur := (s.updHart id f).cur, others := (s.updHart id f).others } := by
  unfold State.updHart
  split <;> rfl

/-- A change of another hart leaves the issuing one. -/
theorem State.updHart_cur_of_ne {s : State} {id : HartId} {f : Hart → Hart} (h : s.cur.id ≠ id) : (s.updHart id f).cur = s.cur := by
  unfold State.updHart
  rw [if_neg h]

theorem State.updPart_frame (s : State) (p : Nat) (f : Partition → Partition) :
    s.updPart p f = { s with parts := (s.updPart p f).parts } := by
  unfold State.updPart
  split <;> rfl

@[simp] theorem State.updHart_mem (s : State) (id : HartId) (f : Hart → Hart) : (s.updHart id f).mem = s.mem := by
  rw [State.updHart_frame]

@[simp] theorem State.updPart_mem (s : State) (p : Nat) (f : Partition → Partition) : (s.updPart p f).mem = s.mem := by
  rw [State.updPart_frame]

@[simp] theorem State.signalS_mem (s : State) (p code : Nat) (on : Bool) : (s.signalS p code on).mem = s.mem := State.updHart_mem ..

@[simp] theorem State.signalM_mem (s : State) (code : Nat) (on : Bool) : (s.signalM code on).mem = s.mem := State.updHart_mem ..

@[simp] theorem State.count_mem (s : State) (p hi lo : Nat) : (s.count p hi lo).mem = s.mem := State.updPart_mem ..

@[simp] theorem State.report_mem (s : State) (p : Nat) (r : ErrRecord) : (s.report p r).mem = s.mem := by
  simp [State.report]

@[simp] theorem State.enterPoison_mem (s : State) (mid unit pa cls layout : Nat) :
    (s.enterPoison mid unit pa cls layout).mem = s.mem := by
  dsimp only [State.enterPoison]
  split
  · rfl
  · split
    · rfl
    · split
      · rfl
      · split <;> rw [State.report_mem]

@[simp] theorem State.clearPoison_mem (s : State) (unit pa : Nat) : (s.clearPoison unit pa).mem = s.mem := by
  dsimp only [State.clearPoison]
  split
  · rfl
  · split <;> rfl

@[simp] theorem State.noteClass_mem (s : State) (mid unit pa layout cls : Nat) (free : Bool) :
    (s.noteClass mid unit pa layout cls free).mem = s.mem := by
  have key : ∀ u : State, (match cls with
      | 1 => u.count (u.partOfUnit unit) 63 48
      | 2 => (u.count (u.partOfUnit unit) 47 32).report (u.partOfUnit unit) (memRecord mid 1 unit (u.tagAt pa layout) 2 pa)
      | 3 => ((u.count (u.partOfUnit unit) 31 24).report (u.partOfUnit unit) (memRecord mid 2 unit (u.tagAt pa layout) 3 pa)).enterPoison
          mid unit pa 3 (u.tagAt pa layout)
      | _ => u).mem = u.mem := by
    intro u
    split <;> simp
  cases free
  · exact key s
  · exact key { s with free := s.free + 1 }

/-- A read of a sector leaves memory. -/
@[simp] theorem State.readSector_mem (s : State) (mid unit pa layout : Nat) : (s.readSector mid unit pa layout).2.mem = s.mem := by
  simp [State.readSector]

/-- A store in a sector that has been read keeps the canonical form. -/
theorem State.wf_storeRead {s : State} {mid pa old data en : Nat} (h : Memory.wf s.mem = true) :
    Memory.wf (s.storeRead mid pa old data en).mem = true := by
  have hp : ∀ (u v : State) (b : Bool) (n : Nat), Memory.wf u.mem = true →
      Memory.wf (if b = true then u else { v with mem := Memory.writeN u.mem pa n old }).mem = true := by
    intro u v b n hu
    cases b
    · exact Memory.wf_writeN hu
    · exact hu
  exact State.wf_pokeBytes (hp (s.breakLine (pa / 64)) _ _ _ h)

/-- A store of part of a sector keeps the canonical form. -/
theorem State.wf_storePart {s : State} {mid unit pa layout data en : Nat} (h : Memory.wf s.mem = true) :
    Memory.wf (s.storePart mid unit pa layout data en).2.mem = true := by
  have hc : ∀ (u : State) (p : Nat), Memory.wf u.mem = true → Memory.wf (match (s.decodeSector unit pa layout).cls with
      | 1 => u.count p 63 48
      | 2 => (u.count p 47 32).report p (memRecord mid 1 unit (u.tagAt pa layout) 2 pa)
      | _ => u).mem = true := by
    intro u p hu
    split <;> simpa using hu
  have h1 : Memory.wf (if (s.decodeSector unit pa layout).free then { s with free := s.free + 1 } else s).mem = true := by
    split <;> exact h
  unfold State.storePart
  dsimp only
  split
  · rw [State.report_mem]
    split
    · simpa using h1
    · exact h1
  · dsimp only
    exact State.wf_storeRead (hc _ _ h1)

/-- A store of a whole sector keeps the canonical form. -/
theorem State.wf_storeWhole {s : State} {mid unit pa layout data : Nat} (h : Memory.wf s.mem = true) :
    Memory.wf (s.storeWhole mid unit pa layout data).mem = true := by
  unfold State.storeWhole
  apply State.wf_pokeBytes
  simpa using h

/-- A store of a sector keeps the canonical form. -/
theorem State.wf_storeSector {s : State} {mid unit pa layout data en : Nat} (h : Memory.wf s.mem = true) :
    Memory.wf (s.storeSector mid unit pa layout data en).2.mem = true := by
  have key : ∀ (b : Bool) (u v : Bool × State), Memory.wf u.2.mem = true → Memory.wf v.2.mem = true →
      Memory.wf (if b = true then u else v).2.mem = true := by
    intro b u v hu hv
    cases b
    · exact hv
    · exact hu
  unfold State.storeSector
  exact key _ (true, s.storeWhole mid unit pa layout data) _ (by dsimp only; exact State.wf_storeWhole h) (State.wf_storePart h)

@[simp] theorem State.renewParity_mem (s : State) (core w : Nat) : (s.renewParity core w).mem = s.mem := by
  have key : ∀ (c : Prop) [Decidable c] (u v : State), u.mem = s.mem → v.mem = s.mem → (if c then u else v).mem = s.mem := by
    intro c _ u v hu hv
    split <;> assumption
  unfold State.renewParity
  exact key _ _ _ rfl rfl

theorem State.spadWordRead_mem (s : State) (mid core w : Nat) : (s.spadWordRead mid core w).2.mem = s.mem := by
  have h1 : (s.rebuildWord mid core w).2.mem = s.mem := by
    unfold State.rebuildWord
    rw [apply_ite Prod.snd, apply_ite State.mem]
    simp
  unfold State.spadWordRead
  dsimp only
  split
  · rfl
  · split
    · exact State.count_mem ..
    · exact h1

@[simp] theorem State.spadTouch_mem (s : State) (mid core : Nat) (ws : List Nat) : (s.spadTouch mid core ws).2.mem = s.mem := by
  induction ws generalizing s with
  | nil => rfl
  | cons w ws ih =>
    have := s.spadWordRead_mem mid core w
    rw [State.spadTouch]
    split
    · rename_i s' e; rw [ih, ← this, e]
    · rename_i s' e; rw [← this, e]

/-- A store to a scratchpad keeps the canonical form. -/
theorem State.wf_spadStore {s : State} {mid core off n x : Nat} (h : Memory.wf s.mem = true) :
    Memory.wf (s.spadStore mid core off n x).2.mem = true := by
  unfold State.spadStore
  dsimp only
  split
  · rename_i e
    have e' := State.spadTouch_mem s mid core ((wordsOf off n).filter fun w => !(off ≤ 4 * w && 4 * w + 4 ≤ off + n))
    rw [e] at e'
    dsimp only at e' ⊢
    rwa [e']
  · rename_i e
    have e' := State.spadTouch_mem s mid core ((wordsOf off n).filter fun w => !(off ≤ 4 * w && 4 * w + 4 ≤ off + n))
    rw [e] at e'
    dsimp only at e'
    exact Memory.wf_writeN (by rwa [e'])

/-- A store at any location keeps the canonical form. -/
theorem State.wf_storeAt {s : State} {mid n x stream id : Nat} {l : Loc} (h : Memory.wf s.mem = true) :
    Memory.wf (s.storeAt mid l n x stream id).2.mem = true := by
  cases l with
  | spad core off =>
    have hs := State.wf_spadStore (mid := mid) (core := core) (off := off) (n := n) (x := x) h
    unfold State.storeAt
    dsimp only
    split
    · rename_i e
      rw [e] at hs
      simpa using hs
    · rename_i e
      rw [e] at hs
      exact hs
  | dram u pa layout ns =>
    unfold State.storeAt
    simpa using State.wf_storeSector h
  | host o ns =>
    unfold State.storeAt
    simpa using State.wf_pokeBytes h
  | lease pa ns =>
    exact h
  | doorbell q off ns =>
    unfold State.storeAt
    dsimp only
    split <;> simpa using h

end Sys2Proof.Machine
end

