-- ==== Sys2Proof/Tests/Slice0.lean ====
section
/-! SUPPORT. Tests: a word of every encoded instruction, written out from the fields of its encoding, decodes to it; an ill-formed term for
each check; and for each statement with hypotheses a state and operands that meet them (theorems witness_…). No test runs a program. -/

set_option maxRecDepth 1000000
set_option Elab.async false

namespace Sys2Proof.Tests

open Sys2Proof Sys2Proof.Machine

/-- Each word decodes to its instruction, which is well-formed and has that word as its encoding. -/
noncomputable def decodes (ps : List (Nat × Instr)) : Bool :=
  ps.all fun p => p.2.wf && decide (decodeWord p.1 = .ok p.2) && decide (encode p.2 = some p.1)

/-- Words of major 0x01, field by field (R164, R167). -/
theorem test_decode_major01 : decodes [
  (0b000001_00011_00101_00110_00000000000, .add 3 5 6),
  (0b000001_00011_00101_00110_00000000001, .sub 3 5 6),
  (0b000001_00011_00101_00110_00000000010, .and 3 5 6),
  (0b000001_00011_00101_00110_00000000011, .or 3 5 6),
  (0b000001_00011_00101_00110_00000000100, .xor 3 5 6),
  (0b000001_00011_00101_00110_00000000101, .sll 3 5 6),
  (0b000001_00011_00101_00110_00000000110, .srl 3 5 6),
  (0b000001_00011_00101_00110_00000000111, .sra 3 5 6),
  (0b000001_00011_00101_00110_00000001000, .slt 3 5 6),
  (0b000001_00011_00101_00110_00000001001, .sltu 3 5 6),
  (0b000001_00011_00101_00110_00000001010, .mul 3 5 6),
  (0b000001_00011_00101_00110_00000001011, .mulh 3 5 6),
  (0b000001_00011_00101_00110_00000001100, .mulhu 3 5 6),
  (0b000001_00011_00101_00110_00000001101, .div 3 5 6),
  (0b000001_00011_00101_00110_00000001110, .divu 3 5 6),
  (0b000001_00011_00101_00110_00000001111, .rem 3 5 6),
  (0b000001_00011_00101_00110_00000010000, .remu 3 5 6),
  (0b000001_00011_00101_00110_00000010001, .min 3 5 6),
  (0b000001_00011_00101_00110_00000010010, .max 3 5 6),
  (0b000001_00011_00101_00110_00000010011, .minu 3 5 6),
  (0b000001_00011_00101_00110_00000010100, .maxu 3 5 6),
  (0b000001_00011_00101_0000000000010101, .clz 3 5),
  (0b000001_00011_00101_0000000000010110, .ctz 3 5),
  (0b000001_00011_00101_0000000000010111, .popc 3 5),
  (0b000001_00011_00101_00000_000110_11000, .slli 3 5 6),
  (0b000001_00011_00101_00000_000110_11001, .srli 3 5 6),
  (0b000001_00011_00101_00000_000110_11010, .srai 3 5 6)] = true := by decide +kernel

/-- Words of major 0x02, field by field (R164, R167). -/
theorem test_decode_major02 : decodes [
  (0b000010_00011_00101_1000000000000001, .addi 3 5 32769)] = true := by decide +kernel

/-- Words of major 0x03, field by field (R164, R167). -/
theorem test_decode_major03 : decodes [
  (0b000011_00011_00101_1000000000000001, .andi 3 5 32769)] = true := by decide +kernel

/-- Words of major 0x04, field by field (R164, R167). -/
theorem test_decode_major04 : decodes [
  (0b000100_00011_00101_1000000000000001, .ori 3 5 32769)] = true := by decide +kernel

/-- Words of major 0x05, field by field (R164, R167). -/
theorem test_decode_major05 : decodes [
  (0b000101_00011_00101_1000000000000001, .xori 3 5 32769)] = true := by decide +kernel

/-- Words of major 0x06, field by field (R164, R167). -/
theorem test_decode_major06 : decodes [
  (0b000110_00011_00101_1000000000000001, .slti 3 5 32769)] = true := by decide +kernel

/-- Words of major 0x07, field by field (R164, R167). -/
theorem test_decode_major07 : decodes [
  (0b000111_00011_00101_1000000000000001, .lih 3 5 32769)] = true := by decide +kernel

/-- Words of major 0x08, field by field (R164, R167). -/
theorem test_decode_major08 : decodes [
  (0b001000_00011_00101_10_1_0000001011010, .lds 3 (.a 5) 2 true 90)] = true := by decide +kernel

/-- Words of major 0x09, field by field (R164, R167). -/
theorem test_decode_major09 : decodes [
  (0b001001_00011_00101_10_0_1111111111101, .sts 3 (.a 5) 2 8189)] = true := by decide +kernel

/-- Words of major 0x0A, field by field (R164, R167). -/
theorem test_decode_major0A : decodes [
  (0b001010_00011_00101_000_1000000000001, .beq 3 5 4097),
  (0b001010_00011_00101_001_1000000000001, .bne 3 5 4097),
  (0b001010_00011_00101_010_1000000000001, .blt 3 5 4097),
  (0b001010_00011_00101_011_1000000000001, .bge 3 5 4097),
  (0b001010_00011_00101_100_1000000000001, .bltu 3 5 4097),
  (0b001010_00011_00101_101_1000000000001, .bgeu 3 5 4097)] = true := by decide +kernel

/-- Words of major 0x0B, field by field (R164, R167). -/
theorem test_decode_major0B : decodes [
  (0b001011_11111111111111111111111101, .jmp 67108861)] = true := by decide +kernel

/-- Words of major 0x0C, field by field (R164, R167). -/
theorem test_decode_major0C : decodes [
  (0b001100_11111111111111111111111101, .call 67108861)] = true := by decide +kernel

/-- Words of major 0x0D, field by field (R164, R167). -/
theorem test_decode_major0D : decodes [
  (0b001101_00011_00000_0000000001011010, .lpc 3 90)] = true := by decide +kernel

/-- Words of major 0x0E, field by field (R164, R167). -/
theorem test_decode_major0E : decodes [
  (0b001110_00011_000000000_000001011010, .crget 3 90),
  (0b00111000000_00011_0001_000001011010, .crput 3 90),
  (0b001110_00011_00101_0010_100000000001, .crsetb 3 5 2049),
  (0b001110_00011_00101_0011_100000000001, .crclrb 3 5 2049),
  (0b001110_00011_00101_0100_100000000001, .crswap 3 5 2049)] = true := by decide +kernel

/-- Words of major 0x0F, field by field (R164, R167). -/
theorem test_decode_major0F : decodes [
  (0b001111000000000000000001_11111101, .trap 253),
  (0b00111100000000000000001000000000, .brk),
  (0b00111100000_00011_0000001100000000, .jr 3),
  (0b001111_00011_00101_0000001100000001, .callr 3 5),
  (0b00111100000000000000010000000000, .synci),
  (0b00111100000000000000010100000000, .done),
  (0b00111100000000001000000000000000, .tret),
  (0b00111100000000001000000000000001, .idle),
  (0b001111000000000010000001_11111101, .trapm 253)] = true := by decide +kernel

/-- Words of major 0x10, field by field (R164, R167). -/
theorem test_decode_major10 : decodes [
  (0b010000_0011_0_11_01001_00000000000000, .pfx 3 false 3 9)] = true := by decide +kernel

/-- Words of major 0x11, field by field (R164, R167). -/
theorem test_decode_major11 : decodes [
  (0b01000100000_00011_0101_001_010_011_100, .strip 3 5 1 2 3 4)] = true := by decide +kernel

/-- Words of major 0x12, field by field (R164, R167). -/
theorem test_decode_major12 : decodes [
  (0b010010_00011_00101_0110_01001_010_0000, .claim 3 5 6 9 2)] = true := by decide +kernel

/-- Words of major 0x13, field by field (R164, R167). -/
theorem test_decode_major13 : decodes [
  (0b01001100000000000000000000000000, .gbar),
  (0b01001100000000000000000000000001, .phend)] = true := by decide +kernel

/-- Words of major 0x14, field by field (R164, R167). -/
theorem test_decode_major14 : decodes [
  (0b010100_00011_0000000_00000001011010, .lfork 3 90),
  (0b01010000000000000100000000000000, .ljoin),
  (0b010100000000000010_00011_00101_0110, .vfetch 3 5 6),
  (0b01010000000000001100000000000000, .lbend)] = true := by decide +kernel

/-- Words of major 0x15, field by field (R164, R167). -/
theorem test_decode_major15 : decodes [
  (0b010101_00011_00000_0101_00110_0000000, .qpost 3 5 6)] = true := by decide +kernel

/-- Words of major 0x18, field by field (R164, R167). -/
theorem test_decode_major18 : decodes [
  (0b011000_00011_00101_00110_0_1_1100_00000, .vadd 3 5 6 false true 12),
  (0b011000_00011_00101_00110_0_1_1100_00001, .vsub 3 5 6 false true 12),
  (0b011000_00011_00101_00110_0_1_1100_00010, .vrsub 3 5 6 false true 12),
  (0b011000_00011_00101_00110_0_1_1100_00011, .vmul 3 5 6 false true 12),
  (0b011000_00011_00101_00110_0_1_1100_00100, .vmulh 3 5 6 false true 12),
  (0b011000_00011_00101_00110_0_1_1100_00101, .vdiv 3 5 6 false true 12),
  (0b011000_00011_00101_00110_0_1_1100_00110, .vrem 3 5 6 false true 12),
  (0b011000_00011_00101_00110_0_1_1100_00111, .vmin 3 5 6 false true 12),
  (0b011000_00011_00101_00110_0_1_1100_01000, .vmax 3 5 6 false true 12),
  (0b011000_00011_00101_00110_0_1_1100_01001, .vand 3 5 6 false true 12),
  (0b011000_00011_00101_00110_0_1_1100_01010, .vor 3 5 6 false true 12),
  (0b011000_00011_00101_00110_0_1_1100_01011, .vxor 3 5 6 false true 12),
  (0b011000_00011_00101_00110_0_1_1100_01100, .vsll 3 5 6 false true 12),
  (0b011000_00011_00101_00110_0_1_1100_01101, .vsrl 3 5 6 false true 12),
  (0b011000_00011_00101_00110_0_1_1100_01110, .vsra 3 5 6 false true 12),
  (0b011000_00011_00101_00110_0_1_1100_01111, .vadds 3 5 6 false true 12),
  (0b011000_00011_00101_00110_0_1_1100_10000, .vsubs 3 5 6 false true 12),
  (0b011000_00011_00101_00110_0_1_1100_10001, .vmuls 3 5 6 false true 12),
  (0b011000_00011_00101_00110_0_1_1100_10010, .vavg 3 5 6 false true 12),
  (0b011000_00011_00101_00110_0_1_1100_10011, .vabsd 3 5 6 false true 12),
  (0b011000_00011_00101_00000_1_0_1001_10100, .vabs 3 5 true 9),
  (0b011000_00011_00101_00000_1_0_1001_10101, .vpopc 3 5 true 9),
  (0b011000_00011_00101_00000_1_0_1001_10110, .vclz 3 5 true 9)] = true := by decide +kernel

/-- Words of major 0x19, field by field (R164, R167). -/
theorem test_decode_major19 : decodes [
  (0b011001_00011_00101_00110_0_1_1100_00000, .vfadd 3 5 6 false true 12),
  (0b011001_00011_00101_00110_0_1_1100_00001, .vfsub 3 5 6 false true 12),
  (0b011001_00011_00101_00110_0_1_1100_00010, .vfrsub 3 5 6 false true 12),
  (0b011001_00011_00101_00110_0_1_1100_00011, .vfmul 3 5 6 false true 12),
  (0b011001_00011_00101_00110_0_1_1100_00100, .vfdiv 3 5 6 false true 12),
  (0b011001_00011_00101_00110_0_1_1100_00101, .vfmin 3 5 6 false true 12),
  (0b011001_00011_00101_00110_0_1_1100_00110, .vfmax 3 5 6 false true 12),
  (0b011001_00011_00101_00000_1_0_1001_00111, .vfsqrt 3 5 true 9),
  (0b011001_00011_00101_00000_1_0_1001_01000, .vfabs 3 5 true 9),
  (0b011001_00011_00101_00000_1_0_1001_01001, .vfneg 3 5 true 9),
  (0b011001_00011_00101_00110_0_1_1100_01010, .vfsgnj 3 5 6 false true 12)] = true := by decide +kernel

/-- Words of major 0x1A, field by field (R164, R167). -/
theorem test_decode_major1A : decodes [
  (0b011010_00011_00101_00110_00_1001_00000, .vaddVx 3 5 6 9),
  (0b011010_00011_00101_00110_00_1001_00001, .vsubVx 3 5 6 9),
  (0b011010_00011_00101_00110_00_1001_00010, .vrsubVx 3 5 6 9),
  (0b011010_00011_00101_00110_00_1001_00011, .vmulVx 3 5 6 9),
  (0b011010_00011_00101_00110_00_1001_00100, .vmulhVx 3 5 6 9),
  (0b011010_00011_00101_00110_00_1001_00101, .vdivVx 3 5 6 9),
  (0b011010_00011_00101_00110_00_1001_00110, .vremVx 3 5 6 9),
  (0b011010_00011_00101_00110_00_1001_00111, .vminVx 3 5 6 9),
  (0b011010_00011_00101_00110_00_1001_01000, .vmaxVx 3 5 6 9),
  (0b011010_00011_00101_00110_00_1001_01001, .vandVx 3 5 6 9),
  (0b011010_00011_00101_00110_00_1001_01010, .vorVx 3 5 6 9),
  (0b011010_00011_00101_00110_00_1001_01011, .vxorVx 3 5 6 9),
  (0b011010_00011_00101_00110_00_1001_01100, .vsllVx 3 5 6 9),
  (0b011010_00011_00101_00110_00_1001_01101, .vsrlVx 3 5 6 9),
  (0b011010_00011_00101_00110_00_1001_01110, .vsraVx 3 5 6 9),
  (0b011010_00011_00101_00110_00_1001_01111, .vaddsVx 3 5 6 9),
  (0b011010_00011_00101_00110_00_1001_10000, .vsubsVx 3 5 6 9),
  (0b011010_00011_00101_00110_00_1001_10001, .vmulsVx 3 5 6 9),
  (0b011010_00011_00101_00110_00_1001_10010, .vavgVx 3 5 6 9),
  (0b011010_00011_00101_00110_00_1001_10011, .vabsdVx 3 5 6 9)] = true := by decide +kernel

/-- Words of major 0x1B, field by field (R164, R167). -/
theorem test_decode_major1B : decodes [
  (0b011011_00011_00101_00110_00_1001_00000, .vfaddVx 3 5 6 9),
  (0b011011_00011_00101_00110_00_1001_00001, .vfsubVx 3 5 6 9),
  (0b011011_00011_00101_00110_00_1001_00010, .vfrsubVx 3 5 6 9),
  (0b011011_00011_00101_00110_00_1001_00011, .vfmulVx 3 5 6 9),
  (0b011011_00011_00101_00110_00_1001_00100, .vfdivVx 3 5 6 9),
  (0b011011_00011_00101_00110_00_1001_00101, .vfminVx 3 5 6 9),
  (0b011011_00011_00101_00110_00_1001_00110, .vfmaxVx 3 5 6 9),
  (0b011011_00011_00101_00110_00_1001_01010, .vfsgnjVx 3 5 6 9)] = true := by decide +kernel

/-- Words of major 0x1C, field by field (R164, R167). -/
theorem test_decode_major1C : decodes [
  (0b011100_00011_00101_00110_0_1_1100_00000, .vfma 3 5 6 false true 12),
  (0b011100_00011_00101_00110_0_1_1100_00001, .vfms 3 5 6 false true 12),
  (0b011100_00011_00101_00110_0_1_1100_00010, .vfnma 3 5 6 false true 12),
  (0b011100_00011_00101_00110_0_1_1100_00011, .vfnms 3 5 6 false true 12),
  (0b011100_00011_00101_00110_0_1_1100_00100, .vmadd 3 5 6 false true 12),
  (0b011100_00011_00101_00110_0_1_1100_00101, .vmadds 3 5 6 false true 12),
  (0b011100_00011_00101_00110_0_1_1100_00110, .vnmsub 3 5 6 false true 12)] = true := by decide +kernel

/-- Words of major 0x1D, field by field (R164, R167). -/
theorem test_decode_major1D : decodes [
  (0b0111010_0011_00101_00110_0_1_1100_00000, .vcmpEq 3 5 6 false true 12),
  (0b0111010_0011_00101_00110_0_1_1100_00001, .vcmpNe 3 5 6 false true 12),
  (0b0111010_0011_00101_00110_0_1_1100_00010, .vcmpLt 3 5 6 false true 12),
  (0b0111010_0011_00101_00110_0_1_1100_00011, .vcmpLe 3 5 6 false true 12),
  (0b0111010_0011_00101_00110_0_1_1100_00100, .vcmpGt 3 5 6 false true 12),
  (0b0111010_0011_00101_00110_0_1_1100_00101, .vcmpGe 3 5 6 false true 12),
  (0b0111010_0011_00101_00110_0_1_1100_00110, .vcmpUn 3 5 6 false true 12),
  (0b0111010_0011_00101_00110_00_1001_01000, .vcmpEqVx 3 5 6 9),
  (0b0111010_0011_00101_00110_00_1001_01001, .vcmpNeVx 3 5 6 9),
  (0b0111010_0011_00101_00110_00_1001_01010, .vcmpLtVx 3 5 6 9),
  (0b0111010_0011_00101_00110_00_1001_01011, .vcmpLeVx 3 5 6 9),
  (0b0111010_0011_00101_00110_00_1001_01100, .vcmpGtVx 3 5 6 9),
  (0b0111010_0011_00101_00110_00_1001_01101, .vcmpGeVx 3 5 6 9),
  (0b0111010_0011_00101_00110_00_1001_01110, .vcmpUnVx 3 5 6 9),
  (0b0111010_0011_00101_0000000_0110_10000, .vnz 3 5 6)] = true := by decide +kernel

/-- Words of major 0x1E, field by field (R164, R167). -/
theorem test_decode_major1E : decodes [
  (0b0111100_0011_0_0101_0_0110_00000000000, .mand 3 5 6),
  (0b0111100_0011_0_0101_0_0110_00000000001, .mor 3 5 6),
  (0b0111100_0011_0_0101_0_0110_00000000010, .mxor 3 5 6),
  (0b0111100_0011_0_0101_0_0110_00000000011, .mandn 3 5 6),
  (0b0111100_0011_0_0101_0000000000000100, .mnot 3 5),
  (0b011110_00011_0_0101_0000000000000101, .mpopc 3 5),
  (0b011110_00011_0_0101_0000000000000110, .mfirst 3 5),
  (0b011110000000_0011_0000000000000111, .vexit 3),
  (0b011110000000_0011_0000000000001000, .vexitIncl 3),
  (0b011110_00011_00101_00110_00_1001_10000, .vredsum 3 5 6 9),
  (0b011110_00011_00101_00110_00_1001_10001, .vredsums 3 5 6 9),
  (0b011110_00011_00101_00110_00_1001_10010, .vredmin 3 5 6 9),
  (0b011110_00011_00101_00110_00_1001_10011, .vredmax 3 5 6 9),
  (0b011110_00011_00101_00110_00_1001_10100, .vredand 3 5 6 9),
  (0b011110_00011_00101_00110_00_1001_10101, .vredor 3 5 6 9),
  (0b011110_00011_00101_00110_00_1001_10110, .vredxor 3 5 6 9),
  (0b011110_00011_00101_00110_00_1001_11000, .vgmax 3 5 6 9),
  (0b011110_00011_00101_00110_00_1001_11001, .vgmin 3 5 6 9),
  (0b011110_00011_00101_00110_00_1001_11010, .vgor 3 5 6 9)] = true := by decide +kernel

/-- Words of major 0x1F, field by field (R164, R167). -/
theorem test_decode_major1F : decodes [
  (0b011111_00011_00101_00000_1_0_1001_00000, .vmov 3 5 true 9),
  (0b011111_00011_00101_00110_0_1_1100_00001, .vmerge 3 5 6 false true 12),
  (0b011111_00011_00000_00101_00_0110_00010, .vbcast 3 5 6),
  (0b011111_00011_000000000000_0101_00011, .vidx 3 5),
  (0b011111_00011_00101_00110_00000000100, .vextr 3 5 6),
  (0b011111_00011_00101_00110_00_1001_00101, .vperm 3 5 6 9),
  (0b011111_00011_00101_00110_00_1001_00110, .vslup 3 5 6 9),
  (0b011111_00011_00101_00110_00_1001_00111, .vsldn 3 5 6 9),
  (0b011111_00011_00101_00110_00_1001_01000, .vsl1up 3 5 6 9),
  (0b011111_00011_00101_00110_00_1001_01001, .vsl1dn 3 5 6 9),
  (0b011111_00011_00101_0000000_0110_01010, .vcompress 3 5 6),
  (0b011111_00011_00101_0000000_0110_01011, .vexpand 3 5 6),
  (0b0111110_0011_00101_0000000_0110_01100, .vconfm 3 5 6),
  (0b011111_00011_00101_0000000_0110_01101, .vconfc 3 5 6),
  (0b011111_00011_00101_00110_00_1001_01110, .vfsr 3 5 6 9),
  (0b011111_00011_00101_00110_00_1001_01111, .vfsl 3 5 6 9),
  (0b011111_00011_00101_00110_00_1001_10000, .vfsrv 3 5 6 9),
  (0b011111_00011_00101_00110_00_1001_10001, .vfslv 3 5 6 9)] = true := by decide +kernel

/-- Words of major 0x20, field by field (R164, R167). -/
theorem test_decode_major20 : decodes [
  (0b100000_00011_00000_00101_00000000000, .vcfg 3 5),
  (0b100000_00011_00101_00000_1_0_1001_00001, .vcvt 3 5 true 9),
  (0b100000_00011_00101_00000_1_0_1001_00010, .vcvtRne 3 5 true 9),
  (0b100000_00011_00101_00000_1_0_1001_00011, .vcvtRtz 3 5 true 9),
  (0b100000_00011_00101_00000_1_0_1001_00100, .vcvtRdn 3 5 true 9),
  (0b100000_00011_00101_00000_1_0_1001_00101, .vcvtRup 3 5 true 9),
  (0b100000_00011_00101_00000_1_0_1001_00110, .vcvtRna 3 5 true 9),
  (0b100000_00011_00101_00000_1_0_1001_00111, .vcvtSr 3 5 true 9),
  (0b100000_00011_00101_0000000_0110_01000, .vqnt 3 5 6)] = true := by decide +kernel

/-- Words of major 0x22, field by field (R164, R167). -/
theorem test_decode_major22 : decodes [
  (0b100010_00011_0_0101_00110_0_001_1010_000, .vldImm 3 5 6 1 10),
  (0b100010_00011_0_0101_00110_0_001_1010_001, .vldReg 3 5 6 1 10),
  (0b100010_00011_1_0101_00110_0_001_1010_001, .vldk 3 5 6 1 10),
  (0b100010_00011_0_0101_00110_0_001_1010_010, .vldStr 3 5 6 1 10)] = true := by decide +kernel

/-- Words of major 0x23, field by field (R164, R167). -/
theorem test_decode_major23 : decodes [
  (0b100011_00011_0_0101_00110_0_010_1100_000, .vstImm 3 5 6 false 2 12),
  (0b100011_00011_0_0101_00110_0_010_1100_001, .vstReg 3 5 6 false 2 12),
  (0b100011_00011_1_0101_00110_0_010_1100_001, .vstk 3 5 6 false 2 12),
  (0b100011_00011_0_0101_00110_0_010_1100_010, .vstStr 3 5 6 false 2 12),
  (0b100011_00011_0_0101_00110_0_010_1100_011, .vstu 3 5 6 false 2 12)] = true := by decide +kernel

/-- Words of major 0x24, field by field (R164, R167). -/
theorem test_decode_major24 : decodes [
  (0b100100_00011_0_0101_00110_0_001_1010_000, .vldfImm 3 5 6 1 10),
  (0b100100_00011_0_0101_00110_0_001_1010_001, .vldfReg 3 5 6 1 10),
  (0b100100_00011_1_0101_00110_0_001_1010_001, .vldkf 3 5 6 1 10),
  (0b100100_00011_0_0101_00110_0_001_1010_010, .vldfStr 3 5 6 1 10)] = true := by decide +kernel

/-- Words of major 0x25, field by field (R164, R167). -/
theorem test_decode_major25 : decodes [
  (0b100101_00011_0_0101_00110_0_010_1100_000, .vgath 3 5 6 false 2 12),
  (0b100101_00011_1_0101_00110_0_010_1100_000, .vgathk 3 5 6 false 2 12),
  (0b100101_00011_0_0101_00110_0_010_1100_001, .vgathB 3 5 6 false 2 12)] = true := by decide +kernel

/-- Words of major 0x26, field by field (R164, R167). -/
theorem test_decode_major26 : decodes [
  (0b100110_00011_0_0101_00110_0_010_1100_000, .vscatO 3 5 6 false 2 12),
  (0b100110_00011_1_0101_00110_0_010_1100_000, .vscatkO 3 5 6 false 2 12),
  (0b100110_00011_0_0101_00110_0_010_1100_001, .vscat 3 5 6 false 2 12),
  (0b100110_00011_1_0101_00110_0_010_1100_001, .vscatk 3 5 6 false 2 12),
  (0b100110_00011_0_0101_00110_0_010_1100_010, .vscatOB 3 5 6 false 2 12),
  (0b100110_00011_0_0101_00110_0_010_1100_011, .vscatB 3 5 6 false 2 12)] = true := by decide +kernel

/-- Words of major 0x27, field by field (R164, R167). -/
theorem test_decode_major27 : decodes [
  (0b100111_00011_0_0101_00110_0_010_1100_000, .vgll 3 5 6 false 2 12),
  (0b100111_00011_0_0101_00110_0_010_1100_001, .vscc 3 5 6 false 2 12),
  (0b100111_00011_0_0101_00110_0_010_1100_010, .vaadd 3 5 6 false 2 12),
  (0b100111_00011_0_0101_00110_0_010_1100_011, .vamin 3 5 6 false 2 12),
  (0b100111_00011_0_0101_00110_0_010_1100_100, .vamax 3 5 6 false 2 12),
  (0b100111_00011_0_0101_00110_0_010_1100_101, .vaand 3 5 6 false 2 12),
  (0b100111_00011_0_0101_00110_0_010_1100_110, .vaor 3 5 6 false 2 12),
  (0b100111_00011_0_0101_00110_0_010_1100_111, .vaxchg 3 5 6 false 2 12)] = true := by decide +kernel

/-- Words of major 0x28, field by field (R164, R167). -/
theorem test_decode_major28 : decodes [
  (0b1010000000000000000_101_00_01011010, .fence 5 90),
  (0b101000000000000000100000_11111101, .sbar 253),
  (0b101000_00011_00000010_101_10_1001_010_0, .ldacq 3 5 2 9 2),
  (0b10100000000_00011_011_101_10_1001_010_0, .strel 3 5 2 9 2)] = true := by decide +kernel

/-- Words of major 0x29, field by field (R164, R167). -/
theorem test_decode_major29 : decodes [
  (0b101001_0011_000_00110_00000000000000, .kset 3 6),
  (0b101001_0011_000_00110_010000000000_10, .kdim 3 6 2)] = true := by decide +kernel

/-- Words of major 0x2A, field by field (R164, R167). -/
theorem test_decode_major2A : decodes [
  (0b1010100000_011_00000000_00001011010, .kadv 3 90),
  (0b1010100000_010_00000001_101_10000001, .kadvz 2 5 129),
  (0b1010100000_011_00101_01000000000000, .ksetc 3 5),
  (0b101010_0011_0000000001100000000000, .krel 3),
  (0b101010_0011_0000000010000000000000, .kwait 3),
  (0b101010_0011_000_00101_1010000000_0110, .kqry 3 5 6)] = true := by decide +kernel

/-- Words of major 0x2B, field by field (R164, R167). -/
theorem test_decode_major2B : decodes [
  (0b101011_00011_0_0101_00110_0_001_1010_000, .nmc 3 5 6 1 10)] = true := by decide +kernel

/-- Words of major 0x2C, field by field (R164, R167). -/
theorem test_decode_major2C : decodes [
  (0b101100_00011_0_0101_00110_0_001_1010_000, .xlde 3 5 6 1 10),
  (0b101100_00011_0_0101_00110_0_010_1100_001, .xstc 3 5 6 false 2 12),
  (0b101100_00011_0_0101_00110_0_010_1100_010, .xefst 3 5 6 false 2 12)] = true := by decide +kernel

/-- Words of major 0x2D, field by field (R164, R167). -/
theorem test_decode_major2D : decodes [
  (0b101101_00011_0_0101_00110_0_001_0000000, .coll 3 5 6 1)] = true := by decide +kernel

/-- Words of major 0x30, field by field (R164, R167). -/
theorem test_decode_major30 : decodes [
  (0b110000_11_00101_00110_0_1_1100_00000000, .mop 3 5 6 false true 12),
  (0b110000_11_00101_00110_0_1_1100_00000001, .mopn 3 5 6 false true 12),
  (0b110000_11_00101_00110_0_1_1100_0001_0010, .mopk 3 5 6 false true 12 2)] = true := by decide +kernel

/-- Words of major 0x31, field by field (R164, R167). -/
theorem test_decode_major31 : decodes [
  (0b110001_11_000000000000000000000000, .tzero 3),
  (0b110001_11_00101_00110_00_1001_00000001, .tmvr 3 5 6 9),
  (0b110001_11_00101_00110_00_1001_00000010, .tmvc 3 5 6 9),
  (0b110001_11_00101_00110_00_1001_00000011, .tmrv 3 5 6 9),
  (0b110001_11_00101_00110_00_1001_00000100, .tmcv 3 5 6 9),
  (0b110001_11_0_0101_00110_00000000000101, .tchk 3 5 6),
  (0b110001_11_000000000000000000000110, .tseal 3)] = true := by decide +kernel

/-- Words of major 0x32, field by field (R164, R167). -/
theorem test_decode_major32 : decodes [
  (0b110010_00011_00101_00110_00000000000, .spadd 3 5 6),
  (0b110010_00011_00101_00110_00000000001, .spmul 3 5 6),
  (0b110010_00011_00101_00110_00000000010, .spsub 3 5 6),
  (0b110010_00011_00101_0000000_0110_00011, .spack 3 5 6),
  (0b110010_00011_00101_0000000_0110_00100, .sunpk 3 5 6),
  (0b110010_00011_00000_00101_00000000101, .splen 3 5)] = true := by decide +kernel

/-- Words of major 0x33, field by field (R164, R167). -/
theorem test_decode_major33 : decodes [
  (0b110011_00011_00101_00110_00_1001_00000, .prune 3 5 6 9),
  (0b110011_00011_00101_00110_00_1001_00001, .pruneU 3 5 6 9)] = true := by decide +kernel

/-- Words of major 0x34, field by field (R164, R167). -/
theorem test_decode_major34 : decodes [
  (0b110100_00011_00000_00101_000000000_10, .hclaim 3 5 2),
  (0b1101000_0011_00101_00110_00_1001_001_10, .hins 3 5 6 9 2),
  (0b110100_00011_00101_0_0110_00_1001_010_10, .hprobe 3 5 6 9 2),
  (0b1101000_0011_00101_0000000_0110_011_01, .hdel 3 5 6 1),
  (0b1101000_0011_00101_00110_00_1001_100_10, .hacc 3 5 6 9 2),
  (0b110100_00011_00101_00110_000000101_01, .hdrain 3 5 6 1),
  (0b110100000000000000000000000110_11, .hrel 3),
  (0b110100_00011_0000000000000000111_01, .hstat 3 1)] = true := by decide +kernel

/-! ### Ill-formed terms

One term for each check of WellFormed, at the first value that it refuses. -/

theorem test_ill_formed_operands : ∀ i ∈ [Instr.lds 1 (.a 0) 3 true 0, .pfx 0 0 3 16, .pfx 0 0 0 1, .strip 1 1 7 0 0 0, .strip 1 1 0 7 0 0, .strip 1 1 0 0 7 0,
    .strip 1 1 0 0 0 7, .vscc 1 1 2 false 0 0, .fence 6 0, .ldacq 1 6 0 0 0, .strel 1 6 0 0 0, .kadvz 1 1 0, .kqry 1 0 11], i.wf = false := by decide

theorem test_ill_formed_steps : ∀ i ∈ [Instr.matrixEntryComplete 384, .collGroupInvalidate 1024, .gangPlace 0 [] ⟨5, 1⟩, .gangPlace 0 [] ⟨4, 0⟩, .gangPlace 0 [] ⟨4, 9⟩,
    .gangResume 0 [] ⟨32, 1⟩, .controllerRead 0 1 0, .controllerPartialStore 0 63 0 0 0, .controllerFullStore 0 32 0 0, .scratchpadRebuild 384 0, .scratchpadRebuild 0 393216,
    .scratchpadRebuildComplete 384 0, .scratchpadRebuildComplete 0 393216, .laneSuspect 384 0], i.wf = false := by decide

theorem test_ill_formed_links : ∀ i ∈ [Instr.bar0DoorbellAccess 65 0 none, .bar0DoorbellAccess 0 268435456 none, .bar2SystemAccess 1 0 none, .bar2SystemAccess 0 16777216 none,
    .bar4MemoryAccess 65 0 0 none, .fnctlUnfreeze 65, .fnctlKill 65, .functionLevelReset 0, .functionLevelReset 65, .leaseRevocation 256, .registerWrite (.mgmt 0) 4 none,
    .registerWrite (.mgmt 0) 67108864 none, .remoteRankJoin 1024 0 0 0 []], i.wf = false := by decide

/-! ### A state that meets the hypotheses of the statements

`live` is a device with one launched hart at U, context 0 of core 0, whose gang has one hart. Its scratchpad, channel group 0, Burl and
ports are open to every master. The walk of partition 0 goes through three doorbell pages, whose HEADs are the entries of its tables:
one page of 1 GiB at address 0 with every permission. -/

/-- The first address of the aperture: byte 0 of the scratchpad of core 0. -/
abbrev A : Nat := 0x01FFFFFFF0000000

/-- Vector registers by number. -/
def vectors (x : Nat → Nat) : Vector (BitVec 16384) 32 := Vector.ofFn fun i => BitVec.ofNat 16384 (x i.val)

/-- v1 and v2: UINT8 1, 2 and 0, 1; v3: FP32 1.0, 2.0; v4: UINT64; v5: sparse UINT8 with two pairs; v6: FP16; v7: SINT64; v8: UINT4; v9: sparse
UINT8 without pairs; v10: UINT8 scaled by v11, E8, in blocks of 16; v31 has no format. -/
def liveHart : Hart :=
  { Hart.vacant 0 with
    gang := some 1, wait := .run, gl := 2, grant := ⟨4, 1⟩, tiles := 1
    s := Vector.ofFn fun i => [0, 5, 7, BitVec.ofNat 64 (A + 0x800), 0x0D0F#64, 0, 3, 1, 2].getD i.val 0
    a := #v[0, BitVec.ofNat 64 A, 0x100, BitVec.ofNat 64 (A + 0x4000), 0, 0, 0, 0, 0, 0, 0, 0, 0, 0, 0, 0]
    v := vectors fun i => match i with
      | 1 => 0x0201
      | 2 => 0x0100
      | 3 => 0x400000003F800000
      | 5 => 7 + 2 ^ 32 * 9 + 2 ^ 8192 * 0x0403
      | _ => 0
    tag := Vector.ofFn fun i => [0, 5, 5, 0xF, 0xB, 0x0002000001000005, 0xD, 0xC, 3, 0x0000000001000005, 0x5A000005, 0x11].getD i.val 0
    m := Vector.replicate 16 3
    sset := { TrapSet.launch with tbase := 0x8000, tframe := BitVec.ofNat 64 (A + 0x1000) }
    mset := { TrapSet.launch with tbase := 0x9000, tframe := BitVec.ofNat 64 (A + 0x2000) } }

/-- A gang of one hart. -/
def liveGang : Gang :=
  { id := 1, ring := 0, size := 1, arr := 0, gen := 0, ended := 0, queue := 5, cls := 0, prio := 0, sig := 0, part := 0
    request := ⟨4, 1⟩, grant := ⟨4, 1⟩, pending := none, spad := 0, burl := 0, tiles := 1, sent := 0, received := 0, phase := none
    sweeps := 0, placed := 0, slice := 0, killed := false, leaving := none }

/-- A queue with V = 0 whose HEAD is a word. -/
def headQueue (q : BitVec 16) (w : Word) : Queue :=
  { q, qd0 := 0, qd1 := 0, qd2 := 0, window := 0, head := w, highest := none, slot := none, since := 0, offset := 0, mapped := 0, taken := false }

/-- The word that entry 0 of a table holds to admit every master to everything. -/
def openEntry : Word := 0x8E00000000000000#64

def live : State :=
  let s : State := { State.reset with
    cur := liveHart, gangs := [liveGang], lost := []
    sectors := (List.range 8).map fun i => (i, ⟨some 0#4, 0, 0, 0⟩)
    queues := [headQueue 0xFFFD#16 (BitVec.ofNat 64 (2 ^ 49 + 4096 * 0xFFFE + 1)),
      headQueue 0xFFFE#16 (BitVec.ofNat 64 (2 ^ 49 + 4096 * 0xFFFF + 1)), headQueue 0xFFFF#16 0x7B]
    sec := { State.reset.sec with boot := .running } }
  let s := s.updPart 0 fun q => { q with ptroot := BitVec.ofNat 64 (2 ^ 63 + 2 ^ 49 + 4096 * 0xFFFD) }
  [.mem 0, .aperture 0, .burl 0, .port 0].foldl (fun s t => s.putTable t 0 openEntry) s

/-- `live` with its hart changed. -/
def liveWith (f : Hart → Hart) : State := { live with cur := f live.cur }

/-! ### Witnesses -/

theorem pair_of {α β : Type} {p : α × β} {a : α} (h : p.1 = a) : ∃ b, p = (a, b) := ⟨p.2, Prod.ext h rfl⟩

theorem triple_of {α β γ : Type} {p : α × β × γ} {a : α} (h : p.1 = a) : ∃ b c, p = (a, b, c) := ⟨p.2.1, p.2.2, Prod.ext h rfl⟩

/-- What an action gives, where it ends well. -/
def value? {α ε σ : Type} : Except ε (α × σ) → Option α
  | .ok p => some p.1
  | .error _ => none

theorem ok_of {α ε σ : Type} {x : Except ε (α × σ)} {a : α} (h : value? x = some a) : ∃ s, x = .ok (a, s) := by
  match x, h with
  | .ok (b, s), h => cases h; exact ⟨s, rfl⟩

def isNext : Host.Outcome State Fault Refusal → Bool
  | .next _ => true
  | _ => false

theorem next_of {o : Host.Outcome State Fault Refusal} (h : isNext o = true) : ∃ t, o = .next t := by
  match o, h with
  | .next t, _ => exact ⟨t, rfl⟩

/-- The word that a turn fetches. -/
def fetched : Turn → Option (BitVec 32)
  | .issue _ s => value? (fetchWord s.cur.pc.toNat s)
  | _ => none

theorem issue_of {t : Turn} {w : BitVec 32} (h : fetched t = some w) :
    ∃ s0 s1 s2, t = .issue s0 s1 ∧ fetchWord s1.cur.pc.toNat s1 = .ok (w, s2) := by
  cases t with
  | event i s => cases h
  | settled o => cases h
  | issue s0 s1 => obtain ⟨s2, e⟩ := ok_of (show value? (fetchWord s1.cur.pc.toNat s1) = some w from h); exact ⟨s0, s1, s2, rfl, e⟩

/-- `live` with a word at the hart's PC. -/
def fetching (w : Nat) : State := { live with mem := Memory.writeN [] 0 4 w }

theorem witness_encode_decode : (Instr.sub 4 4 5).wf = true ∧ encode (.sub 4 4 5) = some 0x04842801 := by decide
theorem witness_decode_encode : 0x04842801 < 2 ^ 32 ∧ decodeWord 0x04842801 = .ok (.sub 4 4 5) := by decide +kernel

theorem witness_step_decoded : ∃ s0 s1 s2, (fetching 0x04842801).turn = .issue s0 s1 ∧ fetchWord s1.cur.pc.toNat s1 = .ok (0x04842801#32, s2)
    ∧ decodeWord (0x04842801#32).toNat = .ok (.sub 4 4 5) := by
  obtain ⟨s0, s1, s2, h, e⟩ := issue_of (t := (fetching 0x04842801).turn) (w := 0x04842801#32) (by decide +kernel)
  exact ⟨s0, s1, s2, h, e, witness_decode_encode.2⟩

theorem witness_step_undecoded : ∃ s0 s1 s2, live.turn = .issue s0 s1 ∧ fetchWord s1.cur.pc.toNat s1 = .ok (0#32, s2)
    ∧ decodeWord (0#32).toNat = .error .allZero := by
  obtain ⟨s0, s1, s2, h, e⟩ := issue_of (t := live.turn) (w := 0#32) (by decide +kernel)
  exact ⟨s0, s1, s2, h, e, by decide⟩

theorem witness_step_turn : let s' : State := { live with steps := live.steps + 1 }
    live.agenda = [] ∧ live.cur.wait = .run ∧ s'.mayInterrupt live.cur = false ∧ s'.works = [.issue (coreOf live.cur.id)]
      ∧ s'.harts.filter (fun x => coreOf x.id == coreOf live.cur.id && s'.canIssue x) = [live.cur] := by
  refine ⟨rfl, rfl, by decide +kernel, by decide +kernel, by decide +kernel⟩

theorem witness_step_event : let s : State := { live with agenda := [.portUp 15] }
    s.agenda = .portUp 15 :: [] ∧ encode (.portUp 15) = none ∧ (Instr.portUp 15).wf = true := ⟨rfl, rfl, rfl⟩

theorem witness_fetch : live.clearBytes 0 4 ∧ live.probed live.cur.req .fetch false 0 4 = (.ok (.dram 0 0 0 false), live)
    ∧ live.intact 0 (0 / 64 * 64) 0 ∧ 0 % 4 = 0 ∧ live.cur.view = [] :=
  ⟨rfl, rfl, ⟨rfl, by decide, rfl⟩, rfl, rfl⟩

theorem live_sound : live.MemorySound := ⟨rfl, nofun, nofun⟩
theorem witness_memory_stays_canonical : live.MemorySound ∧ ∃ t, step live = .next t := ⟨live_sound, next_of (by decide +kernel)⟩

/-! Traps. -/

/-- `live` at a level, with both trap sets as given. -/
def trapping (l : Level) (f : TrapSet → TrapSet) : State := liveWith fun h => { h with prv := l, sset := f h.sset, mset := f h.mset }

/-- A trap set being handled, and one whose frame lies in a hole of the aperture. -/
def handled (t : TrapSet) : TrapSet := { t with tstate := 0xFFE0#64 }
def astray (t : TrapSet) : TrapSet := { t with tframe := BitVec.ofNat 64 (A + 0x1FF000) }

theorem witness_trap_entry_s : let s := live
    s.cur.prv = .u ∧ s.clearStream 0 true ∧ s.clearBytes (A + 0x1000) 512
      ∧ (s.cur.leaveLane.sset.tframe &&& 0x01FFFFFFFFFFFE00#64).toNat = A + 0x1000
      ∧ ∃ s2, State.writeFrame { s.cur.leaveLane.req with level := .s } 8 (A + 0x1000) s.cur.leaveLane.frameWords
        (s.trapped s.cur.leaveLane) = (.done, s2) :=
  ⟨rfl, rfl, rfl, by decide, pair_of (by decide +kernel)⟩

theorem witness_trap_entry_m : let s := trapping .s id
    s.cur.prv ≠ .u ∧ s.cur.leaveLane.mset.tstate.getLsbD 7 = false ∧ s.clearStream 0 true ∧ s.clearBytes (A + 0x2000) 512
      ∧ (s.cur.leaveLane.mset.tframe &&& 0x01FFFFFFFFFFFE00#64).toNat = A + 0x2000
      ∧ ∃ s2, State.writeFrame { s.cur.leaveLane.req with level := .m } 8 (A + 0x2000) s.cur.leaveLane.frameWords
        (s.trapped s.cur.leaveLane) = (.done, s2) :=
  ⟨by decide, by decide, rfl, rfl, by decide, pair_of (by decide +kernel)⟩

/-- A command of the hart of `live`. -/
def liveCommand : NmcCommand :=
  { hart := 0, gang := some 1, index := 0, forked := false, part := 0, atLevel := .u, stream := 3, opc := 5, code := 0xB, f := Vector.replicate 8 0, rm := 0
    alpha := 0, beta := 0, base := A, yaddr := A + 0x100, status := A + 0x200, elems := [0, 1], gl := 2, pos := 0, first := none, flags := 0
    met := {}, bits := 0, out := [] }

/-- The S frame lies in main memory, at address 0. -/
def framing : State := liveWith fun h => { h with sset := { h.sset with tframe := 0 } }

theorem witness_trap_frame : Memory.wf framing.mem = true ∧ (∃ s2, State.writeFrame { framing.cur.req with level := .s } 8 0 framing.cur.frameWords
      (framing.trapped framing.cur) = (.done, s2))
    ∧ (framing.trapped framing.cur).FrameIn { framing.cur.req with level := .s } 0 framing.cur.frameWords 0 0 0 := by
  refine ⟨rfl, pair_of (by decide +kernel), fun k hk s1 h => ⟨false, ?_⟩⟩
  obtain rfl : (State.writeFrame { framing.cur.req with level := .s } k 0 framing.cur.frameWords (framing.trapped framing.cur)).2 = s1 :=
    congrArg Prod.snd h
  interval_cases k <;> exact pair_of (by decide +kernel)

theorem witness_trap_waits : let s : State := { live with nmcq := [liveCommand] }
    s.cur.prv = .u ∧ ¬(s.clearStream 0 true ∧ s.clearBytes (A + 0x1000) 512) := ⟨rfl, fun h => nomatch h.1⟩

theorem witness_trap_details : let t : Trap := { code := 7, deta := 0, cls := 7, kind := 7, kreg := 15, acc := 3, stream := 7, elem := 16383 }
    let b : LaneBlock := ⟨0x100, 0x104, 1, 2, 0, 16383, Vector.replicate 32 0⟩
    t.cls < 8 ∧ t.kind < 8 ∧ t.kreg < 16 ∧ t.acc < 4 ∧ t.stream < 8 ∧ b.fetchPc.toNat ≤ 0x100 ∧ b.elem < 2 ^ 14 := by decide

theorem witness_failed_double : let s := trapping .s handled
    s.clearStream 0 true ∧ s.cur.prv ≠ .u ∧ s.clearBytes (A + 0x2000) 512 ∧ s.cur.leaveLane.mset.tstate.getLsbD 7 = true :=
  ⟨rfl, by decide, rfl, by decide⟩

theorem witness_failed_m : let s := trapping .s astray
    s.clearStream 0 true ∧ s.cur.prv ≠ .u ∧ s.clearBytes (A + 0x1FF000) 512 ∧ s.cur.leaveLane.mset.tstate.getLsbD 7 = false
      ∧ (s.cur.leaveLane.mset.tframe &&& 0x01FFFFFFFFFFFE00#64).toNat = A + 0x1FF000
      ∧ ∃ s2, State.writeFrame { s.cur.leaveLane.req with level := .m } 8 (A + 0x1FF000) s.cur.leaveLane.frameWords
        (s.trapped s.cur.leaveLane) = (.failed (A + 0x1FF000) 4 0, s2) :=
  ⟨rfl, by decide, rfl, by decide, by decide, pair_of (by decide +kernel)⟩

/-- The S frame cannot be written; the M set is being handled, or its frame can be. -/
def sAstray (m : TrapSet → TrapSet) : State := liveWith fun h => { h with sset := astray h.sset, mset := m h.mset }

theorem witness_failed_s (inh : Bool) : let s := sAstray (if inh then handled else id)
    s.clearStream 0 true ∧ s.cur.prv = .u ∧ s.clearBytes (A + 0x1FF000) 512
      ∧ (s.cur.leaveLane.sset.tframe &&& 0x01FFFFFFFFFFFE00#64).toNat = A + 0x1FF000
      ∧ ∃ s2, State.writeFrame { s.cur.leaveLane.req with level := .s } 8 (A + 0x1FF000) s.cur.leaveLane.frameWords
        (s.trapped s.cur.leaveLane) = (.failed (A + 0x1FF000) 4 0, s2)
        ∧ s2.cur.mset.tstate.getLsbD 7 = inh ∧ isMgmt s2.cur.id = false := by
  cases inh <;> exact ⟨rfl, rfl, rfl, by decide, _, Prod.ext (by decide +kernel) rfl, by decide +kernel, by decide +kernel⟩

theorem witness_failed_s_at_m : ∃ s3, State.writeFrame { (sAstray id).cur.req with level := .m } 8 (A + 0x2000) (sAstray id).cur.frameWords
      (sAstray id) = (.done, s3) ∧ s3.cur.frozen = false := ⟨_, Prod.ext (by decide +kernel) rfl, by decide +kernel⟩

/-- The hart in a handler, with a frame of zeros but for FCS. -/
def returning (l : Level) (fcs : Nat) : State :=
  { trapping l handled with mem := Memory.writeN [] (spadKey 0 (0x1000 + 8 * 50)) 2 fcs }

theorem witness_tret_outside : let s := trapping .s id
    s.cur.prv ≠ .u ∧ s.cur.lane = none ∧ s.cur.lent = false ∧ s.cur.sset.tstate.getLsbD 7 = false := by decide

theorem witness_tret (rm : Nat) (h : rm = 5 ∨ rm = 6) : let s := returning .s (rm * 256)
    s.cur.prv ≠ .u ∧ s.cur.lane = none ∧ s.cur.lent = false ∧ s.cur.sset.tstate.getLsbD 7 = true ∧ s.clearStream 0 false
      ∧ (s.cur.sset.tframe &&& 0x01FFFFFFFFFFFE00#64).toNat = A + 0x1000 ∧ s.clearBytes (A + 0x1000) 512
      ∧ ∃ ws s2, loadWords s.cur.req 53 (A + 0x1000 + 8) s = .ok (ws, s2) ∧ ((BitVec.ofNat 64 (ws.getD 49 0)).extractLsb' 8 3).toNat = rm := by
  have e : ∃ s2, loadWords (returning .s (rm * 256)).cur.req 53 (A + 0x1000 + 8) (returning .s (rm * 256))
      = .ok (List.replicate 49 0 ++ [rm * 256] ++ List.replicate 3 0, s2) := by rcases h with rfl | rfl <;> exact ok_of (by decide +kernel)
  obtain ⟨s2, e⟩ := e
  rcases h with rfl | rfl <;> exact ⟨by decide, rfl, rfl, by decide, rfl, by decide, rfl, _, s2, e, by decide⟩

/-! Scalar and control instructions. -/

/-- Lent state: the copy's class and index, with the predicate m0. -/
def lending (cls idx : Nat) : State := liveWith fun h => { h with pfxs := BitVec.ofNat 16 (0x8000 + cls * 256 + idx * 8) }

theorem plain_of_live : live.cur.plain := ⟨rfl, rfl⟩
theorem copy_of_live : live.cur.scalarCopyOk ∧ live.cur.storeCopyOk ∧ live.cur.noCopy ∧ live.cur.sregCopyOk := by
  have unlent : ¬live.cur.lent = true := by decide
  exact ⟨(absurd · unlent), (absurd · unlent), (absurd · unlent), (absurd · unlent)⟩

theorem witness_scalar_results : scalarResult live.cur (.add 3 1 2) = some (3, 12) ∧ scalarResult live.cur (.slt 0 1 2) = some (0, 1)
    ∧ live.cur.scalarCopyOk := ⟨by decide, by decide, copy_of_live.1⟩

/-- A copy in an a-register, at the highest index. -/
theorem witness_scalar_results_lent : scalarResult (lending 3 15).cur (.lih 3 1 0xFFFF) = some (3, 0x5FFFF) ∧ (lending 3 15).cur.lent = true
    ∧ (lending 3 15).cur.scalarCopyOk := ⟨by decide, by decide, fun _ => by decide⟩

/-- s1 and s2 with two values. -/
def operands (a b : Word) : State := liveWith fun h => { h with s := (h.s.set 1 a).set 2 b }

theorem witness_division : (operands 7 0).cur.lent = false ∧ (operands 7 0).cur.rs 2 = 0
    ∧ ((operands 0x8000000000000000 0xFFFFFFFFFFFFFFFF).cur.rs 1 = 0x8000000000000000
      ∧ (operands 0x8000000000000000 0xFFFFFFFFFFFFFFFF).cur.rs 2 = 0xFFFFFFFFFFFFFFFF)
    ∧ (operands 0x8000000000000000 1).cur.rs 2 ≠ 0
    ∧ ¬((operands 0x8000000000000000 1).cur.rs 1 = 0x8000000000000000 ∧ (operands 0x8000000000000000 1).cur.rs 2 = 0xFFFFFFFFFFFFFFFF) :=
  ⟨rfl, by decide, by decide, by decide, by decide⟩

theorem witness_levels : live.cur.prv = .u ∧ (trapping .s id).cur.prv = .s
    ∧ registerNumber (.crget 1 0x200#12) = some 0x200#12 ∧ 0x200 ≤ (0x200#12).toNat
    ∧ registerNumber (.crput 1 0x100#12) = some 0x100#12 ∧ 0x100 ≤ (0x100#12).toNat := by decide

theorem witness_lent_state : (lending 2 8).cur.lent = true ∧ (lending 2 8).cur.lane = none ∧ (Instr.add 3 1 2).wf = true
    ∧ (scalarResult (lending 2 8).cur (.add 3 1 2)).isSome = true ∧ (lending 2 8).cur.copyClass = 2
    ∧ (Instr.sts 3 (.a 1) 3 0).wf = true ∧ takesNoLentState .gbar = true ∧ needsPrivilege (lending 2 8).cur .gbar = false := by decide

/-- A lane-thread of element 1 whose block has room for one instruction. -/
def liveBlock : LaneBlock := ⟨0x100, 0x108, 1, 1, 0, 1, Vector.replicate 32 0⟩
def inBlock : State := liveWith fun h => { h with lane := some liveBlock, pc := 0x104 }

theorem witness_lane_block : inBlock.cur.lane = some liveBlock ∧ (Instr.gbar).wf = true ∧ (encode .gbar).isSome = true ∧ inLaneBlock .gbar = false
    ∧ Instr.gbar ≠ .lbend ∧ needsPrivilege inBlock.cur .gbar = false ∧ inBlock.cur.lent = false := by decide

/-- The block's ends are outside it. -/
theorem witness_lane_block_branch : branchForm inBlock.cur (.beq 0 0 1) = some (true, 1) ∧ ¬liveBlock.admits (inBlock.cur.target (1#13).toInt)
    ∧ ¬liveBlock.admits (inBlock.cur.target (0x3FFFFFF#26).toInt) := by
  refine ⟨by decide, ?_, ?_⟩ <;> (unfold LaneBlock.admits; decide)

theorem witness_load_scalar : live.cur.address (.a 2) 0 = 0x100 ∧ (false = true → (3 : Size) ≠ 3) ∧ live.cur.scalarCopyOk
    ∧ live.clearStream 0 false ∧ live.clearBytes 0x100 8 ∧ live.probed live.cur.req .load false 0x100 8 = (.ok (.dram 0 0x100 0 false), live)
    ∧ ∃ s2, live.loadAt live.cur.id live.cur.id (.dram 0 0x100 0 false) 8 = (.data 0 0, s2) :=
  ⟨by decide, nofun, copy_of_live.1, rfl, rfl, rfl, pair_of (by decide +kernel)⟩

/-- `live` with the sector at 0x100 in the poison record of its stack. -/
def poisoned : State := { live with memctl := { live.memctl with poison := [(0, 0x101)] } }

theorem witness_load_scalar_error : poisoned.clearStream 0 false ∧ poisoned.clearBytes 0x100 8
    ∧ poisoned.probed poisoned.cur.req .load false 0x100 8 = (.ok (.dram 0 0x100 0 false), poisoned)
    ∧ ∃ cls x s2, poisoned.loadAt poisoned.cur.id poisoned.cur.id (.dram 0 0x100 0 false) 8 = (.data cls x, s2) ∧ 3 ≤ cls := by
  obtain ⟨s2, e⟩ := pair_of (p := poisoned.loadAt poisoned.cur.id poisoned.cur.id (.dram 0 0x100 0 false) 8) (a := .data 4 0) (by decide +kernel)
  exact ⟨rfl, rfl, rfl, 4, 0, s2, e, by decide⟩

/-- No table admits the hart. -/
def closed : State := { live with tables := [] }

theorem witness_access_refused (a : Acc) (h : a = .load ∨ a = .store ∨ a = .rmw) :
    ∃ k, closed.probed closed.cur.req a false 0x100 8 = (.error (.refused (.mem 0) k), closed) ∧ closed.clearStream 0 true
      ∧ closed.clearBytes 0x100 8 := by
  rcases h with rfl | rfl | rfl <;> exact ⟨0, rfl, rfl, rfl⟩

/-- An address beyond 57 bits, a misaligned one, and the first byte past a scratchpad. -/
theorem witness_access_faults (a : Acc) (h : a = .load ∨ a = .store) :
    live.probed live.cur.req a false (2 ^ 57) 8 = (.error (.fault 0), live) ∧ (missTrap a (2 ^ 57) (.fault 0)).isSome = true
      ∧ live.probed live.cur.req a false 0x101 8 = (.error .align, live) ∧ (missTrap a 0x101 .align).isSome = true
      ∧ live.probed live.cur.req a false (A + 0x180000) 8 = (.error (.fault 4), live) := by
  rcases h with rfl | rfl <;> exact ⟨rfl, rfl, rfl, rfl, rfl⟩

theorem live_steady : live.steady := .inl rfl
theorem live_unstopped : live.unstopped := ⟨live_steady, nofun⟩

theorem witness_store_scalar : live.cur.storeCopyOk ∧ live.steady ∧ live.clearStream 0 true ∧ live.clearBytes 0x100 8
    ∧ live.probed live.cur.req .store false 0x100 8 = (.ok (.dram 0 0x100 0 false), live)
    ∧ ∃ s2, live.storeAt live.cur.id (.dram 0 0x100 0 false) 8 5 = (.done, s2) :=
  ⟨copy_of_live.2.1, live_steady, rfl, rfl, rfl, pair_of (by decide +kernel)⟩

theorem witness_store_scalar_lost : poisoned.probed poisoned.cur.req .store false 0x100 8 = (.ok (.dram 0 0x100 0 false), poisoned)
    ∧ ∃ s2, poisoned.storeAt poisoned.cur.id (.dram 0 0x100 0 false) 8 5 = (.lost 4, s2) := ⟨rfl, pair_of (by decide +kernel)⟩

/-- Word 0 of the scratchpad and its parity row have two flipped bits. -/
def torn : State := { live with spadFlips := [(0, 3#39)], parityFlips := [(0, 3#39)] }

theorem witness_store_scalar_severe : torn.probed torn.cur.req .store false A 1 = (.ok (.spad 0 0), torn)
    ∧ ∃ s2, torn.storeAt torn.cur.id (.spad 0 0) 1 5 = (.severe, s2) := ⟨rfl, pair_of (by decide +kernel)⟩

/-- The page of partition 0 is leased memory, and the lease window 0 admits everything. -/
def leased : State :=
  { live with
    queues := live.queues.map fun q => if q.q = 0xFFFF#16 then { q with head := BitVec.ofNat 64 (2 ^ 51 + 0x7B) } else q
    link := { live.link with domctl := 0x8000000000000000#64, leases := [(0, BitVec.ofNat 64 (2 ^ 63 + 7 * 2 ^ 56 + 40 * 2 ^ 50))] } }

theorem witness_store_scalar_leased : leased.clearStream 0 true ∧ leased.clearBytes 0x100 8
    ∧ leased.probed leased.cur.req .store false 0x100 8 = (.ok (.lease (2 ^ 51 + 0x100) false), leased)
    ∧ ∃ s2, leased.storeAt leased.cur.id (.lease (2 ^ 51 + 0x100) false) 8 5 = (.done, s2) :=
  ⟨rfl, rfl, rfl, pair_of (by decide +kernel)⟩

theorem witness_access_frames : Memory.wf live.mem = true ∧ isMgmt live.cur.id = false ∧ 0x138 % 64 + 8 ≤ 64 ∧ live.intact 0 (0x138 / 64 * 64) 0 ∧ (255 : Nat) < 2 ^ (8 * 8) :=
  ⟨rfl, rfl, by decide, ⟨rfl, by decide, rfl⟩, by decide⟩

theorem witness_branches : live.cur.lent = false ∧ branchForm live.cur (.bltu 1 2 0x1000) = some (true, 0x1000)
    ∧ live.cur.mayJump (live.cur.target (0x1000#13).toInt) ∧ live.cur.lane = none ∧ (live.cur.rs 0).toNat % 4 = 0
    ∧ (live.cur.rs 1).toNat % 4 ≠ 0 := ⟨rfl, by decide, nofun, rfl, by decide, by decide⟩

theorem witness_branch_in_block : let s := liveWith fun h => { h with lane := some { liveBlock with endPc := 0x110 }, pc := 0x104 }
    branchForm s.cur (.bge 2 1 1) = some (true, 1) ∧ s.cur.mayJump (s.cur.target (1#13).toInt) := by
  refine ⟨by decide, ?_⟩
  rintro b h
  cases h
  unfold LaneBlock.admits
  decide

/-- TRAP and BRK at U go to level S. -/
theorem witness_trap_instructions : live.cur.lane = none ∧ live.cur.lent = false ∧ live.cur.prv = .u
    ∧ (live.cur.sset.tframe &&& 0x01FFFFFFFFFFFE00#64).toNat = A + 0x1000 ∧ live.clearStream 0 true ∧ live.clearBytes (A + 0x1000) 512
    ∧ ∃ s2, State.writeFrame { live.cur.req with level := .s } 8 (A + 0x1000) live.cur.frameWords
      (live.trapped live.cur) = (.done, s2) :=
  ⟨rfl, rfl, rfl, by decide, rfl, rfl, pair_of (by decide +kernel)⟩

/-- TRAPM, and every trap at S, goes to level M. -/
theorem witness_trap_instructions_m : let s := trapping .s id
    s.cur.prv ≠ .u ∧ s.cur.mset.tstate.getLsbD 7 = false ∧ (s.cur.mset.tframe &&& 0x01FFFFFFFFFFFE00#64).toNat = A + 0x2000
      ∧ ∃ s2, State.writeFrame { s.cur.req with level := .m } 8 (A + 0x2000) s.cur.frameWords
        (s.trapped s.cur) = (.done, s2) :=
  ⟨by decide, by decide, by decide, pair_of (by decide +kernel)⟩

theorem witness_read_register : levelAdmits live.cur.prv (0x03F#12).toNat ∧ cregOf (0x03F#12).toNat = some (.tag 31)
    ∧ cregOf 0x008 = some .kstat ∧ live.mxq = [] := ⟨by show 0x3F < 0x100; decide, by decide, by decide, rfl⟩

/-- s1 with a word to write. -/
theorem witness_write_register : registerWriteForm live.cur (.crput 1 0x00A) = some (none, 0x00A, fun _ => live.cur.rs 1)
    ∧ levelAdmits live.cur.prv (0x00A#12).toNat ∧ cregOf (0x00A#12).toNat = none
    ∧ (cregOf 0x001 = some .glanes ∧ (CReg.glanes).readOnly = true) ∧ (cregOf 0x000 = some .gl ∧ (CReg.gl).readOnly = false)
    ∧ live.cregTrap .gl 5 = false ∧ cregOf 0x003 = some .fcs ∧ 6 ≤ ((0x600 : Word).extractLsb' 8 3).toNat
    ∧ ((0x500 : Word).extractLsb' 8 3).toNat < 6 ∧ (live.cur.programWrite 0x500 .fcs).isSome = true :=
  ⟨rfl, by show 0xA < 0x100; decide, by decide, by decide, by decide, by decide, by decide, by decide, by decide, by decide⟩

/-- A management core at M, with an interrupt pending or none. -/
def managing (pending : Word) : State :=
  liveWith fun h => { h with id := 0x8000, gang := none, prv := .m, mset := { h.mset with tstate := pending } }

theorem witness_prefix : live.cur.lane = none ∧ live.cur.lent = false ∧ (15#5).toNat < 16 ∧ (live.cur.view.map ViewByte.key).Nodup
    ∧ (trapping .s id).cur.prv ≠ .u ∧ isMgmt (trapping .s id).cur.id = false
    ∧ isMgmt (managing 0x10000).cur.id = true ∧ (managing 0x10000).cur.interrupt?.isSome = true ∧ (managing 0xFF60).cur.interrupt? = none := by
  decide

/-! Gangs, forks and lanes. -/

theorem refers_of_live : live.cur.Refers 4 1 (.uint 64) := ⟨by decide, by decide, by decide⟩

theorem witness_strip : live.cur.plain ∧ ((∃ i, ([7, 0, 1, 2] : List (BitVec 3)).getD i 0 = 7) ∧ ∀ i, ([6, 0, 1, 2] : List (BitVec 3)).getD i 0 ≠ 7)
    ∧ (¬∃ g f, live.cur.Refers 15 g f) ∧ live.cur.Refers 4 1 (.uint 64) ∧ 4 ≤ live.cur.adopted.grant.lanes ∧ 1 ≤ live.cur.adopted.grant.q
    ∧ live.cur.rs 1 ≠ 0 := by
  refine ⟨plain_of_live, ⟨⟨0, rfl⟩, fun i => ?_⟩, ?_, refers_of_live, by decide, by decide, by decide⟩
  · match i with
    | 0 | 1 | 2 | 3 => decide
    | i + 4 => exact (by decide : (0 : BitVec 3) ≠ 7)
  · rintro ⟨g, f, -, h, -⟩
    exact absurd (h.symm.trans (show fmtOf live.cur.f (tagFmt live.cur.tag[(15 : VReg)]) = none by decide)) nofun

/-- A descriptor whose next index is 3 and whose limit is 5, or less. -/
def claiming (limit : Nat) : State := { live with mem := Memory.writeN (Memory.writeN [] 0x100 8 3) 0x108 8 limit }

theorem witness_claim (limit : Nat) (h : limit = 5 ∨ limit = 3) : let s := claiming limit
    s.cur.plain ∧ (s.cur.a[(2 : AReg)]).toNat = 0x100 ∧ s.cur.Refers 4 1 (.uint 64) ∧ s.clearStream 7 true ∧ s.clearBytes 0x100 16
      ∧ s.probed s.cur.req .rmw false 0x100 16 = (.ok (.dram 0 0x100 0 false), s)
      ∧ ∃ c s2, s.readPiece [] ⟨{ elem := 0, va := 0x100, n := 16 }, .dram 0 0x100 0 false⟩ .linked = (.data 0 (3 + 2 ^ 64 * limit), c, s2) := by
  rcases h with rfl | rfl
  all_goals
    exact ⟨plain_of_live, by decide, refers_of_live, rfl, rfl, rfl, triple_of (by decide +kernel)⟩

theorem witness_claim_error : ∃ c s2, poisoned.readPiece [] ⟨{ elem := 0, va := 0x100, n := 16 }, .dram 0 0x100 0 false⟩ .linked = (.data 4 0, c, s2) :=
  triple_of (by decide +kernel)

theorem witness_claim_fault : live.probed live.cur.req .rmw false (2 ^ 57) 16 = (.error (.fault 0), live) := rfl

theorem launched_of_live : live.Launched liveGang := ⟨plain_of_live, rfl, rfl, rfl, by decide⟩

theorem witness_barrier : live.Launched liveGang ∧ live.clearTransfers 0xFF false := ⟨launched_of_live, by unfold State.clearTransfers; decide +kernel⟩

theorem witness_barrier_waits : let s : State := { live with nmcq := [liveCommand] }
    s.Launched liveGang ∧ ¬s.clearTransfers 0xFF false := ⟨launched_of_live, by unfold State.clearTransfers; decide +kernel⟩

theorem witness_barrier_illegal : let s := liveWith fun h => { h with child := some 1 }
    s.cur.plain ∧ s.cur.child.isSome = true := ⟨⟨rfl, rfl⟩, rfl⟩

theorem witness_done_illegal : (trapping .s id).cur.plain ∧ (trapping .s id).cur.prv ≠ .u := ⟨⟨rfl, rfl⟩, by decide⟩

/-- The gang's last hart ends. -/
theorem witness_done : live.Launched liveGang ∧ live.cur.prv = .u ∧ live.mxq = [] ∧ live.clearTransfers 0xFF true
    ∧ ({ (live.releaseAllK live.cur).1 with cur := (live.releaseAllK live.cur).2 } : State).clearTransfers 0xFF true
    ∧ liveGang.ended + 1 = liveGang.size :=
  ⟨launched_of_live, rfl, rfl, by unfold State.clearTransfers; decide +kernel, by unfold State.clearTransfers; decide +kernel, rfl⟩

/-- A gang of four whose other harts run. -/
def crowd : Gang := { liveGang with size := 4 }

theorem witness_done_of_four : let s : State := { live with gangs := [crowd] }
    s.Launched crowd ∧ crowd.arr + 1 < crowd.size ∧ crowd.ended + 1 < crowd.size := ⟨⟨plain_of_live, rfl, rfl, rfl, by decide⟩, by decide, by decide⟩

/-- Contexts 1 and 2 of the core have harts, and context 3 has none. -/
def forking (lanes : Nat) : State :=
  { liveWith fun h => { h with grant := ⟨lanes, 1⟩ } with
    others := { Hart.vacant 1 with wait := .run } :: { Hart.vacant 2 with wait := .run } :: live.others }

theorem witness_fork : (forking 8).cur.plain ∧ (forking 8).cur.child = none ∧ 8 ≤ (forking 8).cur.grant.lanes
    ∧ (forking 8).pick (forking 8).freeContexts = (some 3, forking 8) ∧ (forking 4).cur.grant.lanes < 8 := ⟨⟨rfl, rfl⟩, rfl, by decide, by rw [show (forking 8).freeContexts = [3] by decide +kernel]; rfl, by decide⟩

/-- A parent whose child, in context 3, runs or has ended; and that child. -/
def parted (w : Wait) : State :=
  { liveWith fun h => { h with child := some 3 } with
    others := { Hart.vacant 3 with wait := w, parent := some 0, gang := some 1 } :: live.others }

theorem witness_join : (parted .run).cur.plain ∧ (parted .run).cur.parent = none ∧ (parted .run).cur.child = some 3 ∧ ¬(parted .run).childGone 3
    ∧ (parted .ended).childGone 3 := by
  refine ⟨⟨rfl, rfl⟩, rfl, rfl, fun h => ?_, ?_⟩
  · exact absurd (h _ (List.mem_cons_of_mem _ List.mem_cons_self) rfl rfl) (by decide)
  · unfold State.childGone; decide +kernel

theorem witness_join_illegal : live.cur.plain ∧ live.cur.parent = none ∧ live.cur.child = none := ⟨plain_of_live, rfl, rfl⟩

def joining : State :=
  { liveWith fun h => { h with id := 3, parent := some 0 } with
    others := { liveHart with child := some 3, wait := .join } :: live.others }

theorem witness_child_join : joining.cur.plain ∧ joining.cur.parent = some 0 ∧ (0 : Nat) ≠ joining.cur.id ∧ joining.cur.child = none
    ∧ joining.clearTransfers 0xFF false ∧ joining.others.find? (fun h => h.id == 0) = some { liveHart with child := some 3, wait := .join } :=
  ⟨⟨rfl, rfl⟩, rfl, by decide, rfl, by unfold State.clearTransfers; decide +kernel, by decide +kernel⟩

/-- LBEND stands behind the VFETCH at 0. -/
def fencing : State := { live with mem := Memory.writeN [] 4 4 0b010100_0000000000_1100_000000000000 }

theorem operand_of_live (r : VReg) (h : r = 1 ∨ r = 2) : ∃ a, live.cur.operand? r = some a ∧ a.fmt = .uint 8 ∧ a.sparse = false := by
  rcases h with rfl | rfl <;> exact ⟨_, rfl, rfl, rfl⟩

theorem witness_vfetch : fencing.cur.plain ∧ tagSparse fencing.cur.tag[(1 : VReg)] = false ∧ tagSparse fencing.cur.tag[(2 : VReg)] = false
    ∧ (fencing.cur.operand? 1).isSome = true ∧ (fencing.cur.operand? 2).isSome = true
    ∧ ∃ s1, findLbend 256 (fencing.cur.pc + 4) fencing = .ok (4, s1) :=
  ⟨plain_of_live, by decide, by decide, by decide +kernel, by decide +kernel, ok_of (by decide +kernel)⟩

theorem witness_vfetch_sparse : live.cur.plain ∧ tagSparse live.cur.tag[(5 : VReg)] = true := ⟨plain_of_live, by decide⟩
theorem witness_vfetch_operand : live.cur.operand? 31 = none ∧ tagSparse live.cur.tag[(31 : VReg)] = false := by decide +kernel

theorem witness_lbend : inBlock.cur.lane = some liveBlock ∧ inBlock.cur.lent = false ∧ inBlock.steady
    ∧ (inBlock.cur.operand? liveBlock.vd).isSome = true ∧ (inBlock.cur.operand? liveBlock.va).isSome = true :=
  ⟨rfl, rfl, .inl rfl, by decide +kernel, by decide +kernel⟩

/-! ### Queues, vectors and memory -/

theorem copyOk_of_live (d : Vec) : live.cur.vecCopyOk d := fun h => absurd h (by decide)

/-- A header at 0x100: a ring of 16 slots at 0x140 with three indices posted and one taken, or sixteen, its doorbell page in the scratchpad. -/
def queueing (tail : Nat) : State :=
  { live with mem := Memory.writeN [] 0x100 40 (0x140 + 2 ^ 64 * 4 + 2 ^ 128 * tail + 2 ^ 192 * 1 + 2 ^ 256 * A) }

def headerOfTail (tail : Nat) : Nat := 0x140 + 2 ^ 64 * 4 + 2 ^ 128 * tail + 2 ^ 192 * 1 + 2 ^ 256 * A

theorem witness_qpost (tail : Nat) (h : tail = 3 ∨ tail = 17) : let s := queueing tail
    s.cur.plain ∧ (s.cur.a[(2 : AReg)]).toNat = 0x100 ∧ (s.cur.vec? 1).isSome = true ∧ s.clearTransfers 0xFF false ∧ s.clearStream 0 true
      ∧ s.clearBytes 0x100 64 ∧ s.probed s.cur.req .rmw false 0x100 64 = (.ok (.dram 0 0x100 0 false), s)
      ∧ (∃ s2, s.loadAt s.cur.id s.cur.id (.dram 0 0x100 0 false) 64 = (.data 0 (headerOfTail tail), s2))
      ∧ headerFields (headerOfTail tail) = some (0x140, 4, tail, 1, A) := by
  rcases h with rfl | rfl
  all_goals exact ⟨plain_of_live, by decide, by decide +kernel, by unfold State.clearTransfers; decide +kernel, rfl, rfl, rfl,
    pair_of (by decide +kernel), by decide +kernel⟩

/-- The slot of index 3 and the doorbell can be reached, and a sector request is free. -/
theorem witness_qpost_slot : live.clearBytes 0x200 64 ∧ live.probed live.cur.req .store false 0x200 64 = (.ok (.dram 0 0x200 0 false), live)
    ∧ live.clearBytes A 8 ∧ live.probed live.cur.req .store false A 8 = (.ok (.spad 0 0), live) ∧ live.cleared live.cur .sectors = true :=
  ⟨rfl, rfl, rfl, rfl, rfl⟩

theorem witness_qpost_header : headerFields 0 = none ∧ live.cur.vec? 31 = none
    ∧ ∃ s2, poisoned.loadAt poisoned.cur.id poisoned.cur.id (.dram 0 0x100 0 false) 64 = (.data 4 0, s2) :=
  ⟨by decide, by decide +kernel, pair_of (by decide +kernel)⟩

theorem witness_vector_integer : (intExpect live.cur (.vadds 1 1 2 false false 0)).isSome = true
    ∧ (intFusedExpect live.cur (.vnmsub 1 1 2 false false 0)).isSome = true ∧ live.cur.lane = none ∧ (∀ d, live.cur.vecCopyOk d) ∧ live.steady :=
  ⟨by decide +kernel, by decide +kernel, rfl, copyOk_of_live, live_steady⟩

/-- The copy of lent state on a group that starts where the destination ends. -/
theorem witness_vector_copy : (intExpect (lending 2 2).cur (.vabs 1 1 false 0)).isSome = true ∧ (lending 2 2).cur.lent = true
    ∧ (lending 2 2).cur.copyClass = 2 ∧ (lending 2 2).cur.copyIndex % 1 = 0 ∧ 1 + 1 ≤ (lending 2 2).cur.copyIndex := by decide +kernel

theorem witness_vector_floating : (floatExpect live.cur (.vfsqrt 3 3 false 0)).isSome = true
    ∧ (floatFusedExpect live.cur (.vfma 3 3 3 false false 0)).isSome = true ∧ live.steady := ⟨by decide +kernel, by decide +kernel, live_steady⟩

theorem witness_vector_masks : (compareExpect live.cur (.vcmpLt 2 1 2 false false 0)).isSome = true
    ∧ (maskExpect live.cur (.mand 1 2 3)).isSome = true ∧ live.cur.noCopy ∧ vecScalarResult live.cur (.mpopc 3 1) = some (3, 2)
    ∧ live.cur.sregCopyOk ∧ exitGl live.cur (.vexitIncl 1) = some 1 :=
  ⟨by decide +kernel, by decide +kernel, copy_of_live.2.2.1, by decide +kernel, copy_of_live.2.2.2, by decide +kernel⟩

theorem witness_vector_reduction : (intReduceExpect live.cur (.vredsum 1 1 2 0)).isSome = true
    ∧ (floatReduceExpect live.cur (.vredmax 3 3 3 0)).isSome = true ∧ (groupExpect live.cur (.vgmax 1 2 8 0)).isSome = true := by decide +kernel

theorem witness_vector_moves : (moveExpect live.cur (.vmov 1 2 false 0)).isSome = true ∧ (moveExpect live.cur (.vperm 1 1 2 0)).isSome = true := by
  decide +kernel

theorem witness_configure : live.cur.lane = none ∧ live.cur.noCopy ∧ (live.cur.rs 1).extractLsb' 32 32 = 0 ∧ ((live.cur.rs 1).extractLsb' 0 5).toNat ≤ 0x11
    ∧ (6 : VReg).val % 2 ^ ((live.cur.rs 1).extractLsb' 8 2).toNat = 0 ∧ (live.cur.rs 4).extractLsb' 10 14 ≠ 0 :=
  ⟨rfl, copy_of_live.2.2.1, by decide, by decide, by decide, by decide⟩

theorem witness_vector_convert : live.cur.lane = none ∧ live.unstopped ∧ (convertExpect live.cur (.vcvt 3 1 false 0)).isSome = true
    ∧ (quantExpect live.cur (.vqnt 10 3 0)).isSome = true := ⟨rfl, live_unstopped, by decide +kernel, by decide +kernel⟩

/-- Upsets of the Skew pass on the first element group. -/
def skewed (settled : Bool) : State := { liveWith fun h => { h with skew := true } with upsets := [⟨0, 0, settled, 15⟩] }

theorem witness_vector_traps : live.cur.lent = false ∧ (31 : VReg) ∈ vectorOperands (.vadd 31 1 2 false false 0) ∧ live.cur.operand? 31 = none := by
  decide +kernel

theorem witness_skew : (∀ b, (skewed b).upsets.filter (fun u => u.hart == (skewed b).cur.id) = [⟨0, 0, b, 15⟩]) ∧ (skewed true).cur.skew = true
    ∧ intForm (.vadd 1 1 2 false false 0) = some (.add, 1, 1, .v 2, 0) ∧ (intExpect (skewed true).cur (.vadd 1 1 2 false false 0)).isSome = true
    ∧ ((skewed true).cur.actives 0).find? (fun e => e * 8 / 128 == 0) = some 0 := by
  refine ⟨fun b => by cases b <;> rfl, rfl, rfl, by decide +kernel, by decide +kernel⟩

theorem witness_rounding : fp16 ∈ [fp16, bf16, fp32, fp64] ∧ |((1 : ℚ)) * ((65504 : Nat) : ℚ) * (2 : ℚ) ^ (0 : Int)| ≤ (fp16.largest.1 : ℚ) * (2 : ℚ) ^ fp16.largest.2 := by
  refine ⟨by decide, ?_⟩
  rw [show fp16.largest = (2047, 5) by decide]
  norm_num

/-! Accesses. -/

def vec1 : Vec := ⟨1, 1, .uint 8, false, 0, none, 5, 0x0201⟩
def vec2 : Vec := ⟨2, 1, .uint 8, false, 0, none, 5, 0x0100⟩
def vec3 : Vec := ⟨3, 1, .float fp32, false, 0, none, 0xF, 0x400000003F800000⟩

theorem operands_of_live : live.cur.operand? 1 = some vec1 ∧ live.cur.index? 2 = some vec2 ∧ live.cur.operand? 3 = some vec3 := by decide +kernel

/-- The memory key of a byte of the scratchpad of core 0. -/
def spadAt (va : Nat) : Nat := spadKey 0 (va - A)

theorem exact_of_live (off n : Nat) : live.exact (.spad 0 off) n := ⟨fun _ _ _ => rfl, fun _ _ _ => rfl, nofun⟩

theorem reaches_spad {a : Acc} {ahead : Prop} {off n : Nat} (hc : live.clearBytes (A + off) n)
    (hp : live.probe live.cur.req a false (A + off) n = (.ok (.spad 0 off), live)) : live.reaches a ahead (A + off) n (spadAt (A + off)) :=
  ⟨hc, _, hp, exact_of_live off n, by unfold spadAt; rw [Nat.add_sub_cancel_left]; rfl, fun _ => rfl⟩

theorem reachesElem_of {s : State} {a : Acc} {ahead : Prop} {x : AccessForm} {w e va n : Nat} {key : Nat → Nat} {i : Nat}
    (h : x.accesses w e = [(i, va, n)]) (hr : s.reaches a ahead va n (key va)) : s.reachesElem a ahead x w key e := by
  intro p hp
  rw [h, List.mem_singleton] at hp
  subst hp
  exact hr

theorem isActive_lt {h : Hart} {m : MReg} {e : Nat} (he : h.isActive m e = true) : e < h.gl.toNat := by
  unfold Hart.isActive at he
  exact of_decide_eq_true (Bool.and_eq_true_iff.mp he).1

/-- Bytes of the scratchpad by element, from a1 up and by index. -/
def linear (first : Bool) : AccessForm := { vd := 1, m := 0, stream := 7, addr := live.cur.immAddr 1 0, first }

theorem linear_reached (a : Acc) (ha : a = .load ∨ a = .store ∨ a = .rmw) (b : Bool) (ahead : Nat → Prop) :
    ∀ e, (linear b).takes live.cur e → live.reachesElem a (ahead e) (linear b) vec1.w spadAt e := by
  rintro e ⟨he, -⟩
  have : e < 2 := isActive_lt he
  have h0 : (linear b).accesses vec1.w 0 = [(0, A + 0, 1)] := by cases b <;> decide +kernel
  have h1 : (linear b).accesses vec1.w 1 = [(0, A + 1, 1)] := by cases b <;> decide +kernel
  rcases ha with rfl | rfl | rfl <;> interval_cases e
  · exact reachesElem_of h0 (reaches_spad rfl rfl)
  · exact reachesElem_of h1 (reaches_spad rfl rfl)
  · exact reachesElem_of h0 (reaches_spad rfl rfl)
  · exact reachesElem_of h1 (reaches_spad rfl rfl)
  · exact reachesElem_of h0 (reaches_spad rfl rfl)
  · exact reachesElem_of h1 (reaches_spad rfl rfl)

theorem witness_vector_loads : loadForm live.cur (.vldImm 1 1 0 7 0) = some (linear false) ∧ live.cur.lane = none ∧ live.cur.dataReg (linear false) vec1
    ∧ live.cur.vecCopyOk vec1 ∧ live.unstopped ∧ live.clearStream 7 false
    ∧ ∀ e, (linear false).takes live.cur e → e < 2 → live.reachesElem .load ((linear false).first = true ∧ ∃ j < e, (linear false).takes live.cur j)
      (linear false) vec1.w spadAt e :=
  ⟨rfl, rfl, ⟨operands_of_live.1, nofun, nofun⟩, copyOk_of_live _, live_unstopped, rfl,
    fun e h _ => linear_reached .load (.inl rfl) false (fun e => (linear false).first = true ∧ ∃ j < e, (linear false).takes live.cur j) e h⟩

/-- The second element lies past the scratchpad. -/
def atEdge : State := liveWith fun h => { h with a := h.a.set 1 (BitVec.ofNat 64 (A + 0x17FFFF)) }
def edgeForm : AccessForm := { vd := 1, m := 0, stream := 7, addr := atEdge.cur.immAddr 1 0, first := true }

theorem witness_first_fault : loadForm atEdge.cur (.vldfImm 1 1 0 7 0) = some edgeForm ∧ edgeForm.first = true ∧ edgeForm.takes atEdge.cur 1
    ∧ (∃ j < 1, edgeForm.takes atEdge.cur j) ∧ atEdge.stopsAhead edgeForm 8 1
    ∧ ∀ e, edgeForm.takes atEdge.cur e → e < 1 → atEdge.reachesElem .load True edgeForm 8 spadAt e := by
  refine ⟨rfl, rfl, ⟨by decide, by decide⟩, ⟨0, by decide, by decide, by decide⟩, ⟨(0, A + 0x180000, 1), by decide +kernel, .inl ⟨4, rfl⟩⟩, ?_⟩
  intro e _ he
  interval_cases e
  exact reachesElem_of (i := 0) (n := 1) (va := A + 0x17FFFF) (by decide +kernel)
    ⟨rfl, .spad 0 0x17FFFF, rfl, ⟨fun _ _ _ => rfl, fun _ _ _ => rfl, nofun⟩, rfl, fun _ => rfl⟩

theorem witness_vector_stores : Memory.wf live.mem = true ∧ storeForm live.cur (.vstImm 1 1 0 false 7 0) = some (linear false) ∧ live.cur.dataReg (linear false) vec1 ∧ live.cur.noCopy
    ∧ live.unstopped ∧ live.clearStream 7 true ∧ ∀ e, (linear false).takes live.cur e → live.reachesElem .store False (linear false) vec1.w spadAt e :=
  ⟨rfl, rfl, ⟨operands_of_live.1, nofun, nofun⟩, copy_of_live.2.2.1, live_unstopped, rfl, linear_reached .store (.inr (.inl rfl)) false fun _ => False⟩

/-- A scatter's form: v1 to the bytes that v2 indexes. -/
def indexed (m : MReg) (ordered : Bool) : AccessForm :=
  { vd := 1, m, stream := 7, addr := live.cur.indexedAddr 1 vec2 false, wide := true, dense := true, ordered }

theorem indexed_reached (a : Acc) (ha : a = .store ∨ a = .rmw) (x : AccessForm) (hx : x.addr = live.cur.indexedAddr 1 vec2 false) (hu : x.unaligned = false)
    (e : Nat) (he : e < 2) : live.reachesElem a False x vec1.w spadAt e := by
  have h0 : x.addr vec1.w 0 = A := by rw [hx]; decide +kernel
  have h1 : x.addr vec1.w 1 = A + 1 := by rw [hx]; decide +kernel
  have hw : vec1.w = 8 := rfl
  rcases ha with rfl | rfl <;> interval_cases e
  · exact reachesElem_of (i := 0) (n := 1) (va := A + 0) (by unfold AccessForm.accesses; rw [h0, hu]; rfl) (reaches_spad rfl rfl)
  · exact reachesElem_of (i := 0) (n := 1) (va := A + 1) (by unfold AccessForm.accesses; rw [h1, hu]; rfl) (reaches_spad rfl rfl)
  · exact reachesElem_of (i := 0) (n := 1) (va := A + 0) (by unfold AccessForm.accesses; rw [h0, hu]; rfl) (reaches_spad rfl rfl)
  · exact reachesElem_of (i := 0) (n := 1) (va := A + 1) (by unfold AccessForm.accesses; rw [h1, hu]; rfl) (reaches_spad rfl rfl)

theorem witness_scatter (ordered : Bool) : Memory.wf live.mem = true ∧ storeForm live.cur (if ordered then .vscatO 1 1 2 false 7 0 else .vscat 1 1 2 false 7 0) = some (indexed 0 ordered)
    ∧ live.cur.dataReg (indexed 0 ordered) vec1
    ∧ ∀ e, (indexed 0 ordered).takes live.cur e → live.reachesElem .store False (indexed 0 ordered) vec1.w spadAt e := by
  refine ⟨rfl, ?_, ⟨operands_of_live.1, fun _ => by decide, fun _ => rfl⟩, fun e he => indexed_reached .store (.inl rfl) _ rfl rfl e (isActive_lt he.1)⟩
  cases ordered <;> simp [storeForm, operands_of_live.2.1, indexed]

theorem linked_of_live (m : MReg) : live.cur.linked ⟨1, 1, 2, 7, m⟩ vec1 vec2 :=
  ⟨operands_of_live.1, operands_of_live.2.1, by decide, rfl, rfl⟩

theorem taken_lt {h : Hart} {m : MReg} {e : Nat} (he : e ∈ h.taken m) : e < h.gl.toNat := by
  unfold Hart.taken at he
  simpa using (List.mem_filter.mp he).1

theorem witness_atomics : Memory.wf live.mem = true ∧ live.cur.lane = none ∧ live.cur.linked ⟨1, 1, 2, 7, 0⟩ vec1 vec2 ∧ live.cur.vecCopyOk vec1 ∧ live.steady
    ∧ live.clearStream 7 true ∧ live.cur.taken 0 = [0, 1]
    ∧ (∀ e ∈ live.cur.taken 0, live.reachesElem .rmw False (LinkedForm.access ⟨1, 1, 2, 7, 0⟩ live.cur vec2) vec1.w spadAt e)
    ∧ ∀ i ∈ atomics 1 1 2 false 7 0, atomicAdmits vec1.fmt i = true :=
  ⟨rfl, rfl, linked_of_live 0, copyOk_of_live _, live_steady, rfl, by decide +kernel,
    fun e he => indexed_reached .rmw (.inr rfl) _ rfl rfl e (taken_lt he), by decide⟩

/-- A VSCC whose mask names both elements, of which the lines hold links of the hart. -/
theorem witness_linked : Memory.wf live.mem = true ∧ live.cur.linked ⟨1, 1, 2, 7, 15⟩ vec1 vec2 ∧ live.unstopped ∧ live.cur.noCopy ∧ (15 : MReg) ≠ 0 ∧ live.cur.taken 15 = [0, 1]
    ∧ ∀ e ∈ live.cur.taken 15, live.reachesElem .rmw False (LinkedForm.access ⟨1, 1, 2, 7, 15⟩ live.cur vec2) vec1.w spadAt e :=
  ⟨rfl, linked_of_live 15, live_unstopped, copy_of_live.2.2.1, by decide, by decide +kernel,
    fun e he => indexed_reached .rmw (.inr rfl) _ rfl rfl e (taken_lt he)⟩

/-- Scope 6 is none, 5 and 3 are the widest of two kinds. -/
theorem witness_ordering : live.cur.lane = none ∧ 6 ≤ (6#3).toNat ∧ (5#3).toNat < 6 ∧ live.cur.noCopy ∧ live.cur.sregCopyOk
    ∧ live.clearTransfers 0xFF true ∧ live.clearStream 7 true ∧ live.clearBytes 0x100 8
    ∧ live.probed live.cur.req .load false 0x100 8 = (.ok (.dram 0 0x100 0 false), live)
    ∧ live.probed live.cur.req .store false 0x100 8 = (.ok (.dram 0 0x100 0 false), live)
    ∧ (∃ s2, live.loadAt live.cur.id live.cur.id (.dram 0 0x100 0 false) 8 = (.data 0 0, s2))
    ∧ ∃ s2, live.storeAt live.cur.id (.dram 0 0x100 0 false) 8 (live.cur.rs 1).toNat 7 = (.done, s2) :=
  ⟨rfl, by decide, by decide, copy_of_live.2.2.1, copy_of_live.2.2.2, by unfold State.clearTransfers; decide +kernel, rfl, rfl, rfl, rfl,
    pair_of (by decide +kernel), pair_of (by decide +kernel)⟩

/-- A command in stream 3 holds a FENCE of stream 3 and not one of the others. -/
theorem witness_fence_waits : let s : State := { live with nmcq := [liveCommand] }
    ¬s.clearTransfers 8 false ∧ s.clearTransfers 0xF7 true ∧ ¬s.clearTransfers 0xFF true := by
  unfold State.clearTransfers
  decide +kernel

/-! ### Residency -/

/-- Base and configuration words of a window of 256 bytes at 0x8000 of the scratchpad, over bytes from A + 0x4000 up in one dimension. -/
def kbase : Word := BitVec.ofNat 64 (A + 0x4000)
def kcfg : Word := BitVec.ofNat 64 (2 ^ 51 * 0x80 + 2 ^ 38)

/-- The dimension: stride 1, bound 100, extent 4, origin c0. -/
def kdimA : Word := 0x0000000100000064#64
def kdimB : Word := 0x0004010000000000#64

/-- The register, configuring and then valid with two advances' room. -/
def kconf : KReg := { KReg.launch with base := kbase, cfg := kcfg, phase := .configuring }
def kvalid (inflight : Nat) : KReg :=
  { kconf with cfg := kcfg ||| 0x100, dimA := #v[kdimA, 0, 0, 0], dimB := #v[kdimB, 0, 0, 0], got := 1, phase := .valid
               flights := List.replicate inflight [] }

def kcopy (x : Nat) : WinElem := ⟨1, [x], BitVec.ofNat 64 (x + 3), false, 0, 0, false, .arrived, none⟩

/-- k0 valid with its four elements in the window. -/
def windowed (inflight : Nat) : State := liveWith fun h => { h with k := h.k.set 0 (kvalid inflight), win := (List.range 4).map kcopy }

def kform (first : Bool) : WindowForm := { vd := 1, k := 0, m := 0, index := (windowed 0).cur.offsetOf 0, first }

theorem windowData_of (first : Bool) : (windowed 0).cur.windowData (kform first) vec1 := by
  have o : (windowed 0).cur.vec? 1 = some vec1 ∧ vec1.lengthOk 0 = true := by decide +kernel
  have w : (windowed 0).cur.gl.toNat ≤ 16384 * 1 / 8 ∧ vec1.w = 8 * ((windowed 0).cur.k[(0 : KIdx)]).esz := by decide +kernel
  cases first <;> exact ⟨vec1, o.1, o.2, rfl, w.1, nofun, rfl, rfl, w.2⟩

theorem inWindow_of (first : Bool) : ∀ e, (kform first).takes (windowed 0).cur e → (windowed 0).cur.inWindow (kform first) (fun e => [e]) kcopy e := by
  rintro e ⟨he, -⟩
  have : e < 2 := isActive_lt he
  cases first <;> interval_cases e <;>
    exact ⟨by decide +kernel, by decide +kernel, rfl, rfl⟩

/-- Element 0 is dirty, and the translation of its fetch leads to undamaged main memory. -/
def written : State :=
  liveWith fun h => { h with
    k := h.k.set 0 (kvalid 0)
    win := { kcopy 0 with dirty := true, held := some ⟨0x28, 0x40, .dram 0 0x40 0 false⟩ } :: [kcopy 1, kcopy 2, kcopy 3] }

theorem dirty_of_written {x : List Nat} {e : WinElem} (h : written.cur.dirtyAlone 0 x e) : x = [0] ∧ e = written.cur.win.head (by decide) := by
  obtain ⟨hx, he, hd, -⟩ := h
  rw [show ((written.cur.k[(0 : KIdx)]).box written.cur.c).coords = [[0], [1], [2], [3]] by decide +kernel] at hx
  simp only [List.mem_cons, List.not_mem_nil, or_false] at hx
  have all : ∀ i < 4, written.cur.copy? written.cur.k[(0 : KIdx)] [i] = written.cur.win[i]? := by decide +kernel
  rcases hx with rfl | rfl | rfl | rfl <;> rw [all _ (by decide)] at he <;> cases he
  · exact ⟨rfl, rfl⟩
  all_goals exact absurd hd (by decide)

theorem witness_write_back : (written.cur.k[(0 : KIdx)]).phase = .valid ∧ Memory.wf written.mem = true ∧ written.WritesBack 0 (fun _ => 0x40)
    ∧ (∀ j : KIdx, j ≠ 0 → (written.cur.k[j]).phase ≠ .valid) ∧ written.cur.dirtyAlone 0 [0] (written.cur.win.head (by decide)) := by
  refine ⟨rfl, rfl, ?_, by decide +kernel, by decide +kernel, by decide +kernel, rfl, rfl⟩
  intro x e h
  obtain ⟨rfl, rfl⟩ := dirty_of_written h
  refine ⟨⟨⟨0x28, 0x40, .dram 0 0x40 0 false⟩, 0, 0, false, rfl, rfl, rfl, fun _ => rfl, rfl, by decide +kernel, rfl, by decide, rfl⟩, ?_⟩
  intro y f hf hy
  exact absurd (dirty_of_written hf).1 hy

theorem witness_window_loads : windowLoadForm (windowed 0).cur (.vldk 1 0 0 0 0) = some (kform false) ∧ (windowed 0).cur.lane = none
    ∧ (windowed 0).cur.windowData (kform false) vec1 ∧ (windowed 0).cur.vecCopyOk vec1 ∧ (windowed 0).unstopped
    ∧ ∀ e, (kform false).takes (windowed 0).cur e → (windowed 0).cur.inWindow (kform false) (fun e => [e]) kcopy e ∧ (kcopy e).cls < 3 :=
  ⟨rfl, rfl, windowData_of false, fun h => absurd h (by decide +kernel), ⟨.inl rfl, nofun⟩, fun e h => ⟨inWindow_of false e h, by show 0 < 3; decide⟩⟩

theorem witness_window_stores : windowStoreForm (windowed 0).cur (.vstk 1 0 0 false 0 0) = some (kform false)
    ∧ (windowed 0).cur.noCopy ∧ (windowed 0).unstopped
    ∧ ∀ e, (kform false).takes (windowed 0).cur e → (windowed 0).cur.inWindow (kform false) (fun e => [e]) kcopy e :=
  ⟨rfl, fun h => absurd h (by decide +kernel), ⟨.inl rfl, nofun⟩, inWindow_of false⟩

/-- From index 3 up, the second element is the first past the set: VLDKF trims to the first, VLDK traps. -/
def kedge (first : Bool) : WindowForm := { vd := 1, k := 0, m := 0, index := (windowed 0).cur.offsetOf 6, first }

theorem witness_window_edge : windowLoadForm (windowed 0).cur (.vldkf 1 0 6 0 0) = some (kedge true) ∧ windowLoadForm (windowed 0).cur (.vldk 1 0 6 0 0) = some (kedge false)
    ∧ (∀ b, (kedge b).takes (windowed 0).cur 0 ∧ (kedge b).takes (windowed 0).cur 1)
    ∧ ((windowed 0).cur.k[(0 : KIdx)]).locate (windowed 0).cur.c ((kedge false).index 0) = some [3]
    ∧ ((windowed 0).cur.k[(0 : KIdx)]).locate (windowed 0).cur.c ((kedge false).index 1) = none
    ∧ ∀ j < 1, (kedge false).takes (windowed 0).cur j → ((windowed 0).cur.k[(0 : KIdx)]).locate (windowed 0).cur.c ((kedge false).index j) ≠ none := by
  refine ⟨rfl, rfl, fun b => by cases b <;> exact ⟨⟨by decide +kernel, by decide⟩, by decide +kernel, by decide⟩, by decide +kernel, by decide +kernel, ?_⟩
  intro j hj _
  interval_cases j
  decide +kernel

/-- s10 and s11 with the words of KSET or KDIM, k0 in a phase. -/
def configuring (a b : Word) (k : KReg) : State := liveWith fun h => { h with s := (h.s.set 10 a).set 11 b, k := h.k.set 0 k }

theorem witness_kset : (configuring kbase kcfg .launch).mayResidency ∧ (10 : SReg).val ≤ 30 ∧ (configuring kbase kcfg .launch).cur.rs 10 = kbase
    ∧ (configuring kbase kcfg .launch).cur.rs (10 + 1) = kcfg ∧ (configuring kbase kcfg .launch).ksetOk 0 kbase kcfg
    ∧ (configuring kbase kcfg .launch).mayRelease 0 ∧ ¬(configuring kbase 0 .launch).ksetOk 0 kbase 0 := by
  refine ⟨⟨rfl, fun h => absurd h (by decide +kernel), rfl⟩, by decide, by decide +kernel, by decide +kernel, ?_, nofun, ?_⟩
  · unfold State.ksetOk; decide +kernel
  · unfold State.ksetOk; decide +kernel

theorem witness_kset_waits : ((windowed 1).cur.k[(0 : KIdx)]).phase = .valid ∧ ((windowed 1).cur.k[(0 : KIdx)]).inflight ≠ 0
    ∧ (windowed 1).mayResidency ∧ (windowed 1).ksetOk 0 kbase kcfg := by
  refine ⟨rfl, by decide +kernel, ⟨rfl, fun h => absurd h (by decide +kernel), rfl⟩, ?_⟩
  unfold State.ksetOk; decide +kernel

theorem witness_release : (windowed 0).mayRelease 0 ∧ (windowed 0).mayResidency ∧ ((windowed 0).cur.k[(0 : KIdx)]).phase = .valid := by
  refine ⟨fun _ => ⟨rfl, rfl, ?_⟩, ⟨rfl, fun h => absurd h (by decide +kernel), rfl⟩, rfl⟩
  intro x _ e _ _
  rfl

/-- The last dimension is given: four elements are fetched. -/
def lastDim : State := configuring kdimA kdimB kconf

theorem witness_kdim : lastDim.mayResidency ∧ (lastDim.cur.k[(0 : KIdx)]).phase = .configuring ∧ (0#2).toNat ≤ (lastDim.cur.k[(0 : KIdx)]).ndim
    ∧ lastDim.cur.rs 10 = kdimA ∧ lastDim.cur.rs (10 + 1) = kdimB ∧ kdimB.extractLsb' 48 16 ≠ 0 ∧ kdimB.extractLsb' 24 2 = 0
    ∧ (let r := (lastDim.cur.k[(0 : KIdx)]).withDim (0#2).toFin kdimA kdimB
      3 * r.extents r.got * r.esz ≤ r.window.2 ∧ lastDim.clearStream r.strm false ∧ (∀ d ∈ r.dims, r.got.getLsbD d.val = true)
      ∧ ((r.box lastDim.cur.c).coords = [[0], [1], [2], [3]])
      ∧ ∀ x ∈ (r.box lastDim.cur.c).coords, lastDim.reaches .load False (r.address x) r.esz (spadAt (r.address x))) := by
  refine ⟨⟨rfl, fun h => absurd h (by decide +kernel), rfl⟩, by decide +kernel, by decide +kernel, by decide +kernel, by decide +kernel, by decide, by decide, ?_⟩
  dsimp only
  refine ⟨by decide +kernel, by unfold State.clearStream; decide +kernel, by decide +kernel, by decide +kernel, ?_⟩
  rw [show (((lastDim.cur.k[(0 : KIdx)]).withDim (0#2).toFin kdimA kdimB).box lastDim.cur.c).coords = [[0], [1], [2], [3]] by decide +kernel]
  rw [show ((lastDim.cur.k[(0 : KIdx)]).withDim (0#2).toFin kdimA kdimB).esz = 1 by decide +kernel]
  simp only [List.mem_cons, List.not_mem_nil, or_false, forall_eq_or_imp, forall_eq]
  have at' : ∀ x < 4, ((lastDim.cur.k[(0 : KIdx)]).withDim (0#2).toFin kdimA kdimB).address [x] = A + (0x4000 + x) := by decide +kernel
  rw [at' 0 (by decide), at' 1 (by decide), at' 2 (by decide), at' 3 (by decide)]
  refine ⟨?_, ?_, ?_, ?_⟩ <;>
    exact ⟨rfl, _, Prod.ext (by decide +kernel) rfl, ⟨fun _ _ _ => rfl, fun b h h' => by obtain rfl : b = _ := Nat.le_antisymm (Nat.le_of_lt_succ h') h; decide +kernel, nofun⟩, rfl, fun _ => rfl⟩

theorem witness_residency_words : (10#4).toNat < 11 ∧ 11 ≤ (11#4).toNat ∧ live.cur.parent = none ∧ live.cur.sregCopyOk
    ∧ ((windowed 1).cur.k[(0 : KIdx)]).inflight ≠ 0 ∧ joining.cur.parent ≠ none ∧ joining.cur.noCopy :=
  ⟨by decide, by decide, rfl, copy_of_live.2.2.2, by decide +kernel, nofun, fun h => absurd h (by decide)⟩

theorem witness_advance_idle : live.cur.lane = none ∧ live.cur.noCopy ∧ ∀ k, ¬live.cur.touches 1 k := by
  refine ⟨rfl, copy_of_live.2.2.1, ?_⟩
  unfold Hart.touches
  decide +kernel

/-- Counters c0 after KADV c0, 1. -/
def advanced : Vector (BitVec 32) 8 := Vector.ofFn fun j => if j = 0 then live.cur.c[j] + (1#11).signExtend 32 else live.cur.c[j]

theorem touched (n : Nat) (k : KIdx) (h : (windowed n).cur.touches 1 k) : k = 0 := by
  by_contra hk
  have : (windowed n).cur.k[k] = KReg.launch := by
    fin_cases k <;> first | exact absurd rfl hk | rfl
  unfold Hart.touches at h
  rw [this] at h
  exact absurd h.1 (by decide)

theorem witness_advance_full : (windowed 2).cur.touches 1 0 ∧ 2 ≤ ((windowed 2).cur.k[(0 : KIdx)]).inflight
    ∧ ∀ k, (windowed 2).cur.touches 1 k → (windowed 2).cleared (windowed 2).cur (.ahead ((windowed 2).cur.k[k]).strm true) = true := by
  refine ⟨⟨rfl, by decide +kernel⟩, by decide +kernel, ?_⟩
  intro k hk
  rw [touched 2 k hk]
  rfl

theorem witness_advance : (∀ k, (windowed 1).cur.touches 1 k →
      (windowed 1).cleared (windowed 1).cur (.ahead ((windowed 1).cur.k[k]).strm true) = true ∧ ((windowed 1).cur.k[k]).inflight < 2)
    ∧ (∀ k, (windowed 1).cur.touches 1 k → boxElements (diff (((windowed 1).cur.k[k]).box advanced) (((windowed 1).cur.k[k]).box (windowed 1).cur.c)) = [[4]]
      ∧ ∀ x ∈ boxElements (diff (((windowed 1).cur.k[k]).box advanced) (((windowed 1).cur.k[k]).box (windowed 1).cur.c)),
        (windowed 1).reaches .load False (((windowed 1).cur.k[k]).address x) ((windowed 1).cur.k[k]).esz (spadAt (((windowed 1).cur.k[k]).address x)))
    ∧ ∀ e ∈ (windowed 1).cur.win, e.dirty = false ∧ e.arrival = .arrived := by
  refine ⟨?_, ?_, by decide +kernel⟩
  · intro k hk
    rw [touched 1 k hk]
    exact ⟨rfl, by decide +kernel⟩
  · intro k hk
    rw [touched 1 k hk, show boxElements (diff (((windowed 1).cur.k[(0 : KIdx)]).box advanced) (((windowed 1).cur.k[(0 : KIdx)]).box (windowed 1).cur.c)) = [[4]] by decide +kernel]
    refine ⟨rfl, ?_⟩
    simp only [List.mem_cons, List.not_mem_nil, or_false, forall_eq]
    rw [show ((windowed 1).cur.k[(0 : KIdx)]).address [4] = A + 0x4004 by decide +kernel, show ((windowed 1).cur.k[(0 : KIdx)]).esz = 1 by decide +kernel]
    exact ⟨rfl, _, Prod.ext (by decide +kernel) rfl, ⟨fun _ _ _ => rfl, fun b h h' => by obtain rfl : b = _ := Nat.le_antisymm (Nat.le_of_lt_succ h') h; decide +kernel, nofun⟩, rfl, fun _ => rfl⟩

/-! ### Tiles, sparse groups and the transform unit -/

/-- The matrix queue of core 0 is full. -/
def fullQueue : State := { live with mxq := List.replicate 64 ⟨live.cur.id, 0, .zero, 0⟩ }

theorem witness_matrix_posts : live.cur.mayMatrix 0 ∧ live.mayPost ∧ live.cur.noCopy ∧ live.cur.gl ≠ 0 ∧ live.cur.mopOperands 3 3 vec3 vec3
    ∧ (liveWith fun h => { h with gl := 128 }).cur.mayMatrix 0 ∧ (liveWith fun h => { h with gl := 0 }).cur.mayMatrix 0 ∧ fullQueue.cur.mayMatrix 0 ∧ ¬fullQueue.mayPost := by
  refine ⟨⟨rfl, by decide, by decide⟩, rfl, copy_of_live.2.2.1, by decide, ⟨operands_of_live.2.2, operands_of_live.2.2, rfl, rfl, rfl, rfl, rfl, rfl⟩,
    ⟨rfl, by decide, by decide⟩, ⟨rfl, by decide, by decide⟩, ⟨rfl, by decide, by decide⟩, by unfold State.mayPost; decide +kernel⟩

/-- A sparse source of rows. -/
def vec5 : Vec := ⟨5, 1, .uint 8, true, 2, none, 0x0002000001000005, 7 + 2 ^ 32 * 9 + 2 ^ 8192 * 0x0403⟩

theorem witness_mopk : vec3.sparse = false ∧ (windowed 0).cur.parent = none ∧ ((windowed 0).cur.k[(0 : KIdx)]).phase = .valid
    ∧ ((windowed 0).cur.k[(0 : KIdx)]).esz ≤ 2 ∧ (windowed 0).cur.mayMatrix 0 ∧ (windowed 0).mayPost ∧ (windowed 0).cur.mopOperands 3 3 vec3 vec3
    ∧ (∀ e ∈ (windowed 0).cur.actives 0, ((windowed 0).cur.k[(0 : KIdx)]).locate (windowed 0).cur.c e = some [e]
      ∧ (windowed 0).cur.copy? (windowed 0).cur.k[(0 : KIdx)] [e] = some (kcopy e) ∧ (kcopy e).cls < 3
      ∧ (kcopy e).stale = false ∧ (kcopy e).arrival = .arrived) := by
  refine ⟨rfl, rfl, rfl, by decide +kernel, ⟨rfl, by decide, by decide⟩, rfl,
    ⟨show live.cur.operand? 3 = _ from operands_of_live.2.2, show live.cur.operand? 3 = _ from operands_of_live.2.2, rfl, rfl, rfl, rfl, rfl, rfl⟩, ?_⟩
  rw [show (windowed 0).cur.actives 0 = [0, 1] by decide +kernel]
  intro e he
  simp only [List.mem_cons, List.not_mem_nil, or_false] at he
  rcases he with rfl | rfl <;> exact ⟨by decide +kernel, by decide +kernel, (by decide : 0 < 3), rfl, rfl⟩

/-- What a posted move of v3 has captured. -/
def captured : Moved := ⟨0, 0xF, live.cur.f⟩

/-- The queue holds an entry of the hart alone. -/
def posting (op : MxOp) : State := { live with mxq := [⟨live.cur.id, 0, op, 0⟩] }

theorem witness_tile_moves : live.cur.operand? 3 = some vec3 ∧ vec3.mopSource = true ∧ vec3.scaleOk live.cur.gl.toNat = true ∧ (live.cur.rs 6).toNat < 32
    ∧ vec3.floatDest? = some fp32 ∧ live.cur.vecCopyOk vec3 ∧ (∀ row, (posting (.move row 3 3 [0, 1] 0 captured)).oldestEntry 0 (.move row 3 3 [0, 1] 0 captured))
    ∧ ({ live.cur with tag := live.cur.tag.set 3 captured.tag, f := captured.f } : Hart).vec? 3 = some vec3
    ∧ (posting (.check 1 3)).oldestEntry 0 (.check 1 3) :=
  ⟨operands_of_live.2.2, rfl, rfl, by decide, by decide +kernel, copyOk_of_live _, fun row => by cases row <;> rfl, by decide +kernel, rfl⟩

theorem witness_matrix_reserved : live.cur.tiles ≤ (1 : TReg).val ∧ 128 < (liveWith fun h => { h with gl := 129 }).cur.gl.toNat := by decide

theorem sparse_of_live : live.cur.operand? 5 = some vec5 ∧ live.cur.operand? 9 = some { vec5 with reg := 9, slen := 0, tag := 0x0000000001000005, bits := 0 } := by
  decide +kernel

theorem witness_merges : mergeForm (.spadd 5 5 9) = some (5, 5, 9, false, false) ∧ live.cur.mergeOperands 5 5 9 vec5 vec5 { vec5 with reg := 9, slen := 0, tag := 0x0000000001000005, bits := 0 }
    ∧ vec5.ascending ∧ ({ vec5 with reg := 9, slen := 0, tag := 0x0000000001000005, bits := 0 } : Vec).ascending ∧ live.steady := by
  refine ⟨rfl, ⟨sparse_of_live.1, sparse_of_live.1, sparse_of_live.2, rfl, rfl, rfl, rfl, .inr ⟨rfl, rfl, rfl⟩⟩, ?_, ?_, live_steady⟩
  · intro p q hpq hq
    have hq' : q < 2 := hq
    obtain rfl : q = 1 := by omega
    obtain rfl : p = 0 := by omega
    decide +kernel
  · intro p q _ hq
    exact absurd hq (Nat.not_lt_zero _)

/-- v12 holds 129 pairs; v13, of 64 bits, has room for 128. -/
def manyPairs : Nat := ((List.range 129).map fun p => p * 2 ^ (32 * p)).sum
def crowdedPairs : State := liveWith fun h => { h with v := h.v.set 12 (BitVec.ofNat 16384 manyPairs), tag := (h.tag.set 12 0x0081000001000005).set 13 0x000000000100000B }
def vec12 : Vec := ⟨12, 1, .uint 8, true, 129, none, 0x0081000001000005, manyPairs⟩
def vec13 : Vec := ⟨13, 1, .uint 64, true, 0, none, 0x000000000100000B, 0⟩

theorem witness_merge_overflow : crowdedPairs.cur.mergeOperands 13 12 12 vec13 vec12 vec12 ∧ vec12.ascending
    ∧ ∀ cs : List Nat, (∀ c, c ∈ cs ↔ (vec12.pairAt c).isSome ∨ (vec12.pairAt c).isSome) → vec13.pairs < cs.length := by
  refine ⟨⟨by decide +kernel, by decide +kernel, by decide +kernel, rfl, rfl, rfl, rfl, .inr ⟨rfl, rfl, rfl⟩⟩, ?_, ?_⟩
  · have all : ∀ q < 129, vec12.coord q = q := by decide +kernel
    intro p q hpq hq
    have hq' : q < 129 := hq
    rw [all p (by omega), all q hq']
    exact hpq
  · intro cs h
    have all : ∀ c < 129, (vec12.pairAt c).isSome = true := by decide +kernel
    have sub : (List.range 129) ⊆ cs := fun c hc => (h c).mpr (.inl (all c (List.mem_range.mp hc)))
    have := (List.nodup_range.subperm sub).length_le
    rw [List.length_range] at this
    show 128 < cs.length
    omega

/-- Three hundred nonzero elements are more than a group's 256 pairs. -/
def filled : State := liveWith fun h => { h with gl := 300, m := Vector.replicate 16 (BitVec.allOnes 16384), v := h.v.set 1 (BitVec.allOnes 16384) }

theorem witness_packs : vec5.scale = none ∧ vec1.w = vec5.w ∧ vec5.sparse = true ∧ vec1.sparse = false ∧ vec1.scale = none
    ∧ (((live.cur.actives 0).filter fun e => vec1.fmt.countsNonzero (vec1.elem e)).map fun e => (e, vec1.elem e)).length ≤ vec5.pairs
    ∧ filled.cur.operand? 5 = some vec5 ∧ filled.cur.operand? 1 = some { vec1 with bits := 2 ^ 16384 - 1 }
    ∧ vec5.pairs < ((filled.cur.actives 0).filter fun e => vec1.fmt.countsNonzero (({ vec1 with bits := 2 ^ 16384 - 1 } : Vec).elem e)).length
    ∧ (live.cur.rs 2).toNat ≤ vec5.pairs ∧ vec5.pairs < (live.cur.rs 4).toNat := by decide +kernel

theorem witness_prune : vec3.scale = none ∧ vec3.floatDest? = some fp32 ∧ (∃ x e, fp32.decode ((live.cur.rs 1).toNat % 2 ^ 32) = .fin false x e ∧ x ≠ 0)
    ∧ ¬∃ x e, fp32.decode ((live.cur.rs 5).toNat % 2 ^ 32) = .fin false x e ∧ x ≠ 0 := by
  refine ⟨rfl, by decide +kernel, ⟨5, -149, by decide +kernel, by decide⟩, ?_⟩
  rintro ⟨x, e, h, hx⟩
  rw [show fp32.decode ((live.cur.rs 5).toNat % 2 ^ 32) = .fin false 0 (-149) by decide +kernel] at h
  cases h
  exact hx rfl

/-- No element is active, by GL or by the masks. -/
def resting (gl : BitVec 15) : State := liveWith fun h => { h with gl, m := Vector.replicate 16 0 }

theorem witness_transform_idle : (resting 0).cur.packed? 1 = some vec1 ∧ (resting 0).cur.erix.toNat % (128 / vec1.w) = 0 ∧ (resting 0).cur.actives 1 = []
    ∧ (resting 2).cur.packed? 1 = some vec1 ∧ (resting 2).cur.erix.toNat % (128 / vec1.w) = 0 ∧ (resting 2).cur.actives 1 = [] :=
  ⟨by decide +kernel, rfl, by decide +kernel, by decide +kernel, rfl, by decide +kernel⟩

/-- Elements 1 and 2 are the block of header 1, two bits each, and the byte 1 + 4 · 2. -/
theorem isBlock_of_live : IsBlock false 8 [1, 2] [1, 9] := by
  unfold IsBlock
  rw [if_neg (by decide)]
  refine ⟨2, by decide, by decide, by decide, ?_, by decide, by decide, by decide⟩
  intro n h h'
  obtain rfl : n = 1 := by omega
  decide

theorem packs_of_live : live.cur.Packs vec1 0 [[1, 9]] := by
  refine ⟨by decide +kernel, ?_⟩
  intro b hb
  obtain rfl : b = 0 := Nat.lt_one_iff.mp hb
  have : ((blockElements (128 / vec1.w) live.cur.gl.toNat 0).map fun e => if live.cur.maskBit 0 e then vec1.elem e else 0) = [1, 2] := by decide +kernel
  rw [this]
  exact isBlock_of_live

theorem witness_pack : Memory.wf live.mem = true ∧ live.cur.packed? 1 = some vec1 ∧ live.cur.erix.toNat % (128 / vec1.w) = 0 ∧ live.cur.actives 0 ≠ [] ∧ live.clearStream 7 true
    ∧ live.cur.Packs vec1 0 [[1, 9]]
    ∧ (∀ i < [[1, 9]].flatten.length, live.reaches .store False (((live.cur.a[(1 : AReg)]).toNat + i) % 2 ^ 64) 1 (spadKey 0 i))
    ∧ ∀ i j, i < j → j < [[1, 9]].flatten.length → spadKey 0 i ≠ spadKey 0 j := by
  refine ⟨rfl, by decide +kernel, by decide, by decide +kernel, rfl, packs_of_live, ?_, ?_⟩
  · intro i hi
    have : i < 2 := hi
    interval_cases i
    · exact reaches_spad (off := 0) rfl rfl
    · exact reaches_spad (off := 1) rfl rfl
  · intro i j h h'
    obtain rfl : j = 1 := by simp at h'; omega
    obtain rfl : i = 0 := by omega
    decide

/-- The two bytes of the block in the scratchpad. -/
def packed : State := { live with mem := [(spadKey 0 0, 1), (spadKey 0 1, 9)] }

theorem reaches_packed {a : Acc} {ahead : Prop} {off n : Nat} (hc : packed.clearBytes (A + off) n)
    (hp : packed.probe packed.cur.req a false (A + off) n = (.ok (.spad 0 off), packed)) : packed.reaches a ahead (A + off) n (spadAt (A + off)) :=
  ⟨hc, _, hp, ⟨fun _ _ _ => rfl, fun _ _ _ => rfl, nofun⟩, by unfold spadAt; rw [Nat.add_sub_cancel_left]; rfl, fun _ => rfl⟩

theorem witness_unpack : Memory.wf packed.mem = true ∧ packed.cur.packed? 1 = some vec1 ∧ packed.cur.actives 0 ≠ [] ∧ packed.cur.vecCopyOk vec1 ∧ packed.clearStream 7 false
    ∧ [[1, 9]].length = (packed.cur.gl.toNat + 15) / 16 ∧ (0 < 3 ∧ 1 ≤ 2 ∧ 2 ≤ vec1.w ∧ [1, 9].headD 0 = 0 * 64 + (2 - 1) ∧ ∀ x ∈ [1, 9], x < 256)
    ∧ [1, 9].length = 1 + ((blockElements 16 packed.cur.gl.toNat 0).length * 2 + 7) / 8
    ∧ packed.reachesBytes .load (packed.cur.a[(1 : AReg)]).toNat 2 (spadKey 0) ∧ ∀ i < 2, (Memory.read packed.mem (spadKey 0 i)).toNat = [1, 9].getD i 0 := by
  refine ⟨by decide +kernel, by decide +kernel, by decide +kernel, fun h => absurd h (by decide), rfl, by decide, by decide, by decide +kernel, ?_, by decide +kernel⟩
  intro i hi
  interval_cases i
  · exact reaches_packed (off := 0) rfl rfl
  · exact reaches_packed (off := 1) rfl rfl

/-- XEFST of v3: FP32 from a1 up, the residues as FP16 from s3 up. -/
def primary : AccessForm := { vd := 3, m := 0, stream := 7, addr := unitStride (live.cur.a[(1 : AReg)]).toNat }
def secondary : AccessForm := { vd := 3, m := 0, stream := 7, addr := unitStride (live.cur.rs 3).toNat }

theorem witness_feedback : Memory.wf live.mem = true ∧ (3 : SReg).val ≤ 30 ∧ live.cur.floatOperand? 3 = some vec3 ∧ vec3.sparse = false ∧ live.cur.rs (3 + 1) = 0x0D0F
    ∧ 0x0D0F &&& ~~~0x1F1F#64 = 0 ∧ live.cur.feedback? 0xF = some fp32 ∧ live.cur.feedback? 0xD = some fp16 ∧ live.cur.taken 0 = [0, 1]
    ∧ ∀ e ∈ live.cur.taken 0, live.reachesElem .store False primary fp32.width spadAt e ∧ live.reachesElem .store False secondary fp16.width spadAt e := by
  refine ⟨rfl, by decide, by decide +kernel, rfl, by decide, by decide, by decide +kernel, by decide +kernel, by decide +kernel, ?_⟩
  intro e he
  have := taken_lt he
  have : e < 2 := this
  interval_cases e
  · exact ⟨reachesElem_of (i := 0) (va := A + 0) (n := 4) (by decide +kernel) (reaches_spad rfl rfl),
      reachesElem_of (i := 0) (va := A + 0x800) (n := 2) (by decide +kernel) (reaches_spad rfl rfl)⟩
  · exact ⟨reachesElem_of (i := 0) (va := A + 4) (n := 4) (by decide +kernel) (reaches_spad rfl rfl),
      reachesElem_of (i := 0) (va := A + 0x802) (n := 2) (by decide +kernel) (reaches_spad rfl rfl)⟩

/-! ### Engine commands and the Burl -/

/-- v14 holds a command block. -/
def commanding (block : Nat) : State := liveWith fun h => { h with v := h.v.set 14 (BitVec.ofNat 16384 block) }

/-- IADD of UINT64 from the operand at A + 0x100, and SCRUB with its map at A + 0x100. -/
def iaddBlock : Nat := 5 + 2 ^ 16 * 0xB + 2 ^ 64 * (A + 0x100)
def scrubBlock : Nat := 6 + 2 ^ 16 * 5 + 2 ^ 64 * (A + 0x100)

theorem reaches_commanding {x : Nat} {a : Acc} {ahead : Prop} {off n : Nat} (hc : (commanding x).clearBytes (A + off) n)
    (hp : (commanding x).probe (commanding x).cur.req a false (A + off) n = (.ok (.spad 0 off), commanding x)) :
    (commanding x).reaches a ahead (A + off) n (spadAt (A + off)) :=
  ⟨hc, _, hp, ⟨fun _ _ _ => rfl, fun b _ _ => (rfl : live.windowAt 0 b = false), nofun⟩, by unfold spadAt; rw [Nat.add_sub_cancel_left]; rfl, fun _ => rfl⟩

theorem witness_nmc : let s := commanding iaddBlock
    let b : BitVec 256 := s.cur.v[(14 : VReg)].extractLsb' 0 256
    Memory.wf s.mem = true ∧ s.cur.lane = none ∧ s.cur.noCopy ∧ (∀ r ∈ [(8, 8), (21, 3), (27, 37), (192, 64)], b.extractLsb' r.1 r.2 = 0)
    ∧ (∀ r ∈ [(0, 8, 5), (16, 5, 0xB), (24, 3, 0), (64, 64, A + 0x100)], (b.extractLsb' r.1 r.2.1).toNat = r.2.2)
    ∧ (s.cur.rs 3).toNat = A + 0x800 ∧ (s.cur.rs 3).toNat % 8 = 0 ∧ fmtOf s.cur.f 0xB = some (.uint 64) ∧ nmcFmtOk 5 0xB (.uint 64) = true
    ∧ nmcFmtOk 5 5 (.uint 8) = false ∧ fmtOf s.cur.f 0x12 = none ∧ s.cur.taken 0 = [0, 1] ∧ s.clearStream 7 true
    ∧ (∀ e ∈ s.cur.taken 0, s.reaches .rmw False ((A + e * 8) % 2 ^ 64) 8 (spadAt ((A + e * 8) % 2 ^ 64))
      ∧ s.reaches .operand False ((A + 0x100 + e * 8) % 2 ^ 64) 8 (spadAt ((A + 0x100 + e * 8) % 2 ^ 64)))
    ∧ s.reaches .store False (A + 0x800) 8 (spadAt (A + 0x800)) := by
  dsimp only
  refine ⟨rfl, rfl, fun h => absurd h (by decide), by decide +kernel, by decide +kernel, by decide +kernel, by decide, by decide +kernel, by decide, by decide, by decide +kernel,
    by decide +kernel, rfl, ?_,
    reaches_commanding rfl rfl⟩
  rw [show (commanding iaddBlock).cur.taken 0 = [0, 1] by decide +kernel]
  simp only [List.mem_cons, List.not_mem_nil, or_false, forall_eq_or_imp, forall_eq]
  exact ⟨⟨reaches_commanding (off := 0) rfl rfl, reaches_commanding (off := 0x100) rfl rfl⟩,
    ⟨reaches_commanding (off := 8) rfl rfl, reaches_commanding (off := 0x108) rfl rfl⟩⟩

theorem witness_nmc_idle : (resting 0).cur.taken 1 = [] ∧ (resting 2).cur.taken 1 = [] ∧ nmcFmtOk 6 5 (.uint 8) = true
    ∧ ∀ i < ((A + (2 - 1) * 1) / 64 + 1 - A / 64 + 7) / 8, (commanding scrubBlock).reaches .map False ((A + 0x100 + i) % 2 ^ 64) 1 (spadAt ((A + 0x100 + i) % 2 ^ 64)) := by
  refine ⟨by decide +kernel, by decide +kernel, by decide, ?_⟩
  intro i hi
  obtain rfl : i = 0 := by
    rw [show ((A + (2 - 1) * 1) / 64 + 1 - A / 64 + 7) / 8 = 1 by decide] at hi
    exact Nat.lt_one_iff.mp hi
  exact reaches_commanding (off := 0x100) rfl rfl

/-- ALLRED, sum, of two bytes by group 1, whose only device is this one, with one rank. -/
def collBlock : Nat := 1 + 2 ^ 16 * 5 + 2 ^ 32 * 1 + 2 ^ 64 * 2
def grouped (gl : BitVec 15) : State :=
  { commanding collBlock with link := { live.link with groups := [(2, BitVec.ofNat 64 (2 ^ 63 + 2 ^ 16))] }, cur := { (commanding collBlock).cur with gl } }

/-- The state once the member list, of zeros at address 0, has been read. -/
def listed (gl : BitVec 15) : State := ((grouped gl).memberOf (grouped gl).cur.req 1).2

theorem reaches_listed {a : Acc} {ahead : Prop} {off n : Nat} (hc : (listed 2).clearBytes (A + off) n)
    (hp : (listed 2).probe (listed 2).cur.req a false (A + off) n = (.ok (.spad 0 off), listed 2)) : (listed 2).reaches a ahead (A + off) n (spadAt (A + off)) :=
  ⟨hc, _, hp, ⟨fun _ _ _ => rfl, fun b _ _ => (rfl : live.windowAt 0 b = false), nofun⟩, by unfold spadAt; rw [Nat.add_sub_cancel_left]; rfl, fun _ => rfl⟩

theorem block_of_grouped (gl : BitVec 15) : ((grouped gl).cur.v[(14 : VReg)].extractLsb' 0 256).toNat = collBlock :=
  (by decide +kernel : ((commanding collBlock).cur.v[(14 : VReg)].extractLsb' 0 256).toNat = collBlock)

theorem witness_coll (gl : BitVec 15) (h : gl = 0 ∨ gl = 2) : let s := grouped gl
    collBlockOk collBlock = true ∧ fld collBlock 47 32 = 1 ∧ bitOf (s.group0 1) 63 = true ∧ fld (s.group0 1) 50 48 = s.cur.part.val
    ∧ s.cur.parent = none ∧ s.cur.gang.isSome = true ∧ s.cur.index < s.groupHpd 1 ∧ s.groupHpd 1 ≤ 384 ∧ fld collBlock 7 0 ≠ 4
    ∧ s.memberOf s.cur.req 1 = (.ok (some 0), listed gl)
    ∧ collFmt? collBlock = some (.uint 8) ∧ (listed gl).clearStream 7 true ∧ collElems collBlock ((listed gl).groupRanks 1) = 2 := by
  rcases h with rfl | rfl
  all_goals refine ⟨by decide, by decide, by decide +kernel, ?_, rfl, rfl, ?_, ?_, by decide, Prod.ext ?_ rfl, by decide, ?_, ?_⟩
  all_goals first | decide +kernel | (unfold State.clearStream; decide +kernel)

theorem witness_coll_joins : (grouped 2).cur.gl ≠ 0
    ∧ (∀ p ∈ bufferPieces 8 A 0 2, (listed 2).reaches .load False p.va p.n (spadAt p.va) ∧ (listed 2).reaches .store False p.va p.n (spadAt p.va))
    ∧ (listed 2).reaches .store False (A + 0x800) 8 (spadAt (A + 0x800)) := by
  refine ⟨by decide, ?_, reaches_listed rfl rfl⟩
  rw [show bufferPieces 8 A 0 2 = [{ elem := 0, va := A, n := 1 }, { elem := 1, va := A + 1, n := 1 }] by decide +kernel]
  simp only [List.mem_cons, List.not_mem_nil, or_false, forall_eq_or_imp, forall_eq]
  exact ⟨⟨reaches_listed (off := 0) rfl rfl, reaches_listed (off := 0) rfl rfl⟩, ⟨reaches_listed (off := 1) rfl rfl, reaches_listed (off := 1) rfl rfl⟩⟩

/-- A list whose one member is another device. -/
theorem witness_coll_stranger : ∃ s1, ({ grouped 2 with link := { (grouped 2).link with domctl := 1 } } : State).memberOf (grouped 2).cur.req 1 = (.ok none, s1) :=
  pair_of (by decide +kernel)

/-- A region of 4,096 bytes at the start of the scratchpad: keys UINT8, values UINT64, the value 5 for the key 1. -/
def region : Region :=
  let r : Region := ⟨0, 1, 0, 12, none, 0, 0, 0, 5, 0xB, 0, 0, [], 1⟩
  r.putSlot (8 * (r.hash 1).1 + (r.hash 1).2) (some (1, 5))

/-- h0 attached to it; the words of a claim from s12 up. -/
def attached (cfg cap : Word) (r : Region) : State :=
  { liveWith fun h => { h with h := h.h.set 0 r.handle, s := (h.s.set 13 cfg).set 14 cap } with regions := [r] }

/-- 2^12 bytes, formats 5 and 0xB, and the same named 9. -/
def claimWord : Word := 0x00000000000B050C
def namedWord : Word := 0x00098000000B050C
def plainClaim : Claim := ⟨12, none, 0, 0, 5, 0xB, 0⟩

/-- The named region, and one that leaves no room. -/
def named : Region := { region with name := some 9 }
def whole : Region := { region with log2 := 19 }

theorem witness_claims : handleValid live.cur.h[(0 : HReg)] = false ∧ (12 : SReg).val ≤ 29 ∧ handleValid (attached 0 0 region).cur.h[(0 : HReg)] = true
    ∧ handleValid (attached 0 0 region).cur.h[(1 : HReg)] = false
    ∧ claimOf ((attached 0 0 region).cur.rs 12).toNat ((attached 0 0 region).cur.rs 13).toNat ((attached 0 0 region).cur.rs 14).toNat = none
    ∧ claimOf ((attached claimWord 0 whole).cur.rs 12).toNat ((attached claimWord 0 whole).cur.rs 13).toNat ((attached claimWord 0 whole).cur.rs 14).toNat = some plainClaim
    ∧ claimOf ((attached namedWord 0 named).cur.rs 12).toNat ((attached namedWord 0 named).cur.rs 13).toNat ((attached namedWord 0 named).cur.rs 14).toNat = some named.claim
    ∧ (attached claimWord 0 whole).freeBlock 0 12 = none ∧ (attached claimWord 0 region).freeBlock 0 12 = some 4096
    ∧ ((attached namedWord 0 named).regions.find? fun r => r.core == 0 && r.gang == live.cur.gangKey && r.name == some 9) = some named
    ∧ named.claim ≠ { named.claim with log2 := 13 } ∧ live.denied (.burl 0) live.cur.id .rmw = none ∧ live.cur.sregCopyOk := by
  rw [show live.cur.sregCopyOk ↔ True from iff_true_intro copy_of_live.2.2.2]
  decide +kernel

theorem witness_handles : live.regionOf live.cur.id live.cur.h[(0 : HReg)] = none ∧ (attached 0 0 region).regionOf live.cur.id (attached 0 0 region).cur.h[(0 : HReg)] = some region
    ∧ (attached 0 0 region).denied (.burl 0) live.cur.id .rd = none ∧ region.refs ≤ 1
    ∧ (attached 0 0 { region with refs := 2 }).regionOf live.cur.id (attached 0 0 region).cur.h[(0 : HReg)] = some { region with refs := 2 } := by decide +kernel

theorem witness_burl : (∀ p ∈ [Perm.rd, Perm.rmw], (attached 0 0 region).atRegion 0 region p) ∧ 12 ≤ region.log2 ∧ region.log2 ≤ 19
    ∧ live.cur.actives 0 ≠ [] ∧ tagSparse live.cur.tag[(1 : VReg)] = false ∧ tagSparse live.cur.tag[(4 : VReg)] = false
    ∧ tagFmt vec1.tag = region.kfmt ∧ live.cur.operand? 4 = some ⟨4, 1, .uint 64, false, 0, none, 0xB, 0⟩ ∧ tagFmt 0xB#64 = region.vfmt
    ∧ (region.lookup 1) = some 5 ∧ region.lookup 2 = none := by
  refine ⟨?_, by decide, by decide, by decide +kernel⟩
  intro p hp
  exact ⟨rfl, by decide +kernel, by simp at hp; rcases hp with rfl | rfl <;> rfl, (.inl rfl), rfl, rfl, by decide +kernel,
    by simp at hp; rcases hp with rfl | rfl <;> decide +kernel, fun _ _ => rfl⟩

/-! ### Steps of the engines -/

/-- A scratchpad location of core 0 that a requester of cluster 0 may access. -/
def State.mayReach (s : State) (r : Req) (a : Acc) (off n : Nat) : Bool :=
  a != .fetch && decide (r.cluster = some 0) && decide (off < 0x180000) && !s.burlAt 0 off && (A + off) % n == 0 && decide (s.denied (.aperture 0) r.mid a.perm = none)

theorem probe_spad {s : State} {r : Req} {a : Acc} {off n : Nat} (h : State.mayReach s r a off n = true) (hw : s.windowAt 0 off = false) :
    s.probe r a false (A + off) n = (.ok (.spad 0 off), s) := by
  simp only [State.mayReach, Bool.and_eq_true, decide_eq_true_eq, bne_iff_ne, ne_eq, Bool.not_eq_true', beq_iff_eq] at h
  obtain ⟨⟨⟨⟨⟨ha, hc⟩, ho⟩, hb⟩, hn⟩, hd⟩ := h
  have e1 : (A + off - apertureBase) / 0x200000 = 0 := by unfold apertureBase A; omega
  have e2 : (A + off - apertureBase) % 0x200000 = off := by unfold apertureBase A; omega
  have e3 : ¬2 ^ 57 ≤ A + off := by unfold A; omega
  have e4 : apertureBase ≤ A + off := by unfold apertureBase A; omega
  have e5 : ¬spadBytes ≤ off := by unfold spadBytes; omega
  rw [State.probe, if_neg e3]
  simp [e1, e2, e4, e5, ha, hc, hb, hn, hd, hw]

theorem reachedBy_spad {s : State} {free : Nat → Prop} {r : Req} {a : Acc} {off n : Nat} (h : State.mayReach s r a off n = true)
    (hw : s.windowAt 0 off = false) (he : s.exact (.spad 0 off) n) : s.reachedBy free r a (A + off) n (spadAt (A + off)) :=
  fun m _ => ⟨.spad 0 off, probe_spad (s := { s with mem := m }) h hw, he, by unfold spadAt; rw [Nat.add_sub_cancel_left]; rfl⟩

/-- The oldest advance of k0 waits for element 0, whose page has still to come. -/
def stale : State :=
  liveWith fun h => { h with k := h.k.set 0 { kvalid 0 with flights := [[[0], [1]]] }, win := [{ kcopy 0 with arrival := .page }, kcopy 1] }

theorem witness_advance_arrived : ∀ h ∈ (windowed 1).harts, h.id = 0 → ∀ xs, (h.k[(0 : KIdx)]).flights.head? = some xs →
    ∀ x ∈ xs, ∀ c, h.copy? h.k[(0 : KIdx)] x = some c → c.arrival = .arrived := by
  intro h hh hi xs hx
  have none0 : ∀ h ∈ live.others, h.id ≠ 0 := by decide +kernel
  rcases List.mem_cons.mp hh with rfl | hh
  · cases hx
    nofun
  · exact absurd hi (none0 h hh)

theorem witness_advance_waits : ∀ h ∈ stale.harts, h.id = 0 → ¬∀ xs, (h.k[(0 : KIdx)]).flights.head? = some xs →
    ∀ x ∈ xs, ∀ c, h.copy? h.k[(0 : KIdx)] x = some c → c.arrival = .arrived := by
  intro h hh hi f
  have none0 : ∀ h ∈ live.others, h.id ≠ 0 := by decide +kernel
  rcases List.mem_cons.mp hh with rfl | hh
  · exact absurd (f [[0], [1]] rfl [0] (by decide) { kcopy 0 with arrival := .page } (by decide +kernel)) nofun
  · exact absurd hi (none0 h hh)

theorem witness_refetch : stale.cleared stale.cur .sectors = true ∧ (stale.cur.k[(0 : KIdx)]).esz ≤ 8
    ∧ (∀ e ∈ stale.cur.win, e.arrival ≠ .arrived → e.arrival = .page ∧ e.holders.getLsbD 0 = true)
    ∧ ∀ e ∈ stale.cur.win, e.arrival = .page → stale.inTurn stale.cur stale.cur.k[(0 : KIdx)] e.x false = true
      ∧ stale.reachedBy (fun _ => False) stale.cur.req .load ((stale.cur.k[(0 : KIdx)]).address e.x) (stale.cur.k[(0 : KIdx)]).esz (spadAt ((stale.cur.k[(0 : KIdx)]).address e.x)) := by
  refine ⟨by decide +kernel, by decide +kernel, by decide +kernel, ?_⟩
  rw [show stale.cur.win = [{ kcopy 0 with arrival := .page }, kcopy 1] from rfl, show (stale.cur.k[(0 : KIdx)]).esz = 1 by decide +kernel]
  simp only [List.mem_cons, List.not_mem_nil, or_false, forall_eq_or_imp, forall_eq]
  refine ⟨fun _ => ⟨by decide +kernel, ?_⟩, nofun⟩
  rw [show (stale.cur.k[(0 : KIdx)]).address (kcopy 0).x = A + 0x4000 by decide +kernel]
  refine reachedBy_spad (by decide +kernel) (by decide +kernel) ⟨fun _ _ _ => rfl, fun b h h' => ?_, nofun⟩
  obtain rfl : b = 0x4000 := by omega
  decide +kernel

/-- The gang has arrived in the two-sweep mode. -/
def sweeping (received : Word) (limit : Nat) : Gang := { liveGang with arr := 1, sent := 3, received, phase := some (true, limit), sweeps := 1 }
def swept (x : Gang) : State := { liveWith fun h => { h with wait := .phase } with gangs := [x] }

theorem witness_sweeps (received : Word) (limit : Nat) : let x := sweeping received limit
    (swept x).gangs.filter (fun y => y.id == 1) = [x] ∧ x.phase = some (true, limit) ∧ x.size ≤ x.arr
    ∧ (∀ h ∈ (swept x).harts, h.gang = some 1 → h.frozen = true → (h.frzst.extractLsb' 29 3).toNat ≠ 7)
    ∧ (sweeping 3 limit).sent = (sweeping 3 limit).received ∧ (sweeping 2 4).sent ≠ (sweeping 2 4).received ∧ (sweeping 2 4).sweeps + 1 < 4
    ∧ 2 ≤ (sweeping 2 2).sweeps + 1 := by
  refine ⟨rfl, rfl, Nat.le_refl 1, ?_, rfl, by decide, by decide, by decide⟩
  have : ∀ h ∈ live.harts, h.frozen = false := by decide +kernel
  intro h hh _ hf
  rcases List.mem_cons.mp hh with rfl | hh
  · exact absurd hf (by show ¬false = true; decide)
  · rw [this h (List.mem_cons_of_mem _ hh)] at hf
    exact absurd hf (by decide)

theorem witness_entries : let one : Val := .fin false 1 0
    ∀ op ∈ [MxOp.zero, .mop true [(0, one)] [(1, one)] false, .fill true 3 [(0, one)]],
      (posting op).mxq.filter (fun e => coreOf e.hart == 0) = [⟨0, 0, op, 0⟩] ∧ (0 : HartId) = (posting op).cur.id := by decide +kernel

/-- The command of `live` posted alone. -/
def commanded (c : NmcCommand) : State := { live with nmcq := [c] }

theorem exact_spad (off n : Nat) (c : NmcCommand) : (commanded c).exact (.spad 0 off) n :=
  ⟨fun _ _ _ => rfl, fun b _ _ => (rfl : live.windowAt 0 b = false), nofun⟩

theorem witness_mandrel : let c := liveCommand
    Memory.wf (commanded c).mem = true ∧ (commanded c).nmcq.find? (fun c => c.hart == 0) = some c ∧ fmtOf c.f c.code = some (.uint 64) ∧ nmcFmtOk c.opc c.code (.uint 64) = true ∧ c.elems.Pairwise (· < ·)
    ∧ c.first = none ∧ c.met = {} ∧ c.out = []
    ∧ (∀ e ∈ c.elems.drop c.pos, ∀ free, (commanded c).reachedBy free c.req .rmw (c.xAddr (.uint 64) e) 8 (spadAt (c.xAddr (.uint 64) e))
      ∧ (commanded c).reachedBy free c.req .operand (c.yAddr (.uint 64) e) 8 (spadAt (c.yAddr (.uint 64) e)))
    ∧ (∀ free, (commanded c).reachedBy free c.req .store c.status 8 (spadAt c.status))
    ∧ (∀ e ∈ c.elems.drop c.pos, apart (spadAt (c.xAddr (.uint 64) e)) 8 (spadAt c.status) 8
      ∧ apart (spadAt (c.yAddr (.uint 64) e)) 8 (spadAt (c.xAddr (.uint 64) e)) 8
      ∧ ∀ j ∈ c.elems.drop c.pos, e ≠ j → apart (spadAt (c.xAddr (.uint 64) e)) 8 (spadAt (c.xAddr (.uint 64) j)) 8
        ∧ apart (spadAt (c.yAddr (.uint 64) e)) 8 (spadAt (c.xAddr (.uint 64) j)) 8) := by
  refine ⟨rfl, rfl, by decide +kernel, by decide, by decide, rfl, rfl, rfl, ?_, fun free => reachedBy_spad (off := 0x200) (by decide +kernel) (by decide +kernel) (exact_spad _ _ _), by unfold apart; decide +kernel⟩
  intro e he free
  have he : e ∈ [0, 1] := he
  simp only [List.mem_cons, List.not_mem_nil, or_false] at he
  rcases he with rfl | rfl
  · exact ⟨reachedBy_spad (off := 0) (by decide +kernel) (by decide +kernel) (exact_spad _ _ _), reachedBy_spad (off := 0x100) (by decide +kernel) (by decide +kernel) (exact_spad _ _ _)⟩
  · exact ⟨reachedBy_spad (off := 8) (by decide +kernel) (by decide +kernel) (exact_spad _ _ _), reachedBy_spad (off := 0x108) (by decide +kernel) (by decide +kernel) (exact_spad _ _ _)⟩

theorem witness_scrub : let c : NmcCommand := { liveCommand with opc := 6, code := 5 }
    Memory.wf (commanded c).mem = true ∧ fmtOf c.f c.code = some (.uint 8) ∧ nmcFmtOk 6 5 (.uint 8) = true ∧ c.elems ≠ [] ∧ c.bits = 0 ∧ (c.base + (c.gl - 1) * 1) / 64 + 1 - c.base / 64 = 1 ∧ c.pos ≤ 1
    ∧ (∀ free, (commanded c).reachedBy free c.req .rmw ((c.base / 64 + 0) * 64) 64 (spadAt ((c.base / 64 + 0) * 64)))
    ∧ (∀ free, (commanded c).reachedBy free c.req .map ((c.yaddr + 0) % 2 ^ 64) 1 (spadAt ((c.yaddr + 0) % 2 ^ 64)))
    ∧ (∀ free, (commanded c).reachedBy free c.req .store c.status 8 (spadAt c.status)) ∧ ¬within (spadAt c.status) 8 (spadAt ((c.yaddr + 0) % 2 ^ 64)) :=
  ⟨rfl, by decide +kernel, by decide, by decide, rfl, by decide +kernel, by decide, fun free => reachedBy_spad (off := 0) (by decide +kernel) (by decide +kernel) (exact_spad _ _ _),
    fun free => reachedBy_spad (off := 0x100) (by decide +kernel) (by decide +kernel) (exact_spad _ _ _), fun free => reachedBy_spad (off := 0x200) (by decide +kernel) (by decide +kernel) (exact_spad _ _ _),
    by unfold within; decide +kernel⟩

/-- The hart of `live` as the one that posts rank q. -/
def poster (q : Nat) : Poster := ⟨0, some 1, q, false⟩

/-- Group 1 of two devices with a rank each; rank q's buffer of two bytes and its status word. -/
def joined (q : Nat) : Join := ⟨q, some (poster q), 0, .u, 0, BitVec.ofNat 256 collBlock, A + 16 * q, 2, A + 0x20 + 8 * q, 0⟩
def collective (n : Nat) : State :=
  { live with link := { live.link with groups := [(2, BitVec.ofNat 64 (2 ^ 63 + 2 ^ 16 + 1))], instances := [⟨1, 0, (List.range n).map joined, false, 2, false, none⟩] } }

theorem exact_collective (off n k : Nat) : (collective k).exact (.spad 0 off) n := ⟨fun _ _ _ => rfl, fun b _ _ => (rfl : live.windowAt 0 b = false), nofun⟩

theorem witness_collective : (∀ n, Memory.wf (collective n).mem = true) ∧ (collective 2).groupRanks 1 = 2 ∧ (collective 2).link.instances.filter (fun x => x.group == 1) = [⟨1, 0, (List.range 2).map joined, false, 2, false, none⟩]
    ∧ (∀ q < 2, (joined q).rank = q ∧ (joined q).block = (joined 0).block ∧ (joined q).hart = some (poster q))
    ∧ collBlockOk (joined 0).block.toNat = true ∧ collFmt? (joined 0).block.toNat = some (.uint 8)
    ∧ (∀ q < 2, ∀ e < 2, ∀ free, (collective 2).reachedBy free ((joined q).req (poster q)) .load (((joined q).base + e * 1) % 2 ^ 64) 1 (spadAt (((joined q).base + e * 1) % 2 ^ 64))
      ∧ (collective 2).reachedBy free ((joined q).req (poster q)) .store (((joined q).base + e * 1) % 2 ^ 64) 1 (spadAt (((joined q).base + e * 1) % 2 ^ 64)))
    ∧ (∀ q < 2, ∀ n < 3, ∀ free, (collective n).reachedBy free ((joined q).req (poster q)) .store (joined q).status 8 (spadAt (joined q).status))
    ∧ (∀ q < 2, spadAt (joined q).status % 8 = 0 ∧ ∀ r < 2, ∀ e < 2, apart (spadAt (((joined r).base + e * 1) % 2 ^ 64)) 1 (spadAt (joined q).status) 8)
    ∧ ∀ q < 2, ∀ e < 2, ∀ r < 2, ∀ j < 2, (q ≠ r ∨ e ≠ j) → apart (spadAt (((joined q).base + e * 1) % 2 ^ 64)) 1 (spadAt (((joined r).base + j * 1) % 2 ^ 64)) 1 := by
  have at' : ∀ q < 2, ∀ e < 2, ((joined q).base + e * 1) % 2 ^ 64 = A + (16 * q + e) := by decide +kernel
  refine ⟨fun _ => rfl, by decide +kernel, rfl, by decide +kernel, by decide +kernel, by decide +kernel, ?_, ?_, by unfold apart; decide +kernel, ?_⟩
  · intro q hq e he free
    have reached : ∀ q < 2, ∀ e < 2, State.mayReach (collective 2) ((joined q).req (poster q)) .load (16 * q + e) 1 = true
      ∧ State.mayReach (collective 2) ((joined q).req (poster q)) .store (16 * q + e) 1 = true ∧ (collective 2).windowAt 0 (16 * q + e) = false := by decide +kernel
    obtain ⟨h, h', hw⟩ := reached q hq e he
    rw [at' q hq e he]
    exact ⟨reachedBy_spad h hw (exact_collective _ _ _), reachedBy_spad h' hw (exact_collective _ _ _)⟩
  · intro q hq n hn free
    have reached : ∀ q < 2, ∀ n < 3, State.mayReach (collective n) ((joined q).req (poster q)) .store (0x20 + 8 * q) 8 = true
      ∧ (collective n).windowAt 0 (0x20 + 8 * q) = false := by decide +kernel
    obtain ⟨h, hw⟩ := reached q hq n hn
    have hs : (joined q).status = A + (0x20 + 8 * q) := Nat.add_assoc A 0x20 (8 * q)
    rw [hs]
    exact reachedBy_spad h hw (exact_collective _ _ _)
  · intro q hq e he
    unfold apart
    interval_cases q <;> interval_cases e <;> decide +kernel

/-- One of two ranks has joined; no rank has; and a rank of the other device may. -/
theorem witness_collective_waits : ((List.range 1).map joined).length < 2 ∧ (∀ j ∈ (List.range 1).map joined, j.hart = some (poster j.rank))
    ∧ (collective 1).link.instances.filter (fun x => x.group == 1 && x.k == 0) = [⟨1, 0, (List.range 1).map joined, false, 2, false, none⟩]
    ∧ (∀ i ∈ live.link.instances, i.group = 1 → i.closed = true)
    ∧ ((collective 1).group0 1).testBit 63 = true ∧ (1 : Nat) < (collective 1).groupRanks 1 ∧ (collective 1).mine 1 ≠ some (1 / max ((collective 1).groupHpd 1) 1)
    ∧ Sparse.get 0 (collective 1).link.posts (postKey 1 1) = 0 ∧ ∀ i ∈ (collective 1).link.instances, ¬(i.group = 2 ∧ i.k = 0) := by decide +kernel

/-! ### Steps of the schedulers and of the gangs -/

/-- The doorbell pages whose HEADs are the tables of the walk, in a state whose partition p starts there. -/
def State.lowWalk (s : State) (p : Nat) : Prop :=
  (s.partAt p).ptroot = BitVec.ofNat 64 (2 ^ 63 + 2 ^ 49 + 4096 * 0xFFFD) ∧ s.headOf 0xFFFD = BitVec.ofNat 64 (2 ^ 49 + 4096 * 0xFFFE + 1)
    ∧ s.headOf 0xFFFE = BitVec.ofNat 64 (2 ^ 49 + 4096 * 0xFFFF + 1) ∧ s.headOf 0xFFFF = 0x7B

/-- The leaf of the first GiB. -/
def lowLeaf : Leaf := ⟨0x7B, 2 ^ 49 + 4096 * 0xFFFF, 2 ^ 30⟩

theorem walk_low {s : State} {r : Req} {va : Nat} (h : State.lowWalk s r.part) (hva : va < 2 ^ 30) : s.walk r va = (.ok lowLeaf, s) := by
  obtain ⟨hr, h1, h2, h3⟩ := h
  have i4 : va / 2 ^ (12 + 9 * 4) % 512 = 0 := by rw [Nat.div_eq_of_lt (by omega)]
  have i3 : va / 2 ^ (12 + 9 * 3) % 512 = 0 := by rw [Nat.div_eq_of_lt (by omega)]
  have i2 : va / 2 ^ (12 + 9 * 2) % 512 = 0 := by rw [Nat.div_eq_of_lt (by omega)]
  have p1 : placeOf (2 ^ 49 + 4096 * 0xFFFD) = .doorbell 0xFFFD 0 := by decide
  have p2 : placeOf (2 ^ 49 + 4096 * 0xFFFE) = .doorbell 0xFFFE 0 := by decide
  have p3 : placeOf (2 ^ 49 + 4096 * 0xFFFF) = .doorbell 0xFFFF 0 := by decide
  have w1 : s.walkRead r (2 ^ 49 + 4096 * 0xFFFD) = (.ok (2 ^ 49 + 4096 * 0xFFFE + 1), s) := by unfold State.walkRead State.ownSector; rw [p1]; simp only [h1]; rfl
  have w2 : s.walkRead r (2 ^ 49 + 4096 * 0xFFFE) = (.ok (2 ^ 49 + 4096 * 0xFFFF + 1), s) := by unfold State.walkRead State.ownSector; rw [p2]; simp only [h2]; rfl
  have w3 : s.walkRead r (2 ^ 49 + 4096 * 0xFFFF) = (.ok 0x7B, s) := by unfold State.walkRead State.ownSector; rw [p3]; simp only [h3]; rfl
  unfold State.walk
  rw [hr, show (BitVec.ofNat 64 (2 ^ 63 + 2 ^ 49 + 4096 * 0xFFFD)).toNat = 2 ^ 63 + 2 ^ 49 + 4096 * 0xFFFD by decide]
  dsimp only
  rw [if_pos (by decide), show fld (2 ^ 63 + 2 ^ 49 + 4096 * 0xFFFD) 51 12 * 4096 = 2 ^ 49 + 4096 * 0xFFFD by decide]
  simp only [State.walkFrom, i4, i3, i2, Nat.mul_zero, Nat.add_zero]
  rw [w1]
  dsimp only
  rw [if_neg (by decide), if_pos (by decide), if_neg (by decide), show fld (2 ^ 49 + 4096 * 0xFFFE + 1) 51 12 * 4096 = 2 ^ 49 + 4096 * 0xFFFE by decide, w2]
  dsimp only
  rw [if_neg (by decide), if_pos (by decide), if_neg (by decide), show fld (2 ^ 49 + 4096 * 0xFFFF + 1) 51 12 * 4096 = 2 ^ 49 + 4096 * 0xFFFF by decide, w3]
  dsimp only
  rw [if_neg (by decide), if_neg (by decide), show leafSize 2 0x7B = some (2 ^ 30) by decide]
  rfl

theorem probe_low {s : State} {r : Req} {a : Acc} {va n : Nat} (h : State.lowWalk s r.part) (hva : va < 2 ^ 30) (ha : va % n = 0)
    (hd : s.denied (.mem 0) r.mid a.perm = none) : s.probe r a false va n = (.ok (.dram 0 va 0 false), s) := by
  have e1 : ¬2 ^ 57 ≤ va := by omega
  have e2 : ¬apertureBase ≤ va := by unfold apertureBase; omega
  have e3 : lowLeaf.pa va = va := by unfold Leaf.pa lowLeaf; rw [show fld 0x7B 51 12 * 4096 = 0 by decide, Nat.zero_add]; exact Nat.mod_eq_of_lt hva
  have e4 : lowLeaf.permits r.level a = true := by clear hd; generalize r.level = l; cases l <;> cases a <;> decide
  have e5 : placeOf va = .dram 0 := by unfold placeOf; rw [if_pos (by omega), Nat.div_eq_of_lt (by omega)]
  rw [State.probe, if_neg e1, if_neg e2, walk_low h hva]
  simp only [ha, bne_self_eq_false, Bool.and_false, State.reachLeaf, e3, e4, e5, hd, Bool.not_true, Bool.false_eq_true, if_false]
  rfl

theorem reachedBy_low {s : State} {free : Nat → Prop} {r : Req} {a : Acc} {va n : Nat} (h : State.lowWalk s r.part) (hva : va < 2 ^ 30) (ha : va % n = 0)
    (hd : s.denied (.mem 0) r.mid a.perm = none) (hn : va % 64 + n ≤ 64) (hi : s.intact 0 (va / 64 * 64) 0) : s.reachedBy free r a va n va :=
  fun m _ => ⟨.dram 0 va 0 false, probe_low (s := { s with mem := m }) h hva ha hd, ⟨hn, hi⟩, rfl⟩

theorem denied_of {s t : State} (h : s.tables = t.tables) (x : Target) (mid : Nat) (p : Perm) : s.denied x mid p = t.denied x mid p := by
  unfold State.denied State.tableWord
  rw [h]

theorem intact_of {s t : State} (h : s.memctl = t.memctl) (h' : s.sectors = t.sectors) (u b l : Nat) : s.intact u b l = t.intact u b l := by
  unfold State.intact State.sectorAt
  rw [h, h']

/-- A queue of 16 slots at 0x100 with its header at 0x40, its first index announced, in slot 0. -/
def announced : Queue :=
  { q := 5, qd0 := BitVec.ofNat 64 (2 ^ 63 + 4 * 2 ^ 51), qd1 := 0x40, qd2 := 0x100, window := 1, head := 0, highest := some 0, slot := some 0
    since := 0, offset := 0, mapped := 0, taken := false }

/-- A record of one hart of 4 lanes with length cap 1 at 0x8000 that waits for the counter at 0x180. -/
def record (threshold : Nat) : List Word := [0x8000, 1, 2, 0x188, 0x180, 0, BitVec.ofNat 64 threshold, BitVec.ofNat 64 (2 ^ 55 + 2 ^ 49)]

/-- The queue, its header and record in memory, the counter at 7, in a partition that holds clusters 0 to 3. -/
def scheduling (r : List Word) (x : Queue) : State :=
  let s : State := { live with queues := x :: live.queues }
  let s := s.updPart 0 fun p => { p with part := 0x80000000000000FF, ctxp := BitVec.ofNat 64 (2 ^ 63), ctxn := 0x10001, sch := 0x40000 }
  { s with mem := Memory.writeN (Memory.writeN (Memory.writeN [] 0x40 16 (0x100 + 2 ^ 64 * 4)) 0x100 64
      (r.zipIdx.map fun p => p.1.toNat * 2 ^ (64 * p.2)).sum) 0x180 8 7 }

theorem scheduling_memory (r : List Word) (x : Queue) : (scheduling r x).tables = live.tables ∧ (scheduling r x).memctl = live.memctl
    ∧ (scheduling r x).sectors = live.sectors := ⟨rfl, rfl, rfl⟩

theorem lowWalk_scheduling (r : List Word) (x : Queue) (hx : x.q = 5) : State.lowWalk (scheduling r x) 0 := by
  refine ⟨rfl, ?_, ?_, ?_⟩ <;> (unfold State.headOf; rw [show (scheduling r x).queues = x :: live.queues from rfl, List.find?_cons_of_neg (by rw [hx]; decide)]; rfl)

theorem sees_scheduling {r : List Word} {x : Queue} {va v : Nat} (hx : x.q = 5) (hva : va < 512) (ha : va % 8 = 0) (hv : Memory.readN (scheduling r x).mem va 8 = v) :
    (scheduling r x).schedSees 0 va v := by
  have tagged : ∀ n < 8, live.intact 0 (n * 64) 0 := by unfold State.intact; decide +kernel
  exact ⟨va, reachedBy_low (lowWalk_scheduling r x hx) (by omega) ha (by rw [denied_of (scheduling_memory r x).1]; decide +kernel) (by omega)
    (by rw [intact_of (scheduling_memory r x).2.1 (scheduling_memory r x).2.2]; exact tagged (va / 64) (by omega)), hv⟩

/-- What the scheduler reads at an address is what memory holds there. -/
theorem sees_alone {s : State} {p va v : Nat} {l : Loc} (h0 : s.probe ⟨0x2000 + p, .s, p, none⟩ .load false va 8 = (.ok l, s)) (h : s.schedSees p va v) :
    v = Memory.readN s.mem l.key 8 := by
  obtain ⟨key, h, hv⟩ := h
  obtain ⟨l', hp, -, hl⟩ := h s.mem fun _ _ => rfl
  have e : Except.ok l = (Except.ok l' : Except Miss Loc) := congrArg Prod.fst (h0.symm.trans hp)
  rw [← hv, ← hl, Except.ok.inj e]

theorem witness_queue : let s := scheduling (record 5) announced
    s.queues.filter (fun y => y.q == 5) = [announced] ∧ announced.qd0.getLsbD 63 = true ∧ announced.window.getLsbD (announced.head.toNat % 256) = true
    ∧ announced.slot.isSome = true ∧ (∀ e ∈ s.eligible, e.queue ≠ 5) ∧ (record 5).length = 8
    ∧ (∀ j < 8, s.schedSees 0 (0x100 + 64 * 0 + 8 * j) ((record 5).getD j 0).toNat) ∧ s.schedSees 0 0x40 0x100 ∧ s.schedSees 0 0x48 4
    ∧ legalRecord (record 5) ∧ (s.parts[(0 : Fin 8)]).largeEnough ((record 5).getD 7 0) ∧ s.waitMet 0 0x180 5 ∧ s.waitMet 0 0 0 := by
  refine ⟨by decide +kernel, by decide, by decide, rfl, by decide +kernel, rfl, ?_, sees_scheduling rfl (by decide) (by decide) (by decide +kernel),
    sees_scheduling rfl (by decide) (by decide) (by decide +kernel), ?_, ?_, .inr ⟨7, sees_scheduling rfl (by decide) (by decide) (by decide +kernel), by decide, by decide⟩, .inl rfl⟩
  · intro j hj
    refine sees_scheduling rfl (by omega) (by omega) ?_
    revert j
    decide +kernel
  · unfold legalRecord; decide +kernel
  · unfold Partition.largeEnough; decide +kernel

theorem witness_queue_waits : let s := scheduling (record 9) announced
    s.waitMet 0 0x180 0 ∧ ¬s.waitMet 0 0x180 9 ∧ ¬legalRecord ((record 5).set 7 0) := by
  refine ⟨.inr ⟨7, sees_scheduling rfl (by decide) (by decide) (by decide +kernel), by decide, by decide⟩, ?_, by unfold legalRecord; decide +kernel⟩
  rintro (h | ⟨x, h, h9, -⟩)
  · exact absurd h (by decide)
  · rw [sees_alone (probe_low (lowWalk_scheduling _ _ rfl) (by decide) (by decide) (by rw [denied_of (scheduling_memory _ _).1]; decide +kernel)) h] at h9
    revert h9
    decide +kernel

theorem witness_epochs : let s := scheduling (record 5) announced
    let t := scheduling (record 5) { announced with slot := none }
    (s.queues.map Queue.q).Nodup ∧ (∀ y ∈ s.queues, y.ready = true → y.slot.isSome = true) ∧ t.queues.filter (fun y => y.ready && y.slot.isNone) = [{ announced with slot := none }]
    ∧ (t.queues.map Queue.q).Nodup ∧ t.queues.length ≤ 1024
    ∧ (t.queues.filter fun y => y.part == announced.part && y.slot.isSome).length < ((t.parts[announced.part]).sch.extractLsb' 16 11).toNat := by decide +kernel

theorem witness_placement : let s : State := { scheduling (record 5) announced with eligible := [⟨5, 0, record 5⟩] }
    let slots : List Slot := [⟨1, 0⟩]
    (s.parts[announced.part]).throttled = false ∧ slots.length = (((record 5).getD 7 0).extractLsb' 55 9).toNat
    ∧ slots.Pairwise (fun a b => a.core < b.core ∨ (a.core = b.core ∧ a.ctx < b.ctx))
    ∧ ∀ a ∈ slots, a.core < 384 ∧ a.ctx < 4 ∧ (s.parts[announced.part]).holdsCore a.core = true ∧ (∀ b ∈ slots, a.core / 96 = b.core / 96)
      ∧ (slots.filter fun y => y.core == a.core).length * 0 ≤ 0x180000 ∧ ∀ h ∈ s.harts, coreOf h.id = a.core → h.wait = .vacant ∨ h.wait = .ended := by decide +kernel

theorem witness_descriptors : (scheduling (record 5) { announced with highest := none }).queues.filter (fun y => y.q == 5) = [{ announced with highest := none }]
    ∧ live.queues.filter (fun y => y.q == 0xFFFF) = [headQueue 0xFFFF#16 0x7B] ∧ (headQueue 0xFFFF#16 0x7B).qd0.getLsbD 63 = false := by decide +kernel

/-! Gangs. -/

theorem get_tagged {α : Type} (d x : α) (n : Nat) : ∀ lo i, lo ≤ i → i < lo + n → Sparse.get d ((List.range' lo n).map fun i => (i, x)) i = x := by
  induction n with
  | zero => intro lo i h h'; omega
  | succ n ih =>
    intro lo i h h'
    rw [List.range'_succ, List.map_cons, Sparse.get]
    by_cases e : i = lo
    · rw [if_pos e]
    · rw [if_neg e, if_neg (by omega)]
      exact ih (lo + 1) i (by omega) (by omega)

/-- The partition's context slot is at address 0. -/
def leaving (used : List Nat) : State := (scheduling (record 5) announced).updPart 0 fun p => { p with usedSlots := used }

theorem leaving_tables (used : List Nat) : (leaving used).tables = live.tables := rfl

theorem witness_preempt (used : List Nat) : Memory.wf (leaving used).mem = true ∧ (leaving used).gangs.filter (fun y => y.id == 1) = [liveGang]
    ∧ ((∀ h ∈ (leaving used).harts, h.gang = some 1 → h.undivided = false ∧ (∀ t, h.wait ≠ .trap t) ∧ ∀ e ∈ h.win, e.dirty = false))
    ∧ (∀ e ∈ (leaving used).mxq, ∀ h ∈ (leaving used).harts, h.id = e.hart → ¬h.gang = some 1)
    ∧ (∀ h ∈ (leaving used).harts, h.gang = some 1 → h.lane = none ∧ (∀ k : KIdx, (h.k[k]).phase = .invalid) ∧ h.wait ≠ .vacant)
    ∧ ((leaving used).harts.map Hart.id).Nodup ∧ (∀ r ∈ (leaving used).regions, r.gang ≠ 1) ∧ liveGang.size < 2 ^ 16 ∧ liveGang.arr < 2 ^ 16
    ∧ ((leaving used).parts[(0 : Fin 8)]).ctxp.getLsbD 63 = true ∧ ((leaving used).parts[(0 : Fin 8)]).ctxn.toNat / 2 ^ 16 % 2 ^ 16 = 1
    ∧ ((leaving used).harts.filter fun h => h.gang == some 1 && h.wait != .ended).length = 1
    ∧ (∀ n < 64 + 1 * 6144, ∃ u, placeOf (0 + 64 * n) = .dram u ∧ (leaving used).denied (.mem u) 0x2400 .wr = none)
    ∧ 0x2400 ∉ ((leaving used).parts[(0 : Fin 8)]).frozenEngines ∧ (leaving used).link.sent = [] ∧ liveGang.leaving = none
    ∧ 0 ∉ ([] : List Nat) ∧ (0 : Nat) ∈ [0] := by
  have mine : ∀ h ∈ live.harts, h.gang = some 1 → h = liveHart := by decide +kernel
  refine ⟨(by decide +kernel : Memory.wf (scheduling (record 5) announced).mem = true), rfl, ?_, nofun, ?_, ?_, nofun, by decide, by decide, ?_, ?_, ?_, ?_, nofun, rfl,
    rfl, by decide, by decide⟩
  · intro h hh hg
    rw [mine h hh hg]
    exact ⟨rfl, nofun, nofun⟩
  · intro h hh hg
    rw [mine h hh hg]
    exact ⟨rfl, by decide +kernel, nofun⟩
  · show (live.harts.map Hart.id).Nodup
    decide +kernel
  · show (BitVec.ofNat 64 (2 ^ 63)).getLsbD 63 = true
    decide
  · show (0x10001#64).toNat / 2 ^ 16 % 2 ^ 16 = 1
    decide
  · show (live.harts.filter fun h => h.gang == some 1 && h.wait != .ended).length = 1
    decide +kernel
  · intro n hn
    refine ⟨0, ?_, by rw [denied_of (leaving_tables used)]; decide +kernel⟩
    unfold placeOf
    rw [if_pos (by omega), Nat.div_eq_of_lt (by omega)]

theorem witness_slice : let s : State := { scheduling (record 5) announced with eligible := [⟨5, 0, record 5⟩] }
    Max.max 10 ((s.parts[(0 : Fin 8)]).sch.toNat % 2 ^ 16) ≤ 20 * (s.epochs + 1 - liveGang.slice)
    ∧ (∃ e ∈ s.eligible, ∃ y, s.queue? e.queue = some y ∧ y.part = liveGang.part ∧ (if y.prio = 7 then 7 else Min.min 6 (y.prio + (s.epochs - y.since))) = liveGang.prio)
    ∧ ∃ h ∈ s.harts, h.gang = some 1 ∧ h.wait ≠ .vacant ∧ h.wait ≠ .ended ∧ h.frozen = false := by
  refine ⟨by decide +kernel, ⟨⟨5, 0, record 5⟩, by decide +kernel, announced, by decide +kernel, by decide +kernel, by decide +kernel⟩, _, List.mem_cons_self .., rfl, nofun, nofun, rfl⟩

/-- A grant not yet adopted. -/
theorem witness_grant : let s : State := { liveWith fun h => { h with pending := some ⟨4, 1⟩ } with gangs := [{ liveGang with pending := some ⟨4, 1⟩ }] }
    (s.gangs.filter fun y => y.id == 1) = [{ liveGang with pending := some ⟨4, 1⟩ }] ∧ ∃ h ∈ s.harts, h.gang = some 1 ∧ h.pending ≠ none ∧ h.wait ≠ .ended :=
  ⟨rfl, _, List.mem_cons_self .., rfl, nofun, nofun⟩

/-- A frozen hart, by a refusal or at its phase limit. -/
def frozen (code : Nat) : State := liveWith fun h => { h with frozen := true, frzst := BitVec.ofNat 64 (code * 2 ^ 29) }

theorem witness_frozen : (frozen 0).cur.frozen = true ∧ (frozen 0).cur.resident = true ∧ (frozen 0).cur.gang = some 1 ∧ ((frozen 0).cur.frzst.extractLsb' 29 3).toNat ≠ 7
    ∧ ((frozen 7).cur.frzst.extractLsb' 29 3).toNat = 7 ∧ (frozen 7).cur.frozen = true ∧ live.cur.resident = true ∧ live.cur.frozen = false := by decide +kernel

/-- Gang 1 away in slot 0: its header and its hart's record in memory, its context vacant. -/
def away : Saved := ⟨liveGang, 0, [liveHart], [], 0, 0, []⟩
def resuming (busy : Bool) : State :=
  { leaving [0] with
    cur := Hart.vacant 0, gangs := [], saved := [away], mem := Memory.writeN [] 0 64 (2 ^ 48 + 2 ^ 64 * (4 + 256) + 2 ^ 448 * 1)
    sectors := (List.range' 0 6208).map fun i => (i, ⟨some 0#4, 0, 0, 0⟩), nmcq := if busy then [liveCommand] else [] }

theorem witness_resume : (∀ b, Memory.wf (resuming b).mem = true) ∧ (∀ b, (resuming b).saved.filter (fun v => v.gang.id == 1) = [away]) ∧ away.regions = []
    ∧ (∀ h ∈ away.harts, (∀ k : KIdx, (h.k[k]).phase = .invalid) ∧ h.gang = some 1) ∧ ((resuming false).gangs.map Gang.id).all (fun y => y != 1) = true
    ∧ (∃ c ∈ (resuming true).nmcq, c.gang = some 1) ∧ (resuming false).nmcq = [] ∧ (resuming false).link.instances = [] ∧ (resuming false).link.sent = []
    ∧ (∀ h ∈ away.harts, h.id < 1536) ∧ (resuming false).resumeOk away (away.harts.map fun h => ⟨coreOf h.id, h.id % 4⟩) = true
    ∧ ((resuming false).parts[away.gang.part]).throttled = false ∧ 0x2400 ∉ ((resuming false).parts[away.gang.part]).frozenEngines ∧ away.gang.request.lanes = 4 ∧ 1 ≤ away.gang.request.q
    ∧ (∀ n < 64 + 1 * 6144, (resuming false).admits 0x2400 (0 + 64 * n) 0 .rd)
    ∧ away.gang.headerOk (Memory.readN (resuming false).mem 0 4096) 1 0 = true := by
  refine ⟨by decide +kernel, fun b => rfl, rfl, by decide +kernel, rfl, ⟨liveCommand, by decide, rfl⟩, rfl, rfl, rfl, by decide +kernel, by decide +kernel, rfl, nofun, rfl, by decide, ?_, by decide +kernel⟩
  intro n hn
  refine ⟨0, ?_, by rw [denied_of (s := resuming false) (leaving_tables [0])]; decide +kernel, ?_, by decide, ?_⟩
  · unfold placeOf
    rw [if_pos (by omega), Nat.div_eq_of_lt (by omega)]
  · rfl
  · show Sparse.get Sector.clean ((List.range' 0 6208).map fun i => (i, ⟨some 0#4, 0, 0, 0⟩)) ((0 + 64 * n) / 64 * 64 / 64) = _
    exact get_tagged _ _ _ _ _ (Nat.zero_le _) (by omega)

theorem witness_parts : (∀ x ∈ live.gangs, x.part ≠ 1)
    ∧ (∀ q : Fin 8, q ≠ 1 → (live.parts[q]).part.getLsbD 63 = false)
    ∧ ((scheduling (record 5) announced).parts[(0 : Fin 8)]).part.getLsbD 63 = true ∧ (0x8000000000000001#64).getLsbD 63 = true
    ∧ ((scheduling (record 5) announced).parts[(0 : Fin 8)]).part &&& 0x8000000000000001#64 &&& 0x000000FFFFFF00FF#64 ≠ 0 := by decide +kernel

/-- The module below its cap, and a gang of 8 lanes while it is above. -/
theorem witness_power : (∀ x ∈ live.gangs, x.pending = none) ∧ (0 : Nat) ≤ Min.min 2200 (live.sec.mcap.toNat % 2 ^ 16) ∧ (∀ p : Fin 8, (live.parts[p]).pbud = 0) ∧ live.sec.below + 1 < 100
    ∧ (let x : Gang := { liveGang with grant := ⟨8, 1⟩ }
      let s : State := { live with gangs := [x] }
      Min.min 2200 (s.sec.mcap.toNat % 2 ^ 16) < 3000 ∧ s.gangs.filter (fun y => y.id == x.id) = [x] ∧ 4 < x.grant.lanes
      ∧ ∀ y ∈ s.gangs, 4 < y.grant.lanes → x.prio < y.prio ∨ (x.prio = y.prio ∧ (x.placed < y.placed ∨ y = x))) := by decide +kernel

/-! ### Steps of the memory units, of translation and of the links -/

theorem intact_of_live (n : Nat) (h : n < 8) : live.intact 0 (n * 64) 0 := by
  revert n
  unfold State.intact
  decide +kernel

theorem record_of_live : live.recordOnce 0 0x100 := by
  refine ⟨rfl, rfl, fun i _ j _ h => absurd h ?_, fun i _ j _ h => absurd rfl h.2, fun ⟨i, _, h⟩ => absurd h ?_⟩
  · exact (by decide : (0 : Nat) ≠ 0x100 + 1)
  · exact (by decide : (0 : Nat) ≠ 0x100 + 1)

/-- Sector 0x100 is open and undamaged; stack 1 is closed to every master. -/
theorem witness_controllers : Memory.wf live.mem = true ∧ placeOf 0x100 = .dram 0 ∧ live.denied (.mem 0) 0 .rd = none ∧ live.denied (.mem 0) 0 .wr = none ∧ live.intact 0 0x100 (0#4).toNat
    ∧ placeOf (2 ^ 36) = .dram 2 ∧ (∀ p ∈ [Perm.rd, Perm.wr], ∃ kind, live.denied (.mem 2) (0#16).toNat p = some kind) ∧ (0#16).toNat = live.cur.id
    ∧ live.recordOnce 0 0x100 ∧ ∀ u, placeOf (2 ^ 48) ≠ .dram u := by
  refine ⟨rfl, by decide, by decide +kernel, by decide +kernel, intact_of_live 4 (by decide), by decide, ?_, rfl, record_of_live, ?_⟩
  · intro p hp
    simp only [List.mem_cons, List.not_mem_nil, or_false] at hp
    rcases hp with rfl | rfl
    · exact ⟨0, by decide +kernel⟩
    · exact ⟨0, by decide +kernel⟩
  · rw [show placeOf (2 ^ 48) = .unbacked by decide]
    exact nofun

/-- Two records, and a poisoned sector 0 in a partition that holds stack 0. -/
def recorded : State :=
  let s := live.updPart 0 fun q => { q with part := BitVec.ofNat 64 (2 ^ 63 + 2 ^ 16), errors := [⟨0, 1, 0, 3, 0, 0, 64⟩, ⟨0, 1, 0, 3, 0, 0, 128⟩] }
  { s with memctl := { s.memctl with poison := [(0, 1)] } }

theorem witness_records : 2 ≤ (recorded.parts[(0 : Fin 8)]).errors.length ∧ (recorded.parts[(1 : Fin 8)]).errors.length ≤ 1 ∧ (recorded.parts[(0 : Fin 8)]).psel.getLsbD 63 = false
    ∧ ((recorded.parts[(0 : Fin 8)]).psel.extractLsb' 16 5).toNat = 0 ∧ ((recorded.parts[(0 : Fin 8)]).psel.extractLsb' 0 9).toNat = 0
    ∧ (recorded.parts[(0 : Fin 8)]).holdsUnit 0 = true ∧ Sparse.get 0 recorded.memctl.poison (512 * dieOf 0 + 0) = 1 ∧ Sparse.get 0 live.memctl.poison 0 = 0
    ∧ placeOf (1 - 1) = .dram 0 ∧ (0x10005#64).extractLsb' 16 2 = 1 ∧ (0x10005#64).extractLsb' 18 46 = 0 ∧ (5#64).extractLsb' 16 2 ≠ 1 := by decide +kernel

/-- Word 0 of core 0 has two bits flipped, alone or with another of its bank and group. -/
def flipped (others : Bool) : State := { live with spadFlips := (0, 3) :: if others then [(64, 3)] else [], rebuilding := [(0, 0)] }

theorem witness_rebuild : (0 : Nat) < 393216 ∧ (∀ b, 2 ≤ ((List.range 39).filter fun i => (Sparse.get 0 (flipped b).spadFlips 0).getLsbD i).length)
    ∧ (∀ b, (0, 0) ∈ (flipped b).rebuilding) ∧ (0, 0) ∉ live.rebuilding
    ∧ ((List.range 39).filter fun i => ((flipped false).rebuildFlips 0 0).getLsbD i).length ≤ 1
    ∧ 2 ≤ ((List.range 39).filter fun i => ((flipped true).rebuildFlips 0 0).getLsbD i).length := by decide +kernel

/-- A lane at its threshold; a row counter of bad parity; sector 0 of stack 0 to be read by its patrol engine, of stack 1 refused. -/
theorem witness_patrol : let s : State := { recorded with laneCount := [(0, 16)] }
    0 < ((s.partAt (s.partOfCore 0)).errctl.extractLsb' 8 8).toNat ∧ ((s.partAt (s.partOfCore 0)).errctl.extractLsb' 8 8).toNat ≤ Sparse.get 0 s.laneCount 0
    ∧ Sparse.get 0 s.laneCount 1 < ((s.partAt (s.partOfCore 0)).errctl.extractLsb' 8 8).toNat
    ∧ (∀ u ∈ [0, 2], (live.partAt (live.partOfUnit u)).patcfg.getLsbD 63 = true ∧ live.memctl.fallback.getLsbD (u / 2) = false ∧ 0x2600 + u ∉ (live.partAt (live.partOfUnit u)).frozenEngines)
    ∧ live.denied (.mem 0) 0x2600 .rd = none ∧ live.denied (.mem 2) 0x2602 .rd ≠ none ∧ Sparse.get 0 live.memctl.patrol 0 = 0
    ∧ Sparse.get false ({ live.memctl with rowParityBad := [(0, true)] } : Memctl).rowParityBad 0 = true := by decide +kernel

theorem witness_patrol_sector : live.intact 0 (0 + 64 * 0) 0 := intact_of_live 0 (by decide)

/-! Translation. -/

/-- A request to the lessor of window 0. -/
def request (id : Nat) (op : PeerOp) (lanes : List Nat) : Sent :=
  { id, stream := 0, pa := 2 ^ 51, n := 64, op, mid := 0x6000, peer := 0, addr := 0, lanes }

/-- A partition with an invalidation to complete and without windows; a request to a lessor of it, and none. -/
def invalidating (out : Bool) : State :=
  let s := live.updPart 0 fun q => { q with inva := [0x5001] }
  { s with link := { s.link with sent := if out then [request 0 .read []] else [] } }

theorem witness_invalidation : (∀ b, Memory.wf (invalidating b).mem = true ∧ ((invalidating b).parts[(0 : Fin 8)]).inva = [0x5001] ∧ (∀ h ∈ (invalidating b).harts, h.part.val = 0 → h.win = []))
    ∧ (∀ r ∈ (invalidating false).link.sent, (invalidating false).partOfMaster r.id ≠ 0) ∧ (∃ r ∈ (invalidating true).link.sent, (invalidating true).partOfMaster r.id = 0) := by
  decide +kernel

/-- The walk of partition 0 through tables at 0x1000, 0x2000 and 0x3000, whose last entry is a page of 1 GiB, or one under migration. -/
def walking (mig : Nat) (f : Partition → Partition) : State :=
  let s : State := { live with
    sectors := (List.range' 0 0x440).map fun i => (i, ⟨some 0#4, 0, 0, 0⟩)
    mem := Memory.writeN (Memory.writeN (Memory.writeN [] 0x1000 8 0x2001) 0x2000 8 0x3001) 0x3000 8 (0x7B + mig * 2 ^ 58) }
  s.updPart 0 fun q => f { q with ptroot := BitVec.ofNat 64 (2 ^ 63 + 0x1000), part := BitVec.ofNat 64 (2 ^ 63 + 2 ^ 16) }

def probing (mig : Nat) : State := { walking mig id with cur := { live.cur with wait := .probe 0x100 } }

theorem witness_rewalk (mig : Nat) (h : mig < 2) : Memory.wf (probing mig).mem = true ∧ ∃ s1, (probing mig).walk (probing mig).cur.req 0x100 = (.ok ⟨0x7B + mig * 2 ^ 58, 0x3000, 2 ^ 30⟩, s1) := by
  interval_cases mig <;> exact ⟨by decide +kernel, pair_of (by decide +kernel)⟩

theorem intact_walking (mig : Nat) (f : Partition → Partition) (n : Nat) (h : n < 0x440) : (walking mig f).intact 0 (n * 64) 0 := by
  refine ⟨rfl, by decide, ?_⟩
  show Sparse.get Sector.clean ((List.range' 0 0x440).map fun i => (i, ⟨some 0#4, 0, 0, 0⟩)) (n * 64 / 64) = _
  exact get_tagged _ _ _ _ _ (Nat.zero_le _) (by omega)

/-- Commands to move the page at 0: to an address inside it, into a stack that another partition holds, and to the next GiB. -/
def moving (dst : Nat) : State := walking 0 fun q => { q with mdst := BitVec.ofNat 64 dst }

theorem witness_move (dst : Nat) (h : dst ∈ [2 ^ 12, 2 ^ 30, 2 ^ 36]) : Memory.wf (moving dst).mem = true ∧ ((moving dst).parts[(0 : Fin 8)]).migration = none ∧ 0x2200 ∉ ((moving dst).parts[(0 : Fin 8)]).frozenEngines
    ∧ (moving dst).walk ⟨0x2200, .s, 0, none⟩ 0 = (.ok ⟨0x7B, 0x3000, 2 ^ 30⟩, moving dst) ∧ (moving dst).admits 0x2200 0x3000 0 .wr ∧ (moving dst).noWindows 0 := by
  have tables : (moving dst).tables = live.tables := rfl
  simp only [List.mem_cons, List.not_mem_nil, or_false] at h
  refine ⟨(by decide +kernel : Memory.wf (walking 0 id).mem = true), rfl, nofun, ?_, ⟨0, by decide, by rw [denied_of tables]; decide +kernel, intact_walking 0 _ (0x3000 / 64) (by decide)⟩, ?_⟩
  · rcases h with rfl | rfl | rfl <;> exact Prod.ext (by decide +kernel) rfl
  · have : ∀ h ∈ live.harts, h.part.val = 0 → h.win = [] := by decide +kernel
    exact this

theorem witness_move_places : (2 ^ 12) % 2 ^ 30 ≠ 0 ∧ placeOf (2 ^ 36) = .dram 2 ∧ ((moving (2 ^ 36)).parts[(0 : Fin 8)]).holdsUnit 2 = false
    ∧ placeOf (2 ^ 30) = .dram 0 ∧ placeOf (2 ^ 30 + 2 ^ 30 - 1) = .dram 0 ∧ ((moving (2 ^ 30)).parts[(0 : Fin 8)]).holdsUnit 0 = true
    ∧ (live.walk ⟨0x2200, .s, 1, none⟩ 0).1 = .error (.fault 1) ∧ (live.parts[(1 : Fin 8)]).refused = [] := by decide +kernel

/-- A page of 4 KiB on its way from 0x10000 to 0x20000. -/
def carried : Migration := ⟨0, 4096, 0x10000, 0x20000, [0x3000], 0x1007B⟩
def carrying : State := walking 0 fun q => { q with migration := some carried }

theorem witness_carry : Memory.wf carrying.mem = true ∧ (carrying.parts[(0 : Fin 8)]).migration = some carried ∧ 0x2200 ∉ (carrying.parts[(0 : Fin 8)]).frozenEngines ∧ carrying.noWindows 0
    ∧ (∀ r ∈ carrying.link.sent, ¬within carried.oldPa carried.size r.pa) ∧ carried.leaf.toNat / 2 ^ 59 % 16 = 0
    ∧ (∀ n < carried.size / 64, carrying.admits 0x2200 (carried.oldPa + 64 * n) 0 .rd
      ∧ ∃ u, placeOf (carried.newPa + 64 * n) = .dram u ∧ carrying.denied (.mem u) 0x2200 .wr = none)
    ∧ carrying.admits 0x2200 0x3000 0 .wr ∧ apart carried.oldPa carried.size carried.newPa carried.size ∧ apart 0x3000 8 carried.newPa carried.size
    ∧ apart 0x3000 8 carried.oldPa carried.size ∧ 0x3000 + 64 ≤ carried.newPa := by
  have tables : carrying.tables = live.tables := rfl
  have windows : ∀ h ∈ live.harts, h.part.val = 0 → h.win = [] := by decide +kernel
  refine ⟨by decide +kernel, rfl, nofun, windows, nofun, by decide, ?_, ⟨0, by decide, by rw [denied_of tables]; decide +kernel, intact_walking 0 _ (0x3000 / 64) (by decide)⟩,
    by unfold apart; decide, by unfold apart; decide, by unfold apart; decide, by decide⟩
  intro n hn
  have hn : n < 64 := hn
  have place : ∀ pa < 2 ^ 35, placeOf pa = .dram 0 := by
    intro pa h
    unfold placeOf
    rw [if_pos (by omega), Nat.div_eq_of_lt h]
  refine ⟨⟨0, place _ (by show 0x10000 + 64 * n < _; omega), by rw [denied_of tables]; decide +kernel, ?_⟩,
    0, place _ (by show 0x20000 + 64 * n < _; omega), by rw [denied_of tables]; decide +kernel⟩
  rw [show (carried.oldPa + 64 * n) / 64 * 64 = (0x400 + n) * 64 by show (0x10000 + 64 * n) / 64 * 64 = _; omega]
  exact intact_walking 0 _ _ (by omega)

/-! The links. -/

/-- Function 0, and function 1 of partition 0, each in use, frozen, or not assigned. -/
def functions (w : Word) : State := { live with link := { live.link with fnctl := [(0, w), (1, w)] }, queues := announced :: live.queues }

theorem witness_functions : Memory.wf (functions 0x8000000000000000).mem = true ∧ (functions 0x8000000000000000).link.fnctl.length = 2
    ∧ (∀ fn ∈ [0, 1], (Sparse.get 0 (functions 0x4000000000000000).link.fnctl fn).getLsbD 62 = true
      ∧ (Sparse.get 0 (functions 0).link.fnctl fn).getLsbD 62 = false ∧ (Sparse.get 0 (functions 0).link.fnctl fn).getLsbD 63 = false
      ∧ (Sparse.get 0 (functions 0x8000000000000000).link.fnctl fn).getLsbD 62 = false ∧ (Sparse.get 0 (functions 0x8000000000000000).link.fnctl fn).getLsbD 63 = true
      ∧ (Sparse.get 0 (functions 0x8000000000000000).link.fnctl fn).toNat / 2 ^ 45 % 8 = 0)
    ∧ (functions 0x8000000000000000).queue? 5 = some announced ∧ announced.qd0.getLsbD 63 = true ∧ announced.part.val = 0 ∧ (functions 0x8000000000000000).queue? 6 = none
    ∧ (Sparse.get 0 (functions 0x8000200000000000).link.fnctl 1).toNat / 2 ^ 45 % 8 = 1 := by
  decide +kernel

/-- Memory that function 1 reaches, an address beyond BAR4, and the system block open to function 0. -/
theorem witness_bars : (∀ a ∈ [Acc.load, Acc.store], (functions 0x8000000000000000).reachedBy (fun _ => False) ⟨0x4000 + 1, .u, 0, none⟩ a 0x100 8 0x100)
    ∧ 2 ^ 40 < (BitVec.ofNat 64 (2 ^ 40)).toNat + 8 ∧ (∀ p ∈ [Perm.rd, Perm.wr], (live.putTable (.system 0) 1 openEntry).denied (.system 0) 0x4000 p = none)
    ∧ live.sec.boot ≠ .recovery ∧ ({ live.sec with boot := .recovery } : Security).boot = .recovery := by
  have walk : State.lowWalk (functions 0x8000000000000000) 0 := by
    refine ⟨rfl, ?_, ?_, ?_⟩ <;>
      (unfold State.headOf; rw [show (functions 0x8000000000000000).queues = announced :: live.queues from rfl, List.find?_cons_of_neg (by decide)]; rfl)
  refine ⟨?_, by decide, by decide +kernel, by decide, rfl⟩
  intro a ha
  refine reachedBy_low walk (by decide) (by decide) ?_ (by decide) (intact_of_live 4 (by decide))
  simp only [List.mem_cons, List.not_mem_nil, or_false] at ha
  rcases ha with rfl | rfl <;> (rw [denied_of (t := live) (s := functions 0x8000000000000000) rfl]; decide +kernel)

/-- A peer that port 0 admits, that a port refuses, and that is frozen; with and without a link. -/
def peering (hart : Nat) : State := { live with links := [⟨4, 0x100, hart, 0, 0⟩], link := { live.link with peerst := [(1, 0x8000000000000000)] } }

theorem witness_peers : (∀ h, Memory.wf (peering h).mem = true) ∧ (Sparse.get 0 (peering 0).link.peerst 0).getLsbD 63 = false ∧ (Sparse.get 0 (peering 0).link.peerst 1).getLsbD 63 = true
    ∧ (∀ p ∈ [Perm.rd, Perm.wr, Perm.rmw], (peering 0).denied (.port 0) 0x6000 p = none ∧ (peering 0).denied (.mem 0) 0x6000 p = none)
    ∧ (((peering 0).putTable (.mem 0) 0 0).denied (.port 0) 0x6000 .wr = none ∧ ((peering 0).putTable (.mem 0) 0 0).denied (.mem 0) 0x6000 .wr ≠ none) ∧ (peering 0).denied (.port 1) 0x6000 .wr ≠ none
    ∧ (∃ l ∈ (peering 0x6000).links, l.line = 0x100 / 64 ∧ l.hart = 0x6000) ∧ (∀ l ∈ (peering 0).links, l.line = 0x100 / 64 → l.hart ≠ 0x6000)
    ∧ (∀ l ∈ (peering 0x6000).links, l.line = 0x100 / 64 → l.hart = 0x6000) ∧ 0x100 % 8 = 0 :=
  ⟨fun _ => rfl, by decide +kernel⟩

/-- Requests of a function, a revocation under way, a request to lease window 0. -/
theorem witness_requests : (∃ r ∈ [((1 : Nat), (0 : Word), (0 : Size), (none : Option Word))], r.1 = 1) ∧ (∀ r ∈ live.link.outstanding, r.1 ≠ 1)
    ∧ ({ live.link with lrvst := 1 } : LinkBlock).lrvst.getLsbD 0 = true ∧ live.link.lrvst.getLsbD 0 = false
    ∧ 0x8000000100000000#64 &&& ~~~0x800003FF000000FF#64 = 0 ∧ (∀ h ∈ live.harts, h.win = [])
    ∧ (∃ r ∈ (invalidating true).link.sent, within (2 ^ 51 + 0 * 2 ^ 40) (2 ^ 40) r.pa) ∧ (invalidating false).link.sent = [] := by
  unfold within
  decide +kernel

/-- One request to a lessor is out: of a load that waits, of a store, of a scatter or of an engine. -/
def asking (r : Sent) : State := { liveWith fun h => { h with wait := .peer (2 ^ 51) } with link := { live.link with sent := [r] } }

theorem leads_asking (r : Sent) : (asking r).leads r = true := by
  have : (asking r).link.sent.find? (Sent.meets r) = some r := List.find?_cons_of_pos (by simp [Sent.meets])
  unfold State.leads
  rw [this]
  exact beq_self_eq_true _

theorem oldest_asking (r : Sent) : (asking r).link.sent.find? (fun x => x.id == r.id && x.pa / 64 == r.pa / 64) = some r :=
  List.find?_cons_of_pos (by simp)

theorem isOut_asking (r : Sent) : (asking r).isOut r = true := by
  unfold State.isOut
  by_cases h : askerOf r.id < 1536
  · rw [show (asking r).sentBy (askerOf r.id / 4) = [r] by simp [State.sentBy, asking, h]]
    simp
  · simp only [Bool.or_eq_true, decide_eq_true_eq]
    exact .inl (Nat.le_of_not_lt h)

theorem witness_answers (op : PeerOp) : let r := request 0 op []
    Memory.wf (asking r).mem = true ∧ (asking r).leads r = true ∧ (asking r).isOut r = true
    ∧ (asking r).link.sent.find? (fun x => x.id == r.id && x.pa / 64 == r.pa / 64) = some r ∧ r.lanes = [] ∧ r.report = none ∧ r.id < 0x20000
    ∧ (asking r).link.sent.find? (fun x => askerOf x.id == askerOf r.id && (asking r).isOut x && (asking r).leads x) = some r
    ∧ (asking r).cur.wait = .peer (2 ^ 51) ∧ r.id = (asking r).cur.id ∧ (asking r).partOfMaster 0 < 8
    ∧ answersOp .read .done = false ∧ answersOp op .refused = true := by
  refine ⟨rfl, leads_asking _, isOut_asking _, oldest_asking _, rfl, rfl, (by decide : (0 : Nat) < 0x20000), List.find?_cons_of_pos ?_, rfl, rfl, ?_, rfl, by cases op <;> rfl⟩
  · rw [leads_asking, isOut_asking]
    simp
  · show live.partOfMaster 0 < 8
    decide +kernel

/-- A store of the Mandrel of hart 0, and one that holds an element of a scatter in lane 3. -/
theorem witness_answers_stores : (∀ r ∈ [request (engineId 0) (.write 0 0) [], request 0 (.write 0 0) [3]], (asking r).leads r = true ∧ (asking r).isOut r = true
      ∧ (asking r).link.sent.find? (fun x => x.id == r.id && x.pa / 64 == r.pa / 64) = some r)
    ∧ engineId 0 = engineId (askerOf (engineId 0)) ∧ askerOf (engineId 0) < 1536 ∧ live.cur.id < 0x8000 ∧ live.saved = [] ∧ live.cur.gang = some 1
    ∧ (live.gang? 1).isSome = true :=
  ⟨fun r _ => ⟨leads_asking r, isOut_asking r, oldest_asking r⟩, by decide, by decide, by decide, rfl, rfl, by decide +kernel⟩

/-! ### Resets, security and the management cores -/

/-- A boot to come, with two slots. -/
def booting (a b : Option Config.Image) : State := { State.reset with sec := { State.reset.sec with slotA := a, slotB := b } }

/-- Any image that passes the checks, in slot A or in slot B behind a slot that fails; and two slots that fail. -/
theorem witness_boot (m : Config.Image) (h : imageFailure (some m) = 0) : (booting none none).sec.boot = .pending ∧ (booting none none).sec.log = []
    ∧ ((booting (some m) none).sec.slotA = some m ∧ imageFailure (some m) = 0)
    ∧ (imageFailure (booting none (some m)).sec.slotA ≠ 0 ∧ (booting none (some m)).sec.slotB = some m ∧ imageFailure (some m) = 0)
    ∧ imageFailure (booting none none).sec.slotA ≠ 0 ∧ imageFailure (booting none none).sec.slotB ≠ 0
    ∧ live.sec.boot ≠ .pending ∧ (∃ k ∈ State.reset.harts, k.wait = .held) ∧ Memory.wf live.mem = true :=
  ⟨rfl, rfl, ⟨rfl, h⟩, ⟨by show imageFailure none ≠ 0; decide, rfl, h⟩, by decide, by decide, by decide, ⟨Hart.management 0, by decide +kernel, rfl⟩, rfl⟩

/-- The measurement log is full, and the boot is over. -/
theorem witness_measurements : State.reset.sec.log.length < 64 ∧ 64 ≤ ({ State.reset.sec with log := List.replicate 64 ⟨0, 0, 0⟩ } : Security).log.length
    ∧ State.reset.sec.bootst.getLsbD 63 = false ∧ ({ State.reset.sec with bootst := 0x8000000000000000 } : Security).bootst.getLsbD 63 = true := by decide

/-- The management cores run at M, as the boot releases them. -/
def rooted : State := { live with others := live.others.map fun h => { h with prv := .m } }

/-- Root firmware, and a block that refuses it. -/
theorem witness_root : rooted.sec.boot ≠ .recovery ∧ rooted.hart? 0x8000 = some { Hart.management 0 with prv := .m } 
    ∧ (Hart.management 0).frozen = false ∧ Sparse.wf 0 rooted.tables = true ∧ (∀ t ∈ [Target.system 1, .system 2, .system 3], ∀ p ∈ [Perm.rd, Perm.wr], rooted.denied t 0x8000 p = none)
    ∧ (Sparse.get 0 live.link.groups 0).getLsbD 63 = false ∧ (live.putTable (.system 3) 0 0).denied (.system 3) 0x8000 .wr = some 0
    ∧ ({ Hart.management 0 with prv := .m, frozen := true } : Hart).frozen = true := by decide +kernel

/-- Management core 0 at S with an interrupt of its own level pending, one of M, or none; it waits in IDLE. -/
def interrupted (s m : Word) : State :=
  { live with
    cur := { Hart.management 0 with prv := .s, wait := .idle, sset := { TrapSet.launch with tstate := s }, mset := { TrapSet.launch with tstate := m } }
    others := (List.finRange 7).map fun i => Hart.management i.succ }

theorem witness_interrupts : (interrupted 0x20000 0).cur.id = 0x8000 + (0 : Fin 8).val ∧ (interrupted 0x20000 0).cur.lane = none
    ∧ (interrupted 0 0).cur.interrupt? = none ∧ (interrupted 0x20000 0).cur.interrupt? = some (.s, 1) ∧ (interrupted 0x20000 0x10000).cur.interrupt? = some (.m, 0)
    ∧ ∀ x ∈ [((0x20000 : Word), (0 : Word), Level.s), (0x20000, 0x10000, .m)],
      let s := interrupted x.1 x.2.1
      s.cur.wait.atBoundary = true ∧ s.cur.undivided = false ∧ (∀ e ∈ s.peerData, e.1.id ≠ s.cur.id) ∧ s.clearStream 0 true ∧ s.clearBytes 0 512
        ∧ s.cur.mset.tstate.getLsbD 7 = false ∧ ((if x.2.2 = .m then s.cur.mset.tframe else s.cur.sset.tframe) &&& 0x01FFFFFFFFFFFE00#64).toNat = 0
        ∧ ∃ s2, State.writeFrame { ({ s.cur.past with wait := .run } : Hart).req with level := x.2.2 } 8 0 ({ s.cur.past with wait := .run } : Hart).frameWords
          { s with cur := { s.cur.past with wait := .run }, links := s.links.filter fun l => l.hart != s.cur.id } = (.done, s2) := by
  refine ⟨rfl, rfl, by decide +kernel, by decide +kernel, by decide +kernel, ?_⟩
  intro x hx
  simp only [List.mem_cons, List.not_mem_nil, or_false] at hx
  rcases hx with rfl | rfl <;> exact ⟨rfl, rfl, nofun, rfl, rfl, by decide, by decide +kernel, pair_of (by decide +kernel)⟩

end Sys2Proof.Tests
end

namespace Sys2Proof.Machine

open Sys2Proof

/-! ### Instructions outside a lane block and without lent state -/

theorem begin_never_of_plain {s : State} (h : s.cur.plain) (inLane : Bool) : begin inLane .never s = .ok ((), s) := by
  obtain ⟨hlane, hlent⟩ := h
  simp [begin_run, Hart.pairOk, hlane, hlent]

/-! ### Reference registers -/

/-- The model's reference register is one that R206 admits, with the width of its format. -/
theorem Hart.reference?_eq_some_iff {h : Hart} {r : VReg} {g w : Nat} :
    h.reference? r = some (g, w) ↔ ∃ f, h.Refers r g f ∧ f.width = w := by
  unfold Hart.reference? Hart.Refers
  dsimp only
  split
  · rename_i hf
    rw [hf]
    simp
  · rename_i f hf
    rw [hf]
    split
    · rename_i hr
      constructor
      · rintro ⟨⟩
        exact ⟨f, ⟨rfl, rfl, beq_iff_eq.mp hr⟩, rfl⟩
      · rintro ⟨_, ⟨rfl, ⟨⟩, -⟩, rfl⟩
        rfl
    · rename_i hr
      constructor
      · rintro ⟨⟩
      · rintro ⟨_, ⟨rfl, -, h0⟩, -⟩
        exact absurd (beq_iff_eq.mpr h0) hr

theorem reference_of_refers {s : State} {r : VReg} {g : Nat} {f : Fmt} (h : s.cur.Refers r g f) :
    reference r s = .ok ((g, f.width), s) := by
  have hr : s.cur.reference? r = some (g, f.width) := Hart.reference?_eq_some_iff.mpr ⟨f, h, rfl⟩
  unfold reference
  rw [Act.bind_ok (hart_run s), hr]
  rfl

theorem reference_of_not_refers {s : State} {r : VReg} (h : ¬∃ g f, s.cur.Refers r g f) :
    reference r s = .error (.trap { code := 0x03 } s) := by
  have hr : s.cur.reference? r = none := by
    rw [Option.eq_none_iff_forall_ne_some]
    rintro ⟨g, w⟩ hw
    obtain ⟨f, hf, -⟩ := Hart.reference?_eq_some_iff.mp hw
    exact h ⟨g, f, hf⟩
  unfold reference
  rw [Act.bind_ok (hart_run s), hr]
  rfl

/-! ### Widths and lengths -/

theorem narrowFmt_width {d : BitVec 32} {f : FloatFmt} (h : narrowFmt d = some f) : 2 ≤ f.width ∧ f.width ≤ 8 := by
  simp only [narrowFmt, Option.ite_none_left_eq_some, Bool.or_eq_true, decide_eq_true_eq, not_or, Option.some.injEq] at h
  obtain ⟨⟨⟨⟨⟨h2, h8⟩, hs⟩, -⟩, -⟩, rfl⟩ := h
  have hsign : fld d.toNat 8 8 < 2 := Nat.mod_lt _ (by decide)
  simp only [FloatFmt.width, beq_iff_eq]
  split <;> omega

/-- The width of a format is 1 to 64 bits (R57, R59). -/
theorem fmtOf_width {v : Vector (BitVec 32) 8} {code : Nat} {f : Fmt} (h : fmtOf v code = some f) :
    1 ≤ f.width ∧ f.width ≤ 64 := by
  unfold fmtOf at h
  split at h
  case h_18 =>
    split at h
    · obtain ⟨g, hg, rfl⟩ := Option.map_eq_some_iff.mp h
      have := narrowFmt_width hg
      simp only [Fmt.width]
      omega
    · cases h
  all_goals
    cases h
    decide

/-- A grant of at least 4 lanes and one register gives room for 8 elements of the widest format, and for 512 bits in any. -/
theorem lengthMax_ge {x : Grant} {g : Nat} {f : Fmt} (hlanes : 4 ≤ x.lanes) (hq : 1 ≤ x.q) (hg : 1 ≤ g) :
    512 / f.width ≤ lengthMax x g f := by
  have hbits : 4 * 16 * 1 * 1 * 8 ≤ x.lanes * 16 * x.q * g * 8 := by gcongr
  exact Nat.div_le_div_right hbits

theorem stripLength_eq (req vmax w : Nat) : stripLength req vmax w = stripGl req vmax w := by
  simp only [stripLength, stripGl, Nat.min_assoc, Bool.and_eq_true, decide_eq_true_eq]

theorem stripGl_le (req vmax w : Nat) : stripGl req vmax w ≤ 16384 := by
  have hmin : Min.min req (Min.min vmax 16384) ≤ 16384 := (Nat.min_le_right _ _).trans (Nat.min_le_right _ _)
  simp only [stripGl]
  split
  · exact (Nat.sub_le _ _).trans hmin
  · exact hmin

/-- A request of one or more is not rounded down to nothing: a length that falls short of it is at least 8 in a sub-byte format. -/
theorem stripGl_pos {req vmax w : Nat} (hreq : 0 < req) (hw : 1 ≤ w ∧ w ≤ 64) (hvmax : 512 / w ≤ vmax) :
    0 < stripGl req vmax w := by
  have h8 : 8 ≤ 512 / w := (Nat.le_div_iff_mul_le hw.1).mpr (by omega)
  have hround : 0 < 8 / w → ∀ n, 8 ≤ n → 0 < n - n % (8 / w) := by
    intro hpos n hn
    have := Nat.mod_lt n hpos
    have := Nat.div_le_self 8 w
    omega
  simp only [stripGl]
  split
  · rename_i hshort
    exact hround (Nat.div_pos (by omega) hw.1) _ (by omega)
  · omega

/-! ### STRIP: the pending grant, the pointers and the gang -/

theorem Hart.adopt_eq (h : Hart) : h.adopt = h.adopted := by
  unfold Hart.adopt Hart.adopted
  cases h.pending with
  | none => rfl
  | some p =>
    cases hc : h.child <;> simp [Hart.share, hc]

theorem Hart.adopted_frame (h : Hart) :
    h.adopted = { h with grant := h.adopted.grant, forkGrant := h.adopted.forkGrant, pending := none } := by
  unfold Hart.adopted
  cases hp : h.pending
  · cases h
    subst hp
    rfl
  · rfl

theorem Hart.advancePointer_frame (h : Hart) (i : AReg) (c : BitVec 3) (gl : Nat) :
    h.advancePointer i c gl = { h with a := (h.advancePointer i c gl).a } := by
  unfold Hart.advancePointer Hart.wa
  split <;> rfl

/-- A pointer of a width code other than 0 advances by the bytes of GL elements (R205); no other does. -/
theorem Hart.advancePointer_a (h : Hart) (i j : AReg) (c : BitVec 3) (gl : Nat) :
    (h.advancePointer i c gl).a[j]
      = if j = i ∧ c ≠ 0 then h.a[j] + BitVec.ofNat 64 ((gl * pointerBits c + 7) / 8) else h.a[j] := by
  unfold Hart.advancePointer
  by_cases hc : c = 0
  · rw [if_pos (beq_iff_eq.mpr hc), if_neg fun e => e.2 hc]
  · rw [if_neg (by simpa using hc)]
    show (h.a.set i.val _ i.isLt)[j.val] = _
    rw [Vector.getElem_set]
    by_cases hj : j = i
    · subst hj
      rw [if_pos rfl, if_pos ⟨rfl, hc⟩]
      rfl
    · rw [if_neg fun e => hj (Fin.ext e.symm), if_neg fun e => hj e.1]
      rfl

theorem Hart.advancePointers_eq (h : Hart) (gl : Nat) (code : Nat → BitVec 3) :
    (((h.advancePointer 0 (code 0) gl).advancePointer 1 (code 1) gl).advancePointer 2 (code 2) gl).advancePointer 3 (code 3) gl
      = { h with a := Vector.ofFn fun i => if i.val < 4 ∧ code i.val ≠ 0
            then h.a[i] + BitVec.ofNat 64 ((gl * pointerBits (code i.val) + 7) / 8) else h.a[i] } := by
  have ha : ((((h.advancePointer 0 (code 0) gl).advancePointer 1 (code 1) gl).advancePointer 2 (code 2) gl).advancePointer 3 (code 3) gl).a
      = Vector.ofFn fun i => if i.val < 4 ∧ code i.val ≠ 0
            then h.a[i] + BitVec.ofNat 64 ((gl * pointerBits (code i.val) + 7) / 8) else h.a[i] := by
    apply Vector.ext
    intro i hi
    rw [Vector.getElem_ofFn]
    show (Hart.a _)[(⟨i, hi⟩ : AReg)] = _
    simp only [Hart.advancePointer_a, Fin.ext_iff, Fin.val_zero, Fin.val_one, Fin.val_two, show (3 : AReg).val = 3 from rfl]
    by_cases h4 : i < 4
    · interval_cases i <;> simp
    · rw [if_neg (by omega), if_neg (by omega), if_neg (by omega), if_neg (by omega), if_neg (by omega)]
  rw [Hart.advancePointer_frame _ 3, ha, Hart.advancePointer_frame _ 2, Hart.advancePointer_frame _ 1, Hart.advancePointer_frame _ 0]

/-- The hart that the body of STRIP makes, before it retires. -/
def Hart.strip (h : Hart) (sa : SReg) (g w : Nat) (code : Nat → BitVec 3) : Hart :=
  let k := h.adopt
  let gl := stripLength (k.rs sa).toNat (vlmax k.grant g w) w
  (((({ k with gl := BitVec.ofNat 15 gl } : Hart).advancePointer 0 (code 0) gl).advancePointer 1 (code 1) gl).advancePointer 2
    (code 2) gl).advancePointer 3 (code 3) gl

/-- Past the instruction it is the hart that R28 gives. -/
theorem Hart.strip_past (h : Hart) (sa : SReg) (g : Nat) (f : Fmt) (code : Nat → BitVec 3) :
    (h.strip sa g f.width code).past = h.stripped sa g f code := by
  have hrs : h.adopted.rs sa = h.rs sa := by rw [Hart.adopted_frame]; rfl
  have ha : h.adopted.a = h.a := by rw [Hart.adopted_frame]
  simp only [Hart.stripped, Hart.strip, Hart.adopt_eq, Hart.advancePointers_eq, stripLength_eq, hrs, ha]
  rfl

theorem Hart.strip_id (h : Hart) (sa : SReg) (g w : Nat) (code : Nat → BitVec 3) : (h.strip sa g w code).id = h.id := by
  simp only [Hart.strip, Hart.advancePointers_eq, Hart.adopt_eq]
  rw [Hart.adopted_frame]

/-- GL of a STRIP by a hart with lanes and registers granted is at least one for a request of one or more (R28). -/
theorem Hart.stripped_gl_pos {h : Hart} {sa : SReg} {r : VReg} {g : Nat} {f : Fmt} (code : Nat → BitVec 3)
    (href : h.Refers r g f) (hlanes : 4 ≤ h.adopted.grant.lanes) (hq : 1 ≤ h.adopted.grant.q) (hreq : h.rs sa ≠ 0) :
    0 < (h.stripped sa g f code).gl.toNat := by
  obtain ⟨hg, hf, -⟩ := href
  have hg1 : 1 ≤ g := hg ▸ Nat.one_le_two_pow
  have hreq0 : 0 < (h.rs sa).toNat := Nat.pos_of_ne_zero fun e => hreq (BitVec.eq_of_toNat_eq e)
  have hpos := stripGl_pos hreq0 (fmtOf_width hf) (lengthMax_ge (f := f) hlanes hq hg1)
  have hle := stripGl_le (h.rs sa).toNat (lengthMax h.adopted.grant g f) f.width
  show 0 < (BitVec.ofNat 15 (stripGl (h.rs sa).toNat (lengthMax h.adopted.grant g f) f.width)).toNat
  rwa [BitVec.toNat_ofNat, Nat.mod_eq_of_lt (by omega)]

theorem SameGangs.refl (xs : List Gang) : SameGangs xs xs := rfl

/-- The gang of a settled grant differs in its grants alone, and so does the state in its gangs. -/
theorem State.settleGrant_eq (s : State) (g : Nat) : ∃ gs, s.settleGrant g = { s with gangs := gs } ∧ SameGangs gs s.gangs := by
  unfold State.settleGrant
  split
  · exact ⟨s.gangs, rfl, .refl _⟩
  · split
    · refine ⟨_, rfl, ?_⟩
      unfold SameGangs
      rw [List.map_map]
      refine List.map_congr_left fun x _ => ?_
      dsimp only [Function.comp_apply]
      split <;> rfl
    · exact ⟨s.gangs, rfl, .refl _⟩

theorem settleCur_run (s : State) : ∃ gs, settleCur s = .ok ((), { s with gangs := gs }) ∧ SameGangs gs s.gangs := by
  show ∃ gs, Except.ok ((), match s.cur.gang with | some g => s.settleGrant g | none => s) = _ ∧ _
  cases s.cur.gang with
  | none => exact ⟨s.gangs, rfl, .refl _⟩
  | some g =>
    obtain ⟨gs, hs, hg⟩ := s.settleGrant_eq g
    exact ⟨gs, by rw [← hs], hg⟩

/-! ### The cases of STRIP -/

section Strip
variable {s : State} {sa : SReg} {vref : VRef} {code : Nat → BitVec 3}

theorem legal_widthCodes (hcode : ∀ i, code i ≠ 7) (s : State) :
    legal (code 0 != 7 && code 1 != 7 && code 2 != 7 && code 3 != 7) s = .ok ((), s) := by
  rw [legal_run, if_pos (by simpa using ⟨⟨⟨hcode 0, hcode 1⟩, hcode 2⟩, hcode 3⟩)]

/-- A width code of 7 is illegal before anything else is looked at (R205). -/
theorem execStrip_of_illegal {i : Nat} (hi : i < 4) (h7 : code i = 7) :
    execStrip sa vref (code 3) (code 2) (code 1) (code 0) s = s.takeTrap { code := 0x01 } := by
  have hbad : (code 0 != 7 && code 1 != 7 && code 2 != 7 && code 3 != 7) = false := by
    interval_cases i <;> simp [h7]
  refine run_trap (Act.bind_error ?_)
  rw [legal_run, hbad]
  rfl

/-- STRIP of legal width codes whose reference register R206 refuses. -/
theorem execStrip_of_not_refers (hcode : ∀ i, code i ≠ 7) (hp : s.cur.plain)
    (href : ¬∃ g f, s.cur.Refers (vref.castLE (by decide)) g f) :
    execStrip sa vref (code 3) (code 2) (code 1) (code 0) s = s.takeTrap { code := 0x03 } := by
  refine run_trap ?_
  rw [Act.bind_ok (legal_widthCodes hcode s), Act.bind_ok (begin_never_of_plain hp false)]
  exact Act.bind_error (reference_of_not_refers href)

/-- STRIP of legal width codes with a reference register completes; beside the hart it changes the grants of gangs alone. -/
theorem execStrip_of_refers {g : Nat} {f : Fmt} (hcode : ∀ i, code i ≠ 7) (hp : s.cur.plain)
    (href : s.cur.Refers (vref.castLE (by decide)) g f) :
    ∃ gs, execStrip sa vref (code 3) (code 2) (code 1) (code 0) s
      = .next { s.after (s.cur.stripped sa g f code) with gangs := gs } ∧ SameGangs gs s.gangs := by
  obtain ⟨gs, hgs, hsame⟩ := settleCur_run { s with cur := s.cur.strip sa g f.width code }
  refine ⟨gs, ?_, hsame⟩
  have hbody : execStrip sa vref (code 3) (code 2) (code 1) (code 0) s
      = .next ({ s with cur := s.cur.strip sa g f.width code, gangs := gs } : State).retire := by
    refine run_ok ?_
    rw [Act.bind_ok (legal_widthCodes hcode s), Act.bind_ok (begin_never_of_plain hp false), Act.bind_ok (reference_of_refers href)]
    exact (Act.bind_ok (updCur_run _ s)).trans hgs
  rw [hbody, State.retire_after { s with gangs := gs } _ (Hart.strip_id ..), Hart.strip_past]
  rfl

end Strip

end Sys2Proof.Machine

namespace Sys2Proof.Proofs

open Sys2Proof Sys2Proof.Machine

/-- Settles O24: the meaning's hart is the rule's in every case of STRIP, and the grant of its gang is settled beside it. -/
theorem stripLength : Obligations.StripLength := by
  unfold Obligations.StripLength
  intro s sa vref w3 w2 w1 w0 hp r code
  refine ⟨?_, fun hcode => ⟨execStrip_of_not_refers (code := code) hcode hp, fun g f href => ?_⟩⟩
  · rintro ⟨i, h7⟩
    have hi : i < 4 := by
      by_contra hge
      have h0 : code i = 0 := List.getD_eq_default _ _ (by simpa using hge)
      exact absurd (h0.symm.trans h7) (by decide)
    exact execStrip_of_illegal (code := code) hi h7
  · obtain ⟨gs, hexec, hsame⟩ := execStrip_of_refers (sa := sa) (code := code) hcode hp href
    exact ⟨_, hexec, hsame, rfl, Hart.stripped_gl_pos code href⟩

end Sys2Proof.Proofs

namespace Sys2Proof.Machine

open Sys2Proof

/-! ### One located access -/

/-- The probe decides a scalar access that nothing of the hart's engines is in the way of. -/
theorem locate_of_clear {s : State} {va n : Nat} (h : s.clearBytes va n) (a : Acc) (unaligned : Bool) (c : Ctx) :
    locate a unaligned c va n s = settle a c va (s.probed s.cur.req a unaligned va n) s := by
  have hwait : waitFor (.buffer va n) s = .ok ((), s) := by
    rw [waitFor_run]
    exact if_pos h
  unfold locate
  rw [Act.bind_ok hwait]
  rfl

/-! ### CLAIM: its descriptor and its run -/

/-- The run that a CLAIM of a request takes of a descriptor with this next index and limit, under a maximum length (R46). -/
def claimRun (req vmax next limit : Nat) : Nat :=
  if limit ≤ next then 0 else min (min req vmax) (min (limit - next) 16384)

/-- A claimed run reaches the descriptor when it is empty, stored here, or stored at the lessor. -/
inductive Claimed (s : State) (stream : Nat) (l : Loc) (va next run : Nat) : State → Prop
  | none : run = 0 → Claimed s stream l va next run s
  | here : run ≠ 0 → l.leased = false → Claimed s stream l va next run (s.storeAt s.cur.id l 8 (next + run) stream).2
  | lessor {s' : State} : run ≠ 0 → l.leased = true →
      s.leaseConditional s.cur.id stream [⟨{ elem := 0, va := va, n := 8, x := next + run }, l⟩] = (.ok true, s') →
      Claimed s stream l va next run (s'.breakLine l.line)

theorem claimRun_eq (req next limit : Nat) (x : Grant) (g : Nat) (f : Fmt) :
    claimRun req (vlmax x g f.width) next limit
      = if limit ≤ next then 0 else Min.min req (Min.min (lengthMax x g f) (Min.min (limit - next) 16384)) := by
  unfold claimRun
  rw [Nat.min_assoc]
  rfl

/-- What follows the store part of CLAIM goes on in the state that the claimed run leaves. -/
theorem claimStore_then {s s2 s3 u : State} {stream : Nat} {l : Loc} {va next run : Nat} (k : Unit → Act Unit)
    (h : Claimed s2 stream l va next run s3) :
    (if run == 0 then set s2 >>= k else claimStore s s2 stream l va (next + run) >>= k) u = k () s3 := by
  cases h with
  | none h0 =>
    subst h0
    rfl
  | here h0 hl =>
    rw [if_neg (by simpa using h0), claimStore, hl]
    rfl
  | lessor h0 hl hcond =>
    rw [if_neg (by simpa using h0), claimStore, hl, hcond]
    rfl

section Claim
variable {s s1 s2 : State} {sd sa : SReg} {base : AReg} {vref : VReg} {st : Stream}

theorem execClaim_of_not_refers (hp : s.cur.plain) (href : ¬∃ g f, s.cur.Refers vref g f) :
    execClaim sd sa base vref st s = s.takeTrap { code := 0x03 } := by
  refine run_trap ?_
  rw [Act.bind_ok (begin_never_of_plain hp false)]
  exact Act.bind_error (reference_of_not_refers href)

variable {g : Nat} {f : Fmt} (hp : s.cur.plain) (href : s.cur.Refers vref g f) (hst : s.clearStream st.val true)
include hp href hst

theorem execClaim_of_locate_trap {t : Trap}
    (hloc : locate .rmw false { stream := st.val } (s.cur.a[base]).toNat 16 s = .error (.trap t s1)) :
    execClaim sd sa base vref st s = s1.takeTrap t := by
  refine run_trap ?_
  rw [Act.bind_ok (begin_never_of_plain hp false), Act.bind_ok (reference_of_refers href)]
  exact (Act.bind_ok (hart_run s)).trans <| (Act.bind_ok (waitStream_clear hst)).trans <| Act.bind_error hloc

theorem execClaim_of_refused {t : Target} {k : Nat}
    (hloc : locate .rmw false { stream := st.val } (s.cur.a[base]).toNat 16 s = .ok (.error (t, k), s1)) :
    execClaim sd sa base vref st s = .next (s1.freezeCur t k false false st.val 0 (s.cur.a[base]).toNat) := by
  refine run_stay ?_
  rw [Act.bind_ok (begin_never_of_plain hp false), Act.bind_ok (reference_of_refers href)]
  exact (Act.bind_ok (hart_run s)).trans <| (Act.bind_ok (waitStream_clear hst)).trans <| Act.bind_ok hloc

variable {l : Loc} {cls x : Nat} {cache : SectorCache}
    (hloc : locate .rmw false { stream := st.val } (s.cur.a[base]).toNat 16 s = .ok (.ok l, s1))
    (hread : s1.readPiece [] ⟨{ elem := 0, va := (s.cur.a[base]).toNat, n := 16 }, l⟩ .linked = (.data cls x, cache, s2))
include hloc hread

theorem execClaim_of_memory_error (hcls : 3 ≤ cls) : execClaim sd sa base vref st s =
    s2.takeTrap { code := 0x08, deta := s2.errorAddress l (s.cur.a[base]).toNat 16, cls := cls, acc := 2, stream := st.val } := by
  refine run_trap ?_
  rw [Act.bind_ok (begin_never_of_plain hp false), Act.bind_ok (reference_of_refers href)]
  refine (Act.bind_ok (hart_run s)).trans <| (Act.bind_ok (waitStream_clear hst)).trans <| (Act.bind_ok hloc).trans ?_
  refine (Act.bind_ok (show (get : Act State) s1 = .ok (s1, s1) from rfl)).trans ?_
  unfold Hart.ra
  rw [hread]
  dsimp only
  rw [if_pos hcls]
  rfl

/-- CLAIM of a descriptor that can be read: s[sd] and GL in the state that the claimed run leaves (R46). -/
theorem execClaim_of_claimed {s3 : State} {run : Nat} (hcls : cls < 3)
    (hrun : run = claimRun (s.cur.rs sa).toNat (vlmax s.cur.grant g f.width) (x % 2 ^ 64) (x / 2 ^ 64))
    (h3 : Claimed s2 st.val l (s.cur.a[base]).toNat (x % 2 ^ 64) run s3) :
    execClaim sd sa base vref st s
      = .next (s3.after { s3.cur.wroteOnly sd (BitVec.ofNat 64 (x % 2 ^ 64)) with gl := BitVec.ofNat 15 run }.past) := by
  subst hrun
  rw [← Hart.ws_eq, ← State.retire_after _ _ (by rw [Hart.ws_frame])]
  refine run_ok ?_
  rw [Act.bind_ok (begin_never_of_plain hp false), Act.bind_ok (reference_of_refers href)]
  refine (Act.bind_ok (hart_run s)).trans <| (Act.bind_ok (waitStream_clear hst)).trans <| (Act.bind_ok hloc).trans ?_
  refine (Act.bind_ok (show (get : Act State) s1 = .ok (s1, s1) from rfl)).trans ?_
  unfold Hart.ra
  rw [hread]
  dsimp only
  rw [if_neg (by omega)]
  exact claimStore_then _ h3

end Claim

end Sys2Proof.Machine

namespace Sys2Proof.Proofs

open Sys2Proof Sys2Proof.Machine

/-- Settles O25: the cases of the probe, of the read and of the store, each by the lemma about CLAIM there. -/
theorem claimRange : Obligations.ClaimRange := by
  unfold Obligations.ClaimRange
  intro s s1 s2 sd sa base vref st l cls x cache hp va
  refine ⟨execClaim_of_not_refers hp, fun g f href hst hbuf => ?_⟩
  have hlocate := locate_of_clear hbuf .rmw false { stream := st.val }
  refine ⟨fun t k hprobe => ?_, fun k hprobe => ?_, fun hprobe hread => ?_⟩ <;> rw [hprobe] at hlocate
  · exact execClaim_of_refused hp href hst hlocate
  · exact execClaim_of_locate_trap hp href hst hlocate
  · refine ⟨execClaim_of_memory_error hp href hst hlocate hread, fun hcls => ?_⟩
    intro n lim run s3 hs3
    refine execClaim_of_claimed hp href hst hlocate hread hcls (claimRun_eq ..).symm ?_
    rcases hs3 with ⟨h0, rfl⟩ | ⟨h0, hl, rfl⟩ | ⟨h0, s', hl, rfl, hcond⟩
    · exact .none h0
    · exact .here h0 hl
    · exact .lessor h0 hl hcond

end Sys2Proof.Proofs

namespace Sys2Proof.Machine

open Sys2Proof

/-! ### Scalar operations that complete -/

/-- Lent state whose copy may go with an s-register destination passes the pairing of R174. -/
theorem Hart.pairOk_scalar {h : Hart} (hc : h.scalarCopyOk) : h.pairOk (.maskless .scalar) = true := by
  cases hl : h.lent
  · simp [Hart.pairOk, hl]
  · obtain ⟨hmask, hinv, hcopy⟩ := hc hl
    simp [Hart.pairOk, Hart.copyOk, hl, hmask, hinv, hcopy]

theorem run_scalarOp_of_copyOk {s : State} (hc : s.cur.scalarCopyOk) (d : SReg) (f : Hart → Word) :
    run s (scalarOp d f) = .next (s.after (s.cur.wrote d (f s.cur)).past) := by
  rw [run_scalarOp, if_pos (Hart.pairOk_scalar hc)]

/-! ### Quotients and remainders (R187) -/

theorem quotient_zero (a : Word) : quotient a 0 = 0xFFFFFFFFFFFFFFFF := rfl
theorem quotientU_zero (a : Word) : quotientU a 0 = 0xFFFFFFFFFFFFFFFF := rfl
theorem remainder_zero (a : Word) : remainder a 0 = a := rfl
theorem remainderU_zero (a : Word) : remainderU a 0 = a := rfl

/-- The one quotient that 64 bits do not hold. -/
theorem quotient_overflow : quotient 0x8000000000000000 0xFFFFFFFFFFFFFFFF = 0x8000000000000000 := by decide

theorem remainder_overflow : remainder 0x8000000000000000 0xFFFFFFFFFFFFFFFF = 0 := by decide

theorem quotient_of_ne_zero {b : Word} (a : Word) (hb : b ≠ 0) : quotient a b = a.sdiv b := by
  rw [quotient, if_neg hb]
  exact BitVec.eq_of_toInt_eq ((BitVec.toInt_ofInt _).trans (BitVec.toInt_sdiv a b).symm)

theorem remainder_of_ne_zero {b : Word} (a : Word) (hb : b ≠ 0) : remainder a b = a.srem b := by
  rw [remainder, if_neg hb, ← BitVec.toInt_srem, BitVec.ofInt_toInt]

/-- Every quotient but one is truncated towards zero. -/
theorem quotient_toInt {a b : Word} (hb : b ≠ 0) (hover : ¬(a = 0x8000000000000000 ∧ b = 0xFFFFFFFFFFFFFFFF)) :
    (quotient a b).toInt = a.toInt.tdiv b.toInt := by
  rw [quotient_of_ne_zero a hb]
  exact BitVec.toInt_sdiv_of_ne_or_ne a b (not_and_or.mp hover)

theorem remainder_toInt {b : Word} (a : Word) (hb : b ≠ 0) : (remainder a b).toInt = a.toInt.tmod b.toInt := by
  rw [remainder_of_ne_zero a hb, BitVec.toInt_srem]

theorem abs_tmod_lt_abs (x : Int) {y : Int} (hy : y ≠ 0) : |x.tmod y| < |y| := by
  rw [Int.abs_eq_natAbs, Int.abs_eq_natAbs, Int.natAbs_tmod]
  exact_mod_cast Nat.mod_lt _ (Int.natAbs_pos.mpr hy)

/-- A truncated remainder has the sign of the dividend. -/
theorem tmod_mul_self_nonneg (x y : Int) : 0 ≤ x.tmod y * x := by
  rcases le_total 0 x with hx | hx
  · exact mul_nonneg (Int.tmod_nonneg y hx) hx
  · have hneg : 0 ≤ (-x).tmod y := Int.tmod_nonneg y (neg_nonneg.mpr hx)
    rw [Int.neg_tmod] at hneg
    exact mul_nonneg_of_nonpos_of_nonpos (neg_nonneg.mp hneg) hx

/-- DIV and REM obey the division equation, the remainder below the divisor and of the sign of the dividend. -/
theorem quotient_remainder {a b : Word} (hb : b ≠ 0) (hover : ¬(a = 0x8000000000000000 ∧ b = 0xFFFFFFFFFFFFFFFF)) :
    a.toInt = b.toInt * (quotient a b).toInt + (remainder a b).toInt ∧ |(remainder a b).toInt| < |b.toInt|
      ∧ 0 ≤ (remainder a b).toInt * a.toInt := by
  rw [quotient_toInt hb hover, remainder_toInt a hb]
  have hb0 : b.toInt ≠ 0 := fun e => hb (BitVec.eq_of_toInt_eq e)
  exact ⟨(Int.mul_tdiv_add_tmod _ _).symm, abs_tmod_lt_abs _ hb0, tmod_mul_self_nonneg _ _⟩

/-- DIVU and REMU obey the division equation, the remainder below the divisor. -/
theorem quotientU_remainderU {b : Word} (a : Word) (hb : b ≠ 0) :
    a.toNat = b.toNat * (quotientU a b).toNat + (remainderU a b).toNat ∧ (remainderU a b).toNat < b.toNat := by
  rw [quotientU, remainderU, if_neg hb, if_neg hb, BitVec.toNat_udiv, BitVec.toNat_umod]
  have hb0 : b.toNat ≠ 0 := fun e => hb (BitVec.eq_of_toNat_eq e)
  exact ⟨(Nat.div_add_mod _ _).symm, Nat.mod_lt _ (Nat.pos_of_ne_zero hb0)⟩

end Sys2Proof.Machine

namespace Sys2Proof.Proofs

open Sys2Proof Sys2Proof.Machine

/-- Settles O13: the four results are the model's quotients and remainders, and each row of the table is a lemma about them. -/
theorem divisionTable : Obligations.DivisionTable := by
  unfold Obligations.DivisionTable
  intro s d a b hc
  refine ⟨quotient (s.cur.rs a) (s.cur.rs b), remainder (s.cur.rs a) (s.cur.rs b),
    quotientU (s.cur.rs a) (s.cur.rs b), remainderU (s.cur.rs a) (s.cur.rs b),
    run_scalarOp_of_copyOk hc d _, run_scalarOp_of_copyOk hc d _, run_scalarOp_of_copyOk hc d _, run_scalarOp_of_copyOk hc d _,
    fun hb => ?_, fun ⟨ha, hb⟩ => ?_, quotient_remainder, quotientU_remainderU _⟩
  · rw [hb]
    exact ⟨quotient_zero _, remainder_zero _, quotientU_zero _, remainderU_zero _⟩
  · rw [ha, hb]
    exact ⟨quotient_overflow, remainder_overflow⟩

end Sys2Proof.Proofs

namespace Sys2Proof.Machine

open Sys2Proof

/-! ### What accesses to memory leave of the issuing hart

A probe or a store may signal an error to the S set of a management core (R409), and a store is noted in the view of a hart's fetch (R201);
neither changes anything else of a hart. -/

/-- The hart without its S set and the view of its fetch. -/
def Hart.still (h : Hart) : Hart := { h with sset := .launch, view := [] }

theorem Hart.prv_of_still {h k : Hart} (e : k.still = h.still) : k.prv = h.prv :=
  show k.still.prv = h.still.prv by rw [e]

theorem foldl_still {α : Type} {f : State → α → State} (hf : ∀ s a, (f s a).cur.still = s.cur.still) (l : List α) (s : State) :
    (l.foldl f s).cur.still = s.cur.still := by
  induction l generalizing s with
  | nil => rfl
  | cons a l ih => exact (ih _).trans (hf s a)

section Controllers
variable (s : State)

@[simp] theorem State.updPart_cur (p : Nat) (f : Partition → Partition) : (s.updPart p f).cur = s.cur := by
  rw [State.updPart_frame]

@[simp] theorem State.count_cur (p hi lo : Nat) : (s.count p hi lo).cur = s.cur := State.updPart_cur ..

@[simp] theorem State.signalS_still (p code : Nat) (on : Bool) : (s.signalS p code on).cur.still = s.cur.still := by
  unfold State.signalS State.updHart
  split <;> rfl

@[simp] theorem State.report_still (p : Nat) (r : ErrRecord) : (s.report p r).cur.still = s.cur.still := by
  simp [State.report]

@[simp] theorem State.enterPoison_still (mid unit pa cls layout : Nat) :
    (s.enterPoison mid unit pa cls layout).cur.still = s.cur.still := by
  dsimp only [State.enterPoison]
  split
  · rfl
  · split
    · rfl
    · split
      · rfl
      · split <;> rw [State.report_still]

@[simp] theorem State.clearPoison_cur (unit pa : Nat) : (s.clearPoison unit pa).cur = s.cur := by
  dsimp only [State.clearPoison]
  split
  · rfl
  · split <;> rfl

@[simp] theorem State.noteClass_still (mid unit pa layout cls : Nat) (free : Bool) :
    (s.noteClass mid unit pa layout cls free).cur.still = s.cur.still := by
  have hfree : (if free then { s with free := s.free + 1 } else s).cur = s.cur := by split <;> rfl
  unfold State.noteClass
  dsimp only
  split <;> simp [hfree]

@[simp] theorem State.readSector_still (mid unit pa layout : Nat) : (s.readSector mid unit pa layout).2.cur.still = s.cur.still :=
  State.noteClass_still ..

theorem State.noteStore_still (id : HartId) (key : Nat) (old new : Byte) : (s.noteStore id key old new).cur.still = s.cur.still := by
  unfold State.noteStore
  split
  · rfl
  · dsimp only [State.mapHarts]
    split <;> rfl

theorem State.pokeBytes_still (id : HartId) (key n x en : Nat) : (s.pokeBytes id key n x en).cur.still = s.cur.still := by
  induction n generalizing s key x en with
  | zero => rfl
  | succ n ih =>
    rw [State.pokeBytes, ih]
    split
    · exact s.noteStore_still ..
    · rfl

theorem State.storeWhole_still (mid unit pa layout data : Nat) : (s.storeWhole mid unit pa layout data).cur.still = s.cur.still := by
  simp [State.storeWhole, State.pokeBytes_still]

theorem State.storeRead_still (mid pa old data en : Nat) : (s.storeRead mid pa old data en).cur.still = s.cur.still := by
  unfold State.storeRead
  dsimp only
  rw [State.pokeBytes_still]
  split <;> rfl

theorem State.storePart_still (mid unit pa layout data en : Nat) :
    (s.storePart mid unit pa layout data en).2.cur.still = s.cur.still := by
  have hfree : (if (s.decodeSector unit pa layout).free then { s with free := s.free + 1 } else s).cur = s.cur := by split <;> rfl
  unfold State.storePart
  dsimp only
  split
  · rw [State.report_still]
    split <;> simp [hfree]
  · rw [State.storeRead_still]
    split <;> simp [hfree]

theorem State.storeSector_still (mid unit pa layout data en : Nat) :
    (s.storeSector mid unit pa layout data en).2.cur.still = s.cur.still := by
  unfold State.storeSector
  split
  · dsimp only
    exact s.storeWhole_still ..
  · exact s.storePart_still ..

end Controllers

section Walk
variable (s : State) (r : Req)

theorem State.hostProbe_cur (p o : Nat) (ns : Bool) : (s.hostProbe p o ns).2.cur = s.cur := by
  unfold State.hostProbe
  split
  · rfl
  · split
    · rfl
    · dsimp only
      split
      · rfl
      · split
        · rfl
        · exact s.updPart_cur ..

theorem State.askPeer_cur (x : Sent) : (s.askPeer x).2.cur = s.cur := by
  unfold State.askPeer
  split
  · rfl
  · split
    · rfl
    · split <;> rfl

theorem State.leaseSector_cur (id : HartId) (op : PeerOp) (pa : Nat) : (s.leaseSector id op pa).2.cur = s.cur := by
  have h := s.askPeer_cur (s.toLessor id 0 (pa / 64 * 64) 64 op)
  unfold State.leaseSector
  split <;> rename_i e <;> rw [e] at h <;> exact h

theorem State.ownSector_still (pa : Nat) : (s.ownSector r pa).2.cur.still = s.cur.still := by
  unfold State.ownSector
  split
  · split
    · rfl
    · dsimp only
      split <;> exact s.readSector_still ..
  · rename_i o _
    have h := congrArg Hart.still (s.hostProbe_cur r.part (o / 64 * 64) false)
    split <;> rename_i e <;> rw [e] at h <;> exact h
  · split
    · rfl
    · have h := congrArg Hart.still (s.leaseSector_cur r.mid .read pa)
      split <;> rename_i e <;> rw [e] at h <;> exact h
  · rfl
  · rfl

theorem State.walkRead_still (pa : Nat) : (s.walkRead r pa).2.cur.still = s.cur.still := by
  have h := s.ownSector_still r pa
  unfold State.walkRead
  split <;> rename_i e <;> rw [e] at h <;> exact h

theorem State.groupLeaf_still (level : Nat) (as : List Nat) : (State.groupLeaf r level as s).2.cur.still = s.cur.still := by
  induction as generalizing s with
  | nil => rfl
  | cons a as ih =>
    have h := s.walkRead_still r a
    rw [State.groupLeaf]
    split <;> rename_i e <;> rw [e] at h
    · exact h
    · exact (ih _).trans h
    · split
      · exact h
      · exact (ih _).trans h

theorem State.malformedLeaf_still (level e at' : Nat) : (s.malformedLeaf r level e at').2.cur.still = s.cur.still := by
  unfold State.malformedLeaf
  dsimp only
  split
  · rfl
  · exact s.groupLeaf_still ..

theorem State.walkFrom_still (va : Nat) (ls : List Nat) (table : Nat) : (State.walkFrom r va ls table s).2.cur.still = s.cur.still := by
  induction ls generalizing s table with
  | nil => rfl
  | cons l ls ih =>
    have h := s.walkRead_still r (table + 8 * (va / 2 ^ (12 + 9 * l) % 512))
    rw [State.walkFrom]
    split <;> rename_i e <;> rw [e] at h
    · exact h
    · split
      · exact h
      · split
        · split
          · exact h
          · exact (ih _ _).trans h
        · split
          · exact (State.malformedLeaf_still ..).trans h
          · exact h

theorem State.walk_still (va : Nat) : (s.walk r va).2.cur.still = s.cur.still := by
  unfold State.walk
  dsimp only
  split
  · exact s.walkFrom_still ..
  · rfl

theorem State.reachLeaf_cur (a : Acc) (va : Nat) (leaf : Leaf) : (s.reachLeaf r a va leaf).2.cur = s.cur := by
  unfold State.reachLeaf
  split
  · rfl
  · split
    · rfl
    · dsimp only
      split
      · split <;> rfl
      · exact s.hostProbe_cur ..
      · split <;> rfl
      · rfl
      · rfl

/-- A probe in the aperture or above it makes no walk. -/
theorem State.probe_of_apertureBase_le {va : Nat} (hva : apertureBase ≤ va) (a : Acc) (un : Bool) (n : Nat) :
    (s.probe r a un va n).2 = s := by
  generalize h : s.probe r a un va n = p
  unfold State.probe at h
  rw [if_pos hva] at h
  dsimp only at h
  repeat' split at h
  all_goals exact h ▸ rfl

theorem State.probe_still (a : Acc) (un : Bool) (va n : Nat) : (s.probe r a un va n).2.cur.still = s.cur.still := by
  by_cases hva : apertureBase ≤ va
  · rw [s.probe_of_apertureBase_le r hva]
  · unfold State.probe
    rw [if_neg hva]
    split
    · rfl
    · split
      · rfl
      · have h := s.walk_still r va
        split <;> rename_i e <;> rw [e] at h
        · exact h
        · exact (congrArg Hart.still (State.reachLeaf_cur ..)).trans h

theorem State.tagWalk_still (va : Nat) : (s.tagWalk r va).cur.still = s.cur.still := by
  unfold State.tagWalk
  dsimp only
  split
  · rfl
  · exact foldl_still (fun t u => congrArg Hart.still (t.request_cur ..)) _ _

theorem State.probed_still (a : Acc) (un : Bool) (va n : Nat) : (s.probed r a un va n).2.cur.still = s.cur.still :=
  (State.tagWalk_still ..).trans (s.probe_still ..)

end Walk

section Stores
variable (s : State)

@[simp] theorem State.renewParity_cur (core w : Nat) : (s.renewParity core w).cur = s.cur := by
  unfold State.renewParity
  dsimp only
  split <;> rfl

theorem State.rebuildWord_still (mid core w : Nat) : (s.rebuildWord mid core w).2.cur.still = s.cur.still := by
  unfold State.rebuildWord
  split <;> simp

theorem State.spadWordRead_still (mid core w : Nat) : (s.spadWordRead mid core w).2.cur.still = s.cur.still := by
  unfold State.spadWordRead
  dsimp only
  split
  · rfl
  · split
    · exact congrArg Hart.still (s.count_cur ..)
    · exact s.rebuildWord_still ..

theorem State.spadTouch_still (mid core : Nat) (ws : List Nat) : (s.spadTouch mid core ws).2.cur.still = s.cur.still := by
  induction ws generalizing s with
  | nil => rfl
  | cons w ws ih =>
    have h := s.spadWordRead_still mid core w
    rw [State.spadTouch]
    split <;> rename_i e <;> rw [e] at h
    · exact (ih _).trans h
    · exact h

theorem State.spadStore_still (mid core off n x : Nat) : (s.spadStore mid core off n x).2.cur.still = s.cur.still := by
  have h := s.spadTouch_still mid core ((wordsOf off n).filter fun w => !(off ≤ 4 * w && 4 * w + 4 ≤ off + n))
  unfold State.spadStore
  dsimp only
  split <;> rename_i e <;> rw [e] at h <;> exact h

theorem State.storeAt_still (mid : Nat) (l : Loc) (n x stream id : Nat) :
    (s.storeAt mid l n x stream id).2.cur.still = s.cur.still := by
  cases l with
  | spad core off =>
    have h := s.spadStore_still mid core off n x
    unfold State.storeAt
    dsimp only
    split <;> rename_i e <;> rw [e] at h
    · rwa [State.request_cur]
    · exact h
  | dram u pa layout ns =>
    unfold State.storeAt
    dsimp only
    rw [State.request_cur]
    exact s.storeSector_still ..
  | host o ns => exact s.pokeBytes_still ..
  | lease pa ns => rfl
  | doorbell q off ns =>
    unfold State.storeAt
    dsimp only
    split <;> simp

theorem State.storeLine_still (mid : Nat) (l : Loc) (x : Nat) : (s.storeLine mid l x).2.cur.still = s.cur.still := by
  unfold State.storeLine
  split
  · exact foldl_still (fun t i => t.storeAt_still ..) _ _
  · exact s.storeAt_still ..

/-- The write of a frame, however it ends. -/
theorem State.writeFrame_still (r : Req) (n va : Nat) (ws : List Nat) : (State.writeFrame r n va ws s).2.cur.still = s.cur.still := by
  induction n generalizing s va ws with
  | zero => rfl
  | succ n ih =>
    have h := s.probed_still r .store false va 8
    rw [State.writeFrame]
    split <;> rename_i e <;> rw [e] at h
    case h_7 =>
      dsimp only
      split
      · rename_i t _ u pa layout _
        have hs := t.storePart_still r.mid u pa layout (packWords (ws.take 8)) (2 ^ 64 - 1)
        split <;> rename_i e' <;> rw [e'] at hs
        · rw [State.request_cur]
          exact hs.trans h
        · rw [ih, State.request_cur]
          exact hs.trans h
      · rw [ih]
        exact (State.storeLine_still ..).trans h
    all_goals exact h

end Stores

end Sys2Proof.Machine

namespace Sys2Proof.Machine

open Sys2Proof

/-! ### Fields of a word -/

theorem fld_mul_two_pow (x hi lo : Nat) : fld x hi lo * 2 ^ lo = x &&& (2 ^ (hi + 1 - lo) - 1) * 2 ^ lo := by
  apply Nat.eq_of_testBit_eq
  intro i
  rw [fld, Nat.testBit_and, Nat.testBit_mul_two_pow, Nat.testBit_mul_two_pow, Nat.testBit_mod_two_pow, Nat.testBit_two_pow_sub_one,
    Nat.testBit_div_two_pow]
  by_cases hlo : lo ≤ i
  · rw [Nat.sub_add_cancel hlo]
    simp [hlo, Bool.and_comm]
  · simp [hlo]

/-- A write of a field sets the bits of the field and no other. -/
theorem testBit_putFld {hi lo : Nat} (hw : lo ≤ hi) (x v i : Nat) :
    (putFld x hi lo v).testBit i = if lo ≤ i ∧ i ≤ hi then v.testBit (i - lo) else x.testBit i := by
  have hsplit (y f : Nat) : 2 ^ lo * (2 ^ (hi + 1 - lo) * y + f) + x % 2 ^ lo
      = 2 ^ lo * (2 ^ (hi + 1 - lo) * y) + x % 2 ^ lo + f * 2 ^ lo := by
    ring
  have hx : 2 ^ lo * (2 ^ (hi + 1 - lo) * (x / 2 ^ lo / 2 ^ (hi + 1 - lo)) + fld x hi lo) + x % 2 ^ lo = x := by
    rw [fld, Nat.div_add_mod, Nat.div_add_mod]
  have hput : putFld x hi lo v
      = 2 ^ lo * (2 ^ (hi + 1 - lo) * (x / 2 ^ lo / 2 ^ (hi + 1 - lo)) + v % 2 ^ (hi + 1 - lo)) + x % 2 ^ lo := by
    rw [hsplit] at hx ⊢
    unfold putFld
    omega
  have hlow : x % 2 ^ lo < 2 ^ lo := Nat.mod_lt _ (by positivity)
  have hv : v % 2 ^ (hi + 1 - lo) < 2 ^ (hi + 1 - lo) := Nat.mod_lt _ (by positivity)
  rw [hput, Nat.testBit_two_pow_mul_add _ hlow, Nat.testBit_two_pow_mul_add _ hv, Nat.testBit_mod_two_pow, Nat.testBit_mod_two_pow,
    Nat.testBit_div_two_pow, Nat.testBit_div_two_pow]
  by_cases hlo : i < lo
  · rw [if_pos hlo, if_neg (by omega), decide_eq_true hlo, Bool.true_and]
  · by_cases hhi : i ≤ hi
    · rw [if_neg hlo, if_pos (by omega), if_pos (by omega), decide_eq_true (by omega), Bool.true_and]
    · rw [if_neg hlo, if_neg (by omega), if_neg (by omega)]
      congr 1
      omega

/-! ### Trap entry (R380) -/

theorem TrapSet.frame_eq (t : TrapSet) : t.frame = (t.tframe &&& 0x01FFFFFFFFFFFE00#64).toNat := by
  rw [TrapSet.frame, BitVec.toNat_and]
  exact fld_mul_two_pow t.tframe.toNat 56 9

theorem handlerAddress_eq (w : Word) : BitVec.ofNat 64 (4 * fld w.toNat 56 2) = w &&& 0x01FFFFFFFFFFFFFC#64 := by
  have h : 4 * fld w.toNat 56 2 = (w &&& 0x01FFFFFFFFFFFFFC#64).toNat := by
    rw [Nat.mul_comm, BitVec.toNat_and]
    exact fld_mul_two_pow w.toNat 56 2
  rw [h, BitVec.ofNat_toNat, BitVec.setWidth_eq]

/-- TSTATE at entry bit by bit: HOLD and INH set, HOLDW from HOLD, FROM the level left. -/
theorem TrapSet.enter_getLsbD (t : TrapSet) (l : Level) {i : Nat} (hi : i < 64) :
    (t.enter l).getLsbD i = if i = 6 ∨ i = 7 then true
      else if i = 5 then t.tstate.getLsbD 6
      else if 3 ≤ i ∧ i ≤ 4 then l.code.testBit (i - 3)
      else t.tstate.getLsbD i := by
  have hold : (fld t.tstate.toNat 6 6).testBit 0 = t.tstate.getLsbD 6 := by
    rw [fld, Nat.testBit_mod_two_pow, Nat.testBit_div_two_pow]
    rfl
  simp only [TrapSet.enter, BitVec.getLsbD_ofNat, testBit_putFld (show 3 ≤ 4 by decide), testBit_putFld (le_refl _)]
  rcases (by omega : i = 5 ∨ i = 6 ∨ i = 7 ∨ i < 5 ∨ 7 < i) with rfl | rfl | rfl | hout
  · simp [hold]
  · simp
  · simp
  · have h5 : ¬(5 ≤ i ∧ i ≤ 5) := by omega
    have h6 : ¬(6 ≤ i ∧ i ≤ 6) := by omega
    have h7 : ¬(7 ≤ i ∧ i ≤ 7) := by omega
    rw [if_neg h6, if_neg h5, if_neg h7, if_neg (show ¬(i = 6 ∨ i = 7) by omega), if_neg (show ¬i = 5 by omega),
      decide_eq_true hi]
    rfl

theorem TrapSet.enter_from (t : TrapSet) (l : Level) : ((t.enter l).extractLsb' 3 2).toNat = l.code := by
  have h : (t.enter l).extractLsb' 3 2 = BitVec.ofNat 2 l.code := by
    apply BitVec.eq_of_getLsbD_eq
    intro i hi
    rw [BitVec.getLsbD_extractLsb', TrapSet.enter_getLsbD t l (by omega), BitVec.getLsbD_ofNat]
    have : i = 0 ∨ i = 1 := by omega
    rcases this with rfl | rfl <;> simp
  rw [h]
  cases l <;> rfl

/-- A trap set with its record and TSTATE as entry leaves them is entered. -/
theorem TrapSet.entered (t : TrapSet) (l : Level) (resume cause deta detb : Word) :
    t.Entered { t with tresume := pcField resume, tcause := cause, tdeta := deta, tdetb := detb, tstate := t.enter l }
      l resume cause deta detb := by
  refine ⟨rfl, ?_, ?_, ?_, ?_, fun i hi hout => ?_⟩
  · exact (t.enter_from l).trans (by cases l <;> rfl)
  · exact t.enter_getLsbD l (by decide)
  · exact t.enter_getLsbD l (by decide)
  · exact t.enter_getLsbD l (by decide)
  · rw [TrapSet.enter_getLsbD t l hi, if_neg (by omega), if_neg (by omega), if_neg (by omega)]

/-- The last steps of entry put the hart at the handler of a level above U. -/
theorem Hart.atHandler_isAtHandler (h : Hart) {level : Level} (hl : level ≠ .u) (resume cause deta detb : Word) :
    h.AtHandler (h.atHandler h.prv level resume cause deta detb) level resume cause deta detb := by
  cases level with
  | u => exact absurd rfl hl
  | s =>
    refine ⟨h.sset.entered h.prv resume cause deta detb, ?_⟩
    dsimp only
    rw [← handlerAddress_eq]
    rfl
  | m =>
    refine ⟨h.mset.entered h.prv resume cause deta detb, ?_⟩
    dsimp only
    rw [← handlerAddress_eq]
    rfl

/-- Entry at a level whose frame is written, and at M while its set is not being handled. -/
theorem State.enter_of_done {s s2 : State} {level : Level} (hl : level ≠ .u) (hinh : level = .m → s.cur.mset.inh = false)
    (hw : State.writeFrame { s.cur.req with level := level } 8 (s.cur.trapSet level).frame s.cur.frameWords s = (.done, s2))
    (resume at' cause deta detb : Word) :
    s.enter level resume at' cause deta detb = .next { s2 with cur := s2.cur.atHandler s.cur.prv level resume cause deta detb } := by
  cases level with
  | u => exact absurd rfl hl
  | s =>
    have hw' : State.writeFrame { s.cur.req with level := .s } 8 s.cur.sset.frame s.cur.frameWords s = (.done, s2) := hw
    unfold State.enter
    dsimp only
    rw [hw']
  | m =>
    have hw' : State.writeFrame { s.cur.req with level := .m } 8 s.cur.mset.frame s.cur.frameWords s = (.done, s2) := hw
    unfold State.enter State.enterM
    dsimp only
    rw [hinh rfl, hw']
    rfl

/-- A trap outside a lane block that records neither class, kind, access, stream nor element. -/
theorem Trap.detb_plain (code deta pc : Nat) : Trap.detb { code := code, deta := deta } none pc = 0 := by
  simp [Trap.detb]

theorem takenAt_ne_u (l : Level) (code : Nat) : takenAt l code ≠ .u := by
  unfold takenAt
  split
  · decide
  · split <;> decide

theorem Hart.leaveLane_of_none {h : Hart} (hl : h.lane = none) : h.leaveLane = h := by
  unfold Hart.leaveLane
  rw [hl]

theorem Hart.leaveLane_id (h : Hart) : h.leaveLane.id = h.id := by
  unfold Hart.leaveLane
  split <;> rfl

theorem Hart.leaveLane_trapSet (h : Hart) (l : Level) : h.leaveLane.trapSet l = h.trapSet l := by
  unfold Hart.leaveLane
  split <;> cases l <;> rfl

theorem Hart.trapSet_tframe (h : Hart) (l : Level) :
    (h.trapSet l).tframe = if l = .m then h.mset.tframe else h.sset.tframe := by
  cases l <;> rfl

/-- What a trap drops of its instruction before entry (R42, R148, R378). -/
theorem State.trapped_eq (s : State) (h : Hart) (hid : h.id = s.cur.id) :
    ((({ s with cur := h } : State).breakLinks s.cur.id).dropPeerData).orphanReads s.cur.id = s.trapped h := by
  simp only [dropPeerData_eq, State.orphanReads, State.breakLinks, State.trapped, hid]

/-- A trap that nothing the hart has posted orders after it goes on to entry at its level. -/
theorem State.takeTrap_of_clear {s : State} {t : Trap} (hst : s.clearStream 0 true)
    (hbuf : s.clearBytes (s.cur.trapSet (takenAt s.cur.prv t.code)).frame 512) :
    s.takeTrap t = (s.trapped s.cur.leaveLane).enter (takenAt s.cur.prv t.code) (t.resume s.cur.leaveLane.pc) s.cur.leaveLane.pc
      (BitVec.ofNat 64 t.code) (t.detaWord s.cur.ir) (t.detb s.cur.lane s.cur.pc.toNat) := by
  unfold State.clearStream at hst
  unfold State.clearBytes at hbuf
  unfold State.takeTrap
  dsimp only
  rw [hst, hbuf, State.trapped_eq s _ s.cur.leaveLane_id]
  rfl

/-- A trap whose frame is written enters the handler of its level. The write keeps the level that FROM records. -/
theorem State.takeTrap_of_done {s s2 : State} {t : Trap} {level : Level} (hl : takenAt s.cur.prv t.code = level)
    (hinh : level = .m → s.cur.mset.inh = false) (hst : s.clearStream 0 true) (hbuf : s.clearBytes (s.cur.trapSet level).frame 512)
    (hw : State.writeFrame { s.cur.leaveLane.req with level := level } 8 (s.cur.trapSet level).frame s.cur.leaveLane.frameWords
      (s.trapped s.cur.leaveLane) = (.done, s2)) :
    ∃ k : Hart, s2.cur.AtHandler k level (t.resume s.cur.leaveLane.pc) (BitVec.ofNat 64 t.code) (t.detaWord s.cur.ir)
        (t.detb s.cur.lane s.cur.pc.toNat)
      ∧ s.takeTrap t = .next { s2 with cur := k } := by
  subst hl
  have hu := takenAt_ne_u s.cur.prv t.code
  rw [← s.cur.leaveLane_trapSet] at hw
  have hstill := State.writeFrame_still (s.trapped s.cur.leaveLane)
    { s.cur.leaveLane.req with level := takenAt s.cur.prv t.code } 8
    (s.cur.leaveLane.trapSet (takenAt s.cur.prv t.code)).frame s.cur.leaveLane.frameWords
  rw [hw] at hstill
  have hprv : s2.cur.prv = s.cur.leaveLane.prv := Hart.prv_of_still hstill
  refine ⟨_, s2.cur.atHandler_isAtHandler hu _ _ _ _, ?_⟩
  rw [State.takeTrap_of_clear hst hbuf, hprv]
  refine State.enter_of_done hu (fun hm => ?_) hw _ _ _ _ _
  exact (congrArg TrapSet.inh (s.cur.leaveLane_trapSet .m)).trans (hinh hm)

/-! ### TRAP, BRK and TRAPM -/

section TrapInstructions
variable {s : State} (hp : s.cur.plain)
include hp

theorem execTrap_of_plain (n : BitVec 8) : execTrap n s = s.takeTrap { code := 0x0A, deta := n.toNat } :=
  run_trap (Act.bind_ok (begin_never_of_plain hp false))

theorem execBrk_of_plain : execBrk s = s.takeTrap { code := 0x09 } :=
  run_trap (Act.bind_ok (begin_never_of_plain hp false))

theorem execTrapm_of_plain (hu : s.cur.prv ≠ .u) (n : BitVec 8) : execTrapm n s = s.takeTrap { code := 0x0B, deta := n.toNat } := by
  have hpriv : needPrivilege s = .ok ((), s) := by
    unfold needPrivilege
    rw [Act.bind_ok (hart_run s), if_neg (by simpa using hu)]
    rfl
  refine run_trap ?_
  rw [Act.bind_ok hpriv]
  exact Act.bind_ok (begin_never_of_plain hp false)

end TrapInstructions

end Sys2Proof.Machine

namespace Sys2Proof.Proofs

open Sys2Proof Sys2Proof.Machine

/-- Settles O20: each of the three instructions is its trap, and a trap whose frame is written enters the handler of its level. -/
theorem trapInstructions : Obligations.TrapInstructions := by
  unfold Obligations.TrapInstructions
  intro s s2 n i code deta level hlane hlent hi hinh frame hst hbuf hw
  have hlv : s.cur.leaveLane = s.cur := Hart.leaveLane_of_none hlane
  have hexec : exec i s = s.takeTrap { code := code, deta := deta } := by
    rcases hi with ⟨rfl, rfl, rfl, -⟩ | ⟨rfl, rfl, rfl, -⟩ | ⟨rfl, rfl, rfl, -, hu⟩
    · exact execTrap_of_plain ⟨hlane, hlent⟩ n
    · exact execBrk_of_plain ⟨hlane, hlent⟩
    · exact execTrapm_of_plain ⟨hlane, hlent⟩ hu n
  have hlevel : takenAt s.cur.prv code = level := by
    rcases hi with ⟨-, rfl, -, rfl⟩ | ⟨-, rfl, -, rfl⟩ | ⟨-, rfl, -, rfl, -⟩ <;> cases s.cur.prv <;> rfl
  have hframe : (s.cur.trapSet level).frame = frame := by rw [TrapSet.frame_eq, Hart.trapSet_tframe]
  have hresume : Trap.resume { code := code, deta := deta } s.cur.pc = if code = 0x09 then s.cur.pc else s.cur.pc + 4 := by
    rcases hi with ⟨-, rfl, -⟩ | ⟨-, rfl, -⟩ | ⟨-, rfl, -⟩ <;> rfl
  have hdeta : Trap.detaWord { code := code, deta := deta } s.cur.ir = BitVec.ofNat 64 deta := by
    rcases hi with ⟨-, rfl, -⟩ | ⟨-, rfl, -⟩ | ⟨-, rfl, -⟩ <;> rfl
  obtain ⟨k, hk, htrap⟩ := State.takeTrap_of_done (t := { code := code, deta := deta }) hlevel hinh hst (hframe ▸ hbuf)
    (by rw [hframe, hlv]; exact hw)
  rw [hlv, hresume, hdeta, hlane, Trap.detb_plain] at hk
  exact ⟨k, hk, hexec.trans htrap⟩

end Sys2Proof.Proofs

namespace Sys2Proof.Machine

open Sys2Proof

/-! ### The fields of a type tag (R56) -/

theorem fld_toNat (t : Word) (hi lo : Nat) : fld t.toNat hi lo = (t.extractLsb' lo (hi + 1 - lo)).toNat := by
  rw [BitVec.extractLsb'_toNat, Nat.shiftRight_eq_div_pow]
  rfl

theorem fld_toNat_eq_zero_iff (t : Word) (hi lo : Nat) : fld t.toNat hi lo = 0 ↔ t.extractLsb' lo (hi + 1 - lo) = 0 := by
  rw [fld_toNat]
  exact BitVec.toNat_inj (y := 0)

theorem tagGroup_eq (t : Word) : tagGroup t = 2 ^ (t.extractLsb' 8 2).toNat := congrArg (2 ^ ·) (fld_toNat t 9 8)

theorem tagFmt_eq (t : Word) : tagFmt t = (t.extractLsb' 0 5).toNat := fld_toNat t 4 0

theorem tagScale_eq (t : Word) : tagScale t = (t.extractLsb' 27 5).toNat := fld_toNat t 31 27

theorem tagSblk_eq_zero_iff (t : Word) : tagSblk t = 0 ↔ t.extractLsb' 25 2 = 0 := fld_toNat_eq_zero_iff t 26 25

/-- SLEN and the reserved field below it make up the upper half of the tag. -/
theorem tagSlen_eq_zero_and_reserved_iff (t : Word) :
    tagSlen t = 0 ∧ fld t.toNat 47 32 = 0 ↔ t.extractLsb' 32 32 = 0 := by
  rw [← fld_toNat_eq_zero_iff t 63 32]
  simp only [tagSlen, fld]
  omega

/-! ### VCFG (R243) -/

/-- The tags that VCFG accepts are those of which R243 refuses none. -/
theorem cfgOk_iff (vd : VReg) (t : Word) :
    cfgOk vd t = true ↔ t.extractLsb' 32 32 = 0 ∧ t.extractLsb' 10 14 = 0 ∧ t.extractLsb' 5 3 = 0
      ∧ ((t.extractLsb' 0 5).toNat ≤ 0x11 ∨ 0x18 ≤ (t.extractLsb' 0 5).toNat)
      ∧ vd.val % 2 ^ (t.extractLsb' 8 2).toNat = 0
      ∧ (t.extractLsb' 25 2 ≠ 0 → ¬(vd.val ≤ (t.extractLsb' 27 5).toNat ∧
          (t.extractLsb' 27 5).toNat < vd.val + 2 ^ (t.extractLsb' 8 2).toNat))
      ∧ ¬(t.getLsbD 24 = true ∧ t.extractLsb' 25 2 ≠ 0) := by
  rw [← tagSlen_eq_zero_and_reserved_iff, ← fld_toNat_eq_zero_iff t 23 10, ← fld_toNat_eq_zero_iff t 7 5, ← tagFmt_eq, ← tagGroup_eq,
    ← tagScale_eq, ne_eq, ← tagSblk_eq_zero_iff]
  simp only [cfgOk, tagSparse, Bool.and_eq_true, Bool.or_eq_true, beq_iff_eq, decide_eq_true_eq, Bool.not_eq_true', ← Bool.not_eq_true,
    bne_iff_ne, Nat.lt_succ_iff, not_and, and_assoc]

theorem overlaps_eq_true_iff (a n b m : Nat) : overlaps a n b m = true ↔ a < b + m ∧ b < a + n := by
  simp only [overlaps, Bool.and_eq_true, decide_eq_true_eq]

/-- VCFG leaves of the hart everything but its tags, which are those of R243. -/
theorem Hart.configure_eq (h : Hart) (vd : VReg) (t : Word) :
    h.configure vd t = { h with tag := Vector.ofFn fun q => configuredTag h vd t q } := by
  simp only [Hart.configure, configuredTag, groupOf, overlaps_eq_true_iff, Bool.and_eq_true, decide_eq_true_eq]
  rfl

theorem Hart.configure_id (h : Hart) (vd : VReg) (t : Word) : (h.configure vd t).id = h.id := by
  rw [Hart.configure_eq]

/-- An instruction that takes a mask and names no destination goes with lent state that names no copy (R174). -/
theorem begin_masked_none {s : State} (hlane : s.cur.lane = none) (hcopy : s.cur.noCopy) :
    begin false (.masked .none) s = .ok ((), s) := by
  have hpair : s.cur.pairOk (.masked .none) = true := by
    cases hl : s.cur.lent
    · simp [Hart.pairOk, hl]
    · simp [Hart.pairOk, Hart.copyOk, hcopy hl]
  rw [begin_run, hlane, hpair]
  rfl

section Configure
variable {s : State} (hlane : s.cur.lane = none) (hcopy : s.cur.noCopy) {vd : VReg} {sb : SReg}
include hlane hcopy

theorem execVcfg_of_cfgOk (hok : cfgOk vd (s.cur.rs sb) = true) :
    execVcfg vd sb s
      = .next (s.after ({ s.cur with tag := Vector.ofFn fun q => configuredTag s.cur vd (s.cur.rs sb) q } : Hart).past) := by
  have hbody : execVcfg vd sb s = .next ({ s with cur := s.cur.configure vd (s.cur.rs sb) } : State).retire := by
    refine run_ok ?_
    rw [Act.bind_ok (begin_masked_none hlane hcopy), Act.bind_ok (hart_run s),
      Act.bind_ok ((operand_run _ s).trans (if_pos hok))]
    exact updCur_run _ s
  rw [hbody, State.retire_after s _ (Hart.configure_id ..), Hart.configure_eq]

theorem execVcfg_of_not_cfgOk (hok : ¬cfgOk vd (s.cur.rs sb) = true) : execVcfg vd sb s = s.takeTrap { code := 0x03 } := by
  refine run_trap ?_
  rw [Act.bind_ok (begin_masked_none hlane hcopy), Act.bind_ok (hart_run s)]
  exact Act.bind_error ((operand_run _ s).trans (if_neg hok))

end Configure

end Sys2Proof.Machine

namespace Sys2Proof.Proofs

open Sys2Proof Sys2Proof.Machine

/-- Settles O36: the model's check of the tag is the rule's condition, and it alone decides between the new tags and the trap. -/
theorem configureVector : Obligations.ConfigureVector := by
  unfold Obligations.ConfigureVector
  intro s vd sb hlane hcopy t ok
  have hok : cfgOk vd t = true ↔ ok := cfgOk_iff vd t
  rw [← hok]
  exact ⟨execVcfg_of_cfgOk hlane hcopy, execVcfg_of_not_cfgOk hlane hcopy⟩

end Sys2Proof.Proofs

namespace Sys2Proof.Machine

open Sys2Proof

/-! ### What loads leave of the issuing hart -/

section Loads
variable (s : State)

theorem State.noteLoad_still (id key n : Nat) : (s.noteLoad id key n).cur.still = s.cur.still := by
  unfold State.noteLoad
  split <;> rfl

theorem State.loadAt_still (id mid : Nat) (l : Loc) (n : Nat) : (s.loadAt id mid l n).2.cur.still = s.cur.still := by
  cases l with
  | spad core off =>
    have h := s.spadTouch_still mid core (wordsOf off n)
    unfold State.loadAt
    dsimp only
    split <;> rename_i e <;> rw [e] at h
    · exact h
    · rw [State.noteLoad_still, State.request_cur]
      exact h
  | dram u pa layout ns =>
    unfold State.loadAt
    dsimp only
    rw [State.noteLoad_still, State.request_cur]
    exact s.readSector_still ..
  | host o ns => exact s.noteLoad_still ..
  | lease pa ns =>
    have h := congrArg Hart.still (s.leaseSector_cur id .read pa)
    unfold State.loadAt
    dsimp only
    split <;> rename_i e <;> rw [e] at h <;> exact h
  | doorbell q off ns => exact congrArg Hart.still (s.request_cur ..)

/-- The load of a frame that ends well. -/
theorem loadWords_still {r : Req} {n va : Nat} {ws : List Nat} {s s' : State} (h : loadWords r n va s = .ok (ws, s')) :
    s'.cur.still = s.cur.still := by
  induction n generalizing va ws s with
  | zero => cases h; rfl
  | succ n ih =>
    have hprobe := s.probed_still r .load false va 8
    rw [loadWords, Act.bind_ok (show (get : Act State) s = .ok (s, s) from rfl)] at h
    rcases hp : s.probed r .load false va 8 with ⟨m | l, t⟩ <;> rw [hp] at h hprobe
    · cases m <;> cases h
    · have hload := t.loadAt_still t.cur.id r.mid l 8
      dsimp only at h
      rcases hl : t.loadAt t.cur.id r.mid l 8 with ⟨⟨c, x⟩ | w, t'⟩ <;> rw [hl] at h hload
      · dsimp only at h
        by_cases hc : 3 ≤ c
        · rw [if_pos hc] at h
          cases h
        · rw [if_neg hc, Act.bind_ok (show (set t' : Act PUnit) s = .ok (⟨⟩, t') from rfl)] at h
          obtain ⟨xs, u, hrest, hend⟩ := Act.bind_eq_ok h
          cases hend
          exact (ih hrest).trans (hload.trans hprobe)
      · cases h

end Loads

/-! ### TRET (R381) -/

theorem waitFor_buffer_of_clear {s : State} {va n : Nat} (h : s.clearBytes va n) : waitFor (.buffer va n) s = .ok ((), s) := by
  rw [waitFor_run]
  exact if_pos h

theorem needPrivilege_of_ne_u {s : State} (hu : s.cur.prv ≠ .u) : needPrivilege s = .ok ((), s) := by
  unfold needPrivilege
  rw [Act.bind_ok (hart_run s), if_neg (by simpa using hu)]
  rfl

@[simp] theorem Hart.withTrapSet_id (h : Hart) (l : Level) (t : TrapSet) : (h.withTrapSet l t).id = h.id := by
  cases l <;> rfl

@[simp] theorem Hart.reloaded_id (h : Hart) (ws : List Nat) : (h.reloaded ws).id = h.id := by
  unfold Hart.reloaded
  rfl

/-- The model's scalar state out of a frame is the one of R382, where word i of the frame is item i - 1 of those loaded. -/
theorem Hart.restore_eq (h : Hart) (ws : List Nat) : h.restore ws = h.reloaded ws := by
  have hs (i : Fin 32) : (if i.val = 0 then h.s[(0 : Fin 32)] else BitVec.ofNat 64 (ws.getD (i.val - 1) 0))
      = if i.val = 0 then h.s[i] else BitVec.ofNat 64 (ws.getD (i.val - 1) 0) := by
    by_cases hi : i.val = 0
    · rw [if_pos hi, if_pos hi, show i = 0 from Fin.ext hi]
    · rw [if_neg hi, if_neg hi]
  have ha (i : Fin 16) : BitVec.ofNat 64 (ws.getD (31 + i.val) 0) = BitVec.ofNat 64 (ws.getD (32 + i.val - 1) 0) := by
    rw [show 32 + i.val - 1 = 31 + i.val by omega]
  have hgl (x : Nat) : BitVec.ofNat 15 (min 16384 (x % 2 ^ 15))
      = if 16384 < ((BitVec.ofNat 64 x).setWidth 15).toNat then 16384#15 else (BitVec.ofNat 64 x).setWidth 15 := by
    apply BitVec.eq_of_toNat_eq
    split <;> rename_i hx <;> simp only [BitVec.toNat_setWidth, BitVec.toNat_ofNat] at hx ⊢ <;> omega
  simp only [Hart.restore, Hart.reloaded, hs, ha, hgl]
  rfl

/-- A trap set as the return from its handler leaves it: INH at 0, HOLD from HOLDW. -/
def TrapSet.returned (t : TrapSet) : TrapSet :=
  { t with tstate := BitVec.ofNat 64 (putFld (putFld t.tstate.toNat 7 7 0) 6 6 (fld t.tstate.toNat 5 5)) }

theorem TrapSet.returned_getLsbD (t : TrapSet) {i : Nat} (hi : i < 64) :
    t.returned.tstate.getLsbD i = if i = 7 then false else if i = 6 then t.tstate.getLsbD 5 else t.tstate.getLsbD i := by
  have holdw : (fld t.tstate.toNat 5 5).testBit 0 = t.tstate.getLsbD 5 := by
    rw [fld, Nat.testBit_mod_two_pow, Nat.testBit_div_two_pow]
    rfl
  simp only [TrapSet.returned, BitVec.getLsbD_ofNat, testBit_putFld (le_refl _), decide_eq_true hi, Bool.true_and]
  rcases (by omega : i = 6 ∨ i = 7 ∨ i < 6 ∨ 7 < i) with rfl | rfl | hout
  · simp [holdw]
  · simp
  · rw [if_neg (by omega), if_neg (by omega), if_neg (by omega), if_neg (by omega)]
    rfl

/-- The rounding mode of FCS among the words of a frame (R381). -/
theorem roundingMode_eq (x : Nat) : fld x 10 8 = ((BitVec.ofNat 64 x).extractLsb' 8 3).toNat := by
  rw [← fld_toNat (BitVec.ofNat 64 x) 10 8, BitVec.toNat_ofNat]
  unfold fld
  omega

/-- The hart past the return: the frame's scalar state, the returned set, the saved level and PC. -/
def Hart.returnedTo (h : Hart) (l : Level) (t : TrapSet) (ws : List Nat) : Hart :=
  { (h.reloaded ws).withTrapSet l t.returned with prv := .ofCode (fld t.tstate.toNat 4 3), pc := t.tresume }

/-- The end of an instruction that leaves the hart at a PC. -/
theorem endAs_pc {α : Type} {s : State} {h : Hart} (hid : h.id = s.cur.id) (pc : Word) :
    (endAs (fun s => { s with cur.pc := pc }) : Act α) { s with cur := h }
      = .error (.stay { s with
          peerData := s.peerData.filter fun e => e.1.id != s.cur.id
          cur := { h with pc := pc } }) := by
  simp only [endAs, dropPeerData_eq, hid]

/-- The return once the frame's words are loaded: the loads leave the level, so that the set put back is the one whose frame they
read. -/
theorem returnFromTrap_of_loaded {s s2 : State} {ws : List Nat} (hinh : (s.cur.trapSet s.cur.prv).inh = true)
    (hst : s.clearStream 0 false) (hbuf : s.clearBytes (s.cur.trapSet s.cur.prv).frame 512)
    (hload : loadWords s.cur.req 53 ((s.cur.trapSet s.cur.prv).frame + 8) s = .ok (ws, s2)) :
    returnFromTrap s = .error (if fld (ws.getD 49 0) 10 8 < 6 then
        .stay { s2 with
          peerData := s2.peerData.filter fun e => e.1.id != s2.cur.id
          cur := s2.cur.returnedTo s.cur.prv (s.cur.trapSet s.cur.prv) ws }
      else .trap { code := 0x03 } s2) := by
  have hprv : s2.cur.prv = s.cur.prv := Hart.prv_of_still (loadWords_still hload)
  unfold returnFromTrap
  rw [Act.bind_ok (hart_run s), Act.bind_ok ((legal_run _ s).trans (if_pos hinh)), Act.bind_ok (waitStream_clear hst),
    Act.bind_ok (waitFor_buffer_of_clear hbuf), Act.bind_ok hload]
  by_cases hrm : fld (ws.getD 49 0) 10 8 < 6
  · rw [if_pos hrm, Act.bind_ok ((operand_run _ s2).trans (if_pos (decide_eq_true hrm))), Act.bind_ok (updCur_run _ s2), hprv,
      Hart.restore_eq]
    refine endAs_pc ?_ _
    rw [Hart.withTrapSet_id, Hart.reloaded_id]
  · rw [if_neg hrm]
    exact Act.bind_error ((operand_run _ s2).trans (if_neg (by simpa using hrm)))

section Return
variable {s : State} (hp : s.cur.plain) (hu : s.cur.prv ≠ .u)
include hp hu

/-- At S or M, outside a lane block and without lent state, TRET is the return from the trap. -/
theorem execTret_of_plain : execTret s = run s returnFromTrap := by
  unfold execTret run
  rw [Act.bind_ok (needPrivilege_of_ne_u hu), Act.bind_ok (begin_never_of_plain hp false)]

theorem execTret_of_not_inh (hinh : (s.cur.trapSet s.cur.prv).inh = false) : execTret s = s.takeTrap { code := 0x01 } := by
  rw [execTret_of_plain hp hu]
  refine run_trap ?_
  unfold returnFromTrap
  rw [Act.bind_ok (hart_run s)]
  exact Act.bind_error ((legal_run _ s).trans (by rw [hinh]; rfl))

variable (hinh : (s.cur.trapSet s.cur.prv).inh = true) (hst : s.clearStream 0 false)
  (hbuf : s.clearBytes (s.cur.trapSet s.cur.prv).frame 512) {ws : List Nat} {s2 : State}
  (hload : loadWords s.cur.req 53 ((s.cur.trapSet s.cur.prv).frame + 8) s = .ok (ws, s2))
include hinh hst hbuf hload

theorem execTret_of_reserved_mode (hrm : 6 ≤ fld (ws.getD 49 0) 10 8) : execTret s = s2.takeTrap { code := 0x03 } := by
  rw [execTret_of_plain hp hu]
  refine run_trap ?_
  rw [returnFromTrap_of_loaded hinh hst hbuf hload, if_neg (not_lt.mpr hrm)]

theorem execTret_of_loaded (hrm : fld (ws.getD 49 0) 10 8 < 6) :
    execTret s = .next { s2 with
      peerData := s2.peerData.filter fun e => e.1.id != s2.cur.id
      cur := s2.cur.returnedTo s.cur.prv (s.cur.trapSet s.cur.prv) ws } := by
  rw [execTret_of_plain hp hu]
  refine run_stay ?_
  rw [returnFromTrap_of_loaded hinh hst hbuf hload, if_pos hrm]

end Return

end Sys2Proof.Machine

namespace Sys2Proof.Proofs

open Sys2Proof Sys2Proof.Machine

/-- Settles O11: the return's three ends, told apart by INH and by the rounding mode that the frame holds. -/
theorem tretReturns : Obligations.TretReturns := by
  unfold Obligations.TretReturns
  intro s hu hlane hlent t
  have ht : t = s.cur.trapSet s.cur.prv := by
    cases h : s.cur.prv <;> simp only [t, h] <;> rfl
  rw [ht]
  have hp : s.cur.plain := ⟨hlane, hlent⟩
  refine ⟨execTret_of_not_inh hp hu, ?_⟩
  intro ws s2 hinh hst hbuf hload rm
  rw [← TrapSet.frame_eq] at hbuf hload
  have hrm : fld (ws.getD 49 0) 10 8 = rm := roundingMode_eq _
  rw [← hrm]
  refine ⟨execTret_of_reserved_mode hp hu hinh hst hbuf hload, fun hlt => ?_⟩
  refine ⟨(s.cur.trapSet s.cur.prv).returned, rfl, fun i hi => TrapSet.returned_getLsbD _ hi, ?_⟩
  refine (execTret_of_loaded hp hu hinh hst hbuf hload hlt).trans ?_
  rw [Hart.returnedTo, fld_toNat]
  cases s.cur.prv <;> rfl

end Sys2Proof.Proofs
